-- ==== Sys2Proof/Word.lean ====
section
/-!
DEFINITION. Word types and the plainest arithmetic on register fields. A register field that the spec
counts in wraps or saturates at its width; `wrapTo` and `satTo` are those two ways (R11, R13).
-/

namespace Sys2Proof

/-- One byte. -/
abbrev Byte := BitVec 8

/-- A sparse table of plain data: (key, record) pairs with rising keys. An unlisted key reads as the
record the reader names as its default. -/
abbrev Tab (α : Type) := List (Nat × α)

/-- Memory of bytes by address, in the same form: an unlisted address reads as zero. -/
abbrev Mem := List (Nat × Byte)

/-- A counter of `w` bits that wraps. -/
def wrapTo (w x : Nat) : Nat := x % 2 ^ w

/-- The difference of two counters of `w` bits that wrap. -/
def wrapSub (w a b : Nat) : Nat := wrapTo w (2 ^ w - b + a)

/-- A counter of `w` bits that stops at its all-ones value. -/
def satTo (w x : Nat) : Nat := min x (2 ^ w - 1)

/-- Bit `i` of a number. -/
def bitOf (x i : Nat) : Bool := (x >>> i) % 2 == 1

/-- Bits [hi:lo] of a number (R9), given the low bit and the width. -/
def bitsOf (x lo w : Nat) : Nat := (x >>> lo) % 2 ^ w

/-- 1 or 0. -/
def b2n (b : Bool) : Nat := if b then 1 else 0

end Sys2Proof
end

