-- ==== Sys2Proof/Syntax.lean ====
section
/-!
DEFINITION. The commands of spec/opcode_table.json, one constructor per row, with the operands each row
takes. A row that is a command packet carries the packet as the device takes it (`Cmd`); a row that is an
event carries what the outside decides about it (which unit, which value). What follows from the device's own
state is never an operand.
-/

namespace Sys2Proof

/-- A command packet as the device takes it from a command ring (R297, Table 11-8): the header fields that the
card's checks use, and the parameters in the clear. -/
structure Cmd where
  ring    : Nat
  tag     : Nat
  pasture : Nat
  session : Bool
  fence   : Bool
  noIrq   : Bool
  params  : List Byte
deriving DecidableEq, Repr

/-- A node of the bellwether tree (R112). -/
inductive TreeNode where
  | pair (q : Nat)
  | row (die r : Nat)
  | die (d : Nat)
  | package
deriving DecidableEq, Repr

/-- What a detected fault struck (Table 10-6): a token whose parity fails strikes every pasture that uses the tree segment (Table 1-4),
tokens that disagree strike their pasture (R116); a single-bit error of a store word is no control fault: the fetches
that find it correct it (R56). -/
inductive FaultSource where
  | storeDbe (fold slot : Nat) (bp : Option Nat) (byScrub : Bool)
  | storeSbe (fold slot : Nat) (bp : Option Nat)
  | seqParity (fold : Nat)
  | treeParity (node : TreeNode)
  | barrierParity (pasture : Nat)
  | linkControl (pasture : Nat)
  | serviceParity (pasture : Nat)
  | imageCopy (fold slot : Nat)
deriving DecidableEq, Repr

/-- What the scrubber's check of one store word found (R56): the BP (none: the side word) and whether the
error is in two bits. -/
structure StoreErr where
  bp     : Option Nat
  double : Bool
deriving DecidableEq, Repr

/-- The outcome of a boot stage's work (R455, Table 18-6). -/
inductive StageResult where
  | ok
  | sramWipe (die : Nat)
  | hbmTrain (stack : Nat)
  | hbmWipe (stack : Nat)
  | slotVerify
deriving DecidableEq, Repr

/-- The rail whose monitor raised a brown-out (Table 18-3, the DETAIL of code 0x63). -/
inductive Rail where
  | core | sram | lane | hbm
deriving DecidableEq, Repr

/-- What resets the PCIe function alone (R367). -/
inductive FnReset where
  | flr | hotReset | linkDown | perst
deriving DecidableEq, Repr

/-- A leaving event of the power ladder (Table 17-5). -/
inductive LadderEvent where
  | w0Access | doorbell | wakePin | deviceEvent | thermal
deriving DecidableEq, Repr

/-- What one retired instruction of a drover core did (R466). -/
inductive DcKind where
  | plain
  | branch (target : Nat)
  | wait
  | wake (target : Nat)
  | access (addr sizeLog2 : Nat) (store : Bool) (value : Nat)
deriving DecidableEq, Repr

/-- An Announce as received on a management port (R371-R376); `interval` is its Announce interval in ns. -/
structure Announce where
  gm            : Nat
  priority1     : Nat
  clockClass    : Nat
  accuracy      : Nat
  variance      : Nat
  priority2     : Nat
  stepsRemoved  : Nat
  interval      : Nat
deriving DecidableEq, Repr

/-- A service packet as it reaches an input or an ejection port: its header words as received (Table 12-4)
and the bytes of its data flits. -/
structure NocPacket where
  word0 : Nat
  word1 : Nat
  data  : List Byte
deriving DecidableEq, Repr

/-- The commands and events of the block: one constructor per row of the table, in the table's order. -/
inductive Instr where
  -- device commands (Table 11-13)
  | pad (ring : Nat) (words : Nat)
  | deviceInfo (c : Cmd)
  | echo (c : Cmd)
  | fwStage (c : Cmd)
  | fwActivate (c : Cmd)
  | wipe (c : Cmd)
  | laneBringup (c : Cmd)
  | laneRetrain (c : Cmd)
  | laneTakeDown (c : Cmd)
  | laneEq (c : Cmd)
  | laneBitslip (c : Cmd)
  | laneLoopback (c : Cmd)
  | laneStatus (c : Cmd)
  | fabricRelease (c : Cmd)
  | powerCap (c : Cmd)
  | clockFloor (c : Cmd)
  | ladderSelect (c : Cmd)
  | padRelease (c : Cmd)
  | timeAccept (c : Cmd)
  | timeConfig (c : Cmd)
  | attest (c : Cmd)
  | sessionOpen (c : Cmd)
  | sessionRebind (c : Cmd)
  | sessionClose (c : Cmd)
  | lcTransition (c : Cmd)
  | traceArm (c : Cmd)
  | traceDisable (c : Cmd)
  | traceStop (c : Cmd)
  | probeConfig (c : Cmd)
  | traceRead (c : Cmd)
  -- pasture commands (Table 11-14) and diagnostic commands (Table 11-15)
  | unload (c : Cmd)
  | loadHeader (c : Cmd)
  | loadChunk (c : Cmd)
  | loadAbort (c : Cmd)
  | run (c : Cmd)
  | freeze (c : Cmd)
  | setWdog (c : Cmd)
  | flowHoldings (c : Cmd)
  | taskKick (c : Cmd)
  | flowTallies (c : Cmd)
  | acqArm (c : Cmd)
  | acqDisarm (c : Cmd)
  | acqForce (c : Cmd)
  | acqRead (c : Cmd)
  | acqProgram (c : Cmd)
  | ringInfo (c : Cmd)
  | ringRollback (c : Cmd)
  | diagRegRead (c : Cmd)
  | diagMemRead (c : Cmd)
  | diagMemWrite (c : Cmd)
  -- writes of window W0 (Table 11-1)
  | crCmdTailWrite (ring value : Nat) (bytes : List Byte)
  | crCplHeadWrite (ring value : Nat)
  | crCtrlEnableSet (ring value : Nat)
  | crCtrlEnableClear (ring : Nat)
  | crStatusHaltedClear (ring : Nat)
  | flowDoorbellWrite (queue size value : Nat)
  | assertValidClear (pasture : Nat)
  | w0BadAccess (write : Bool)
  | registerWrite (offset size value : Nat)
  -- BP operations (Table 2-2)
  | nop (fold bp : Nat)
  | eval (fold bp : Nat)
  | evals (fold bp : Nat)
  | evale (fold bp : Nat)
  | check (fold bp : Nat)
  | copy (fold bp : Nat)
  | xonly (fold bp : Nat)
  -- side-word operations (Table 3-5); `b` selects SPB, `k` the second send or receive
  | scratchpadRd (fold : Nat) (b : Bool)
  | scratchpadWr (fold : Nat) (b : Bool)
  | scratchpadSet (fold : Nat) (b : Bool)
  | scratchpadClr (fold : Nat) (b : Bool)
  | scratchpadWide (fold : Nat) (b : Bool)
  | scratchpadAccess (pair pad : Nat)
  | channelSend (fold : Nat) (k : Bool)
  | channelReceive (fold : Nat) (k : Bool)
  | channelWordArrival (pasture chan : Nat)
  | dmRd (fold : Nat)
  | dmWr (fold : Nat)
  | dmWrm (fold : Nat)
  | dmWordReturn (fold entry : Nat)
  | dmWriteAccept (fold : Nat)
  | barrierArrival (fold : Nat)
  | stateFinal (fold : Nat)
  | probeLatch (fold : Nat)
  | stallCheck (fold : Nat)
  -- barrier, run control, faults
  | barrierRelease (pasture : Nat)
  | flowTake (pasture : Nat)
  | cycStart (port : Nat)
  | watchdogExpiry (pasture : Nat)
  | scrubRead (fold : Nat) (found : List StoreErr)
  | scrubRewrite (fold : Nat) (copyGood : Bool)
  | ringComplete (pasture : Nat)
  | controlFault (src : FaultSource)
  | recoveryComplete (pasture durationNs : Nat)
  | edgePortWordIn (port chan : Nat) (word : BitVec 16)
  | edgePortWordOut (port chan : Nat)
  | epFclkStart (port : Nat)
  | taskDispatch (engine : Nat)
  | taskRunComplete (engine : Nat) (hostErrorAt : Option Nat) (ns : Nat)
  | acqCapture (pasture : Nat)
  | snapshotComplete (pasture : Nat)
  -- time base and management ports
  | timeBaseWrap
  | sync (port lane : Nat) (twoStep : Bool) (t1 : Nat) (corr : Int)
  | followUp (port t1 : Nat) (corr : Int)
  | delayResp (port t4 : Nat) (corr : Int)
  | announce (port : Nat) (a : Announce)
  | delayReq (port lane : Nat)
  | holdoverTimeout
  | statusDatagramRequest (port : Nat) (src : Nat) (payload : List Byte)
  | ethFrameDropped (port : Nat) (badFcs : Bool)
  -- Urtenlink blocks and events; `link` is a link's lowest port
  | dataBlock (link : Nat) (syncHeader : Nat) (payload : BitVec 64)
  | linkIdle (link : Nat)
  | skip (link : Nat) (repeated : Bool)
  | linkAck (link cseq : Nat)
  | linkNak (link cseq : Nat)
  | replayTimeout (link : Nat)
  | cap (link cseq : Nat) (body : BitVec 32)
  | join (link cseq : Nat) (body : BitVec 32)
  | chancount (link cseq : Nat) (body : BitVec 32)
  | arrive (link cseq : Nat) (body : BitVec 32)
  | assertCount (link cseq : Nat) (body : BitVec 32)
  | linkRelease (link cseq : Nat) (body : BitVec 32)
  | linkFault (link cseq : Nat) (body : BitVec 32)
  | linkUnload (link cseq : Nat) (body : BitVec 32)
  | credit (link cseq : Nat) (body : BitVec 32)
  | tag (link cseq n : Nat) (body : BitVec 32)
  | trainMark (port : Nat) (ready : Bool)
  | detectPoll (lane : Nat) (seen : Bool)
  | trainScanComplete (lane : Nat) (coarse : List (Nat × Nat)) (hMargin vMargin : Nat)
  | marginCheck (lane hMargin vMargin : Nat)
  | linkLostTimeout (link : Nat)
  -- service network
  | nocRd (p : NocPacket)
  | nocWr (p : NocPacket)
  | setw (p : NocPacket)
  | clrw (p : NocPacket)
  | bulkRd (p : NocPacket)
  | regRd (p : NocPacket)
  | regWr (p : NocPacket)
  | ctl (p : NocPacket)
  | nocAck (p : NocPacket)
  | rdData (p : NocPacket)
  | err (p : NocPacket)
  | inv (p : NocPacket)
  | snpAck (p : NocPacket)
  | bulkWr (p : NocPacket)
  | bulkData (p : NocPacket)
  | serviceTimeout (init txn : Nat)
  | routerReconfigure (router nets weights : Nat)
  | regulatorChange (point net rate burst : Nat)
  -- power
  | domainDecision (domain tNextUs : Nat)
  | drainComplete (domain : Nat)
  | drainTimeout (domain init : Nat)
  | wakeComplete (domain : Nat)
  | retLost (domain : Nat)
  | ladderLeave (e : LadderEvent)
  | thermalStep (die tj : Nat)
  | powerCapStep (watts die : Nat)
  | junctionLimit (die tj : Nat)
  | thermTimeout (die tj : Nat)
  | voltageSettle (die : Nat) (acked : Bool)
  | pmbAlert (die statusWord : Nat)
  | vccoLoss (bank mv : Nat)
  | supplyWarning (die : Nat)
  | supplyReturn
  | holdTimeout
  -- resets and boot
  | por
  | bod (rail : Rail)
  | resetN (lowNs : Nat)
  | wake (pulseNs : Nat)
  | dbgreq
  | clkfail (island : Nat)
  | bootStart
  | bootStageComplete (r : StageResult)
  | bootWatchdog
  | ccWatchdog (core : Nat) (within10s : Bool)
  | ccLockup (core : Nat) (within10s : Bool)
  | ccRestartComplete
  | svnRaise
  | unloadWipeComplete (pasture : Nat)
  | eraseComplete
  -- PCIe function
  | pcieFunctionReset (k : FnReset)
  | d3hotEntry
  | d0Return
  -- test access port
  | extest (pins : List Nat)
  | idcode
  | samplePreload (cells : List Nat)
  | clamp
  | highz
  | bypass (code : Nat)
  -- core trace
  | traceStartEvent (bit : Nat)
  | traceStopEvent (bit : Nat)
  | traceStoppingComplete
  | traceTimeTimer (core : Nat)
  | traceOverflow (core : Nat)
  -- rows the table lists last
  | blockLock (lane : Nat)
  | crcFailure (link : Nat) (badHeader : Bool)
  | protocolError (link : Nat)
  | trainBoundExpiry (port : Nat)
  | vccoGood (bank mv : Nat)
  | globalLineStart (region line : Nat)
  | ccRestartTimeout
  | msixVectorUnmask (vector : Nat)
  | droverCoreInstruction (core pc : Nat) (k : DcKind)
deriving DecidableEq, Repr

end Sys2Proof
end

