-- ==== Sys2Proof/Decode.lean ====
section
/-!
DEFINITION. The table gives no row any bits: its commands are register writes, command packets and events, and none of
them is spelled by a word. What a packet's bytes mean is the business of the intake (Machine/Intake.lean).
-/

namespace Sys2Proof

/-- No row of the table gives bits, so no word spells a command. -/
def decodeTableWord (_nbits _w : Nat) : Option Instr := none

end Sys2Proof
end

