-- ==== Sys2Proof/Config.lean ====
section
/-!
DEFINITION. What the spec fixes as numbers for every device, and the free values: constants without a body
where the spec leaves a value open (DESIGN CHOICE, log 6).
-/

namespace Sys2Proof.Config

/-- Folds of the device, disabled ones included (R35). -/
def numFolds : Nat := 512
/-- Fold pairs (R35). -/
def numPairs : Nat := 256
/-- BPs of a fold (R35). -/
def numBps : Nat := 256
/-- Slots of a store (R35). -/
def numSlots : Nat := 1024
/-- Pastures (R180). -/
def numPastures : Nat := 16
/-- Command rings (R292). -/
def numRings : Nat := 64
/-- Flows and hardware queues (R209). -/
def numFlows : Nat := 4096
def numQueues : Nat := 16384
/-- Task table entries (R225). -/
def numTasks : Nat := 65536
/-- Service engines (R239). -/
def numEngines : Nat := 32
/-- Lanes and link ports (R338). -/
def numLanes : Nat := 256
def numPorts : Nat := 128
/-- Edge regions, edge ports and I/O banks (R383, R106, R401). -/
def numRegions : Nat := 16
def numBanks : Nat := 24
/-- Power domains (Table 17-1). -/
def numDomains : Nat := 628
/-- Routers (R316). -/
def numRouters : Nat := 256
/-- Drover cores (R460). -/
def numCores : Nat := 16
/-- MSI-X vectors (R364). -/
def numVectors : Nat := 2048
/-- Sessions that may exist at once (R417). -/
def maxSessions : Nat := 64

/-- One stack of HBM, its reserved block, and the end of HBM (R151). -/
def stackBytes : Nat := 0x600000000
def reservedBytes : Nat := 0x10000000
def hbmEnd : Nat := 0x2400000000

/-- The nominal tick increment, 0.8 ns in units of 2^-32 ns (R375). -/
def nominalIncr : Nat := 0xCCCCCCCD

/-- A free value: the n-th draw is an unknown number. The meanings reduce it to the width they need. Where the
spec leaves a value open, that value is a draw of this function and nothing in the model fixes it (DESIGN CHOICE, log 6). -/
opaque freeNat : Nat → Nat

/-- The register (REG and INDEX of Table 11-16) that a unit at a router's port holds at an address of REG_RD and REG_WR: the spec gives
no such map (DESIGN CHOICE, log 26). -/
opaque regOf : Nat → Nat → Nat → Nat × Nat

/-- Which island, if any, a write of a value at an offset of the diagnostic window releases as a debug override (R454): the layout of the
window is not part of the manual (R423; DESIGN CHOICE, log 67). -/
opaque windowOverride : Nat → Nat → Option Nat

/-- Whether an X.509 certificate chain verifies to the product CA and the root (R412, R426): the certificates'
internal form is the standards', not the spec's (PRESUMED, log 5). -/
opaque certChainOk : List Byte → Bool

/-- The P-384 public key that a certificate carries (R412, R426; PRESUMED, log 5). -/
opaque certKey : List Byte → Nat × Nat

/-- The alias certificate the boot ROM issues for a firmware digest and an alias key (R411, R412; PRESUMED, log 5). -/
opaque aliasCert : List Byte → List Byte → List Byte

/-- The digest of the minimal service in boot ROM (R458; PRESUMED, log 5). -/
opaque romDigest : List Byte

/-- The 8 check bits of an instruction word and the 9 of a side word (R75, R80): the spec does not state the code (DESIGN CHOICE, log 32). -/
opaque secdedInstr : Nat → BitVec 8
opaque secdedSide : Nat → BitVec 9

end Sys2Proof.Config
end

