-- ==== Sys2Proof/Machine/State.lean ====
section
/-!
DEFINITION. The state of the block: every register, store, FIFO, buffer, counter and mode the spec gives the
device, as plain data, and the queue of waiting commands. A register the spec numbers by unit lives in a sparse
table; an unlisted unit holds the unit's reset record. Register fields are numbers of the field's width; the
words the host reads are packed from them in Machine/Registers.lean.
-/

namespace Sys2Proof.Machine

/-! ### Modes and states that are names -/

/-- Device modes (Table 1-6). -/
inductive Mode where
  | off | boot | minimal | service | emulate | hold | recover | erase
deriving DecidableEq, Repr

/-- Pasture states (Table 7-1). -/
inductive PState where
  | empty | loading | loaded | running | stepping | frozen | recovering | draining | faulted
deriving DecidableEq, Repr

/-- Run modes (Table 7-4). -/
inductive RunMode where
  | free | count | step | toTrigger | extclk | replay
deriving DecidableEq, Repr

/-- States of a lane or port (Table 13-5). -/
inductive LaneState where
  | down | detect | train | lock | cap | active | refused | test | loop
deriving DecidableEq, Repr

/-- Servo states (Table 14-5). -/
inductive ServoState where
  | free | refused | acquiring | locked | holdover
deriving DecidableEq, Repr

/-- Edge region states (Table 15-8). -/
inductive RegionState where
  | unconfigured | loading | held | released
deriving DecidableEq, Repr

/-- Power states of a domain (R429). -/
inductive PowerState where
  | on | ret | off
deriving DecidableEq, Repr

/-- Trace states (Table 19-3). -/
inductive TraceState where
  | idle | armed | tracing | stopping | stopped
deriving DecidableEq, Repr

/-- Acquisition engine states (Table 9-5). -/
inductive AcqState where
  | none | idle | armed | post | done
deriving DecidableEq, Repr

/-- Task states (Table 8-5). -/
inductive TaskState where
  | waiting | ready | running | done | parked
deriving DecidableEq, Repr

/-! ### Identity, fuses and flash -/

/-- Part (R7). -/
inductive Part where
  | x512 | x448
deriving DecidableEq, Repr

/-- Stepping (R7). -/
inductive Stepping where
  | a1 | b0
deriving DecidableEq, Repr

/-- What the vendor or the board fixes for one device (R2, R7, R291, R411, R412, R403). `disabled` lists disabled fold pairs of a PM6-X448;
`Ident.absent` says which they are. -/
structure Ident where
  part     : Part
  stepping : Stepping
  serial   : List Byte
  disabled : List Nat
  mac0     : Nat
  mac1     : Nat
  prodCert : List Byte
  lcPub    : Nat × Nat
  straps   : Tab Nat
deriving DecidableEq, Repr

/-- The fuses and identity records (Table 16-5, R411, R422). -/
structure Fuses where
  uds       : List Byte
  devCert   : List Byte
  lcState   : Nat
  ownerSet  : Bool
  ownerHash : List Byte
  returns   : Nat
  lcCounter : Nat
  svnMin    : Nat
deriving DecidableEq, Repr

/-- One firmware slot of the embedded flash (R425): the bytes written, and whether the whole image in it has
verified. -/
structure FwSlot where
  bytes : List Byte
  good  : Bool
  minor : Nat
  major : Nat
  svn   : Nat
deriving DecidableEq, Repr

/-- The embedded flash (R426, R460): slots A and B, the slot running, the preferred slot and STAGED. -/
structure Flash where
  slotA     : FwSlot
  slotB     : FwSlot
  activeB   : Bool
  preferB   : Bool
  staged    : Bool
  total     : Nat
deriving DecidableEq, Repr

/-! ### Device registers -/

/-- RESET_CAUSE (Table 18-8). -/
structure ResetCause where
  cause      : Nat
  last       : Nat
  ccWdog     : Bool
  ccLockup   : Bool
  lastCc     : Nat
  ccRestarts : Nat
deriving DecidableEq, Repr

/-- BOOT_RECORD (Table 18-9). -/
structure BootRecord where
  stage     : Nat
  inMinimal : Bool
  startKind : Nat
  failCount : Nat
  slot      : Bool
  fallback  : Bool
  hbmOk     : Nat
  hbmFail   : Nat
  bootMs    : Nat
  fail0     : Nat
  fail1     : Nat
  fail2     : Nat
  clkIsland : Nat
deriving DecidableEq, Repr

/-- Why the device is in ERASE (Table 1-8): a commanded wipe that returns to a mode, or a life-cycle
transition with what its fuses take (R422). -/
inductive EraseKind where
  | none
  | wipe (back : Mode)
  | lifeCycle (target : Nat) (key : List Byte)
deriving DecidableEq, Repr

/-- An entry of the decision log of H1 (Table 6-6): what was decided, about which unit, with which value. -/
structure DecEntry where
  kind  : String
  unit  : Nat
  value : Nat
deriving DecidableEq, Repr

/-- Device mode, events and the control complex (Tables 1-7, 11-5, 11-6; R448-R461). `early` lists the islands that a debug override has
released before their clock is stable, with the stable cycles still to be counted (R454). -/
structure Dev where
  mode        : Mode
  prevMode    : Mode
  modeChanges : Nat
  events      : BitVec 9
  accepting   : Bool
  restarting  : Bool
  reduced     : Bool
  cause       : ResetCause
  boot        : BootRecord
  booting     : Bool
  erase       : EraseKind
  warned      : List Nat
  holdFaults  : List (Nat × Nat)
  restartedAt : Bool
  fullAttempt : Bool
  log         : List DecEntry
  early       : Tab Nat
deriving DecidableEq, Repr

/-! ### The PCIe function, command rings and sessions -/

/-- A binding of a ring to a session (R300, R415): the SESSION_ID and the REBIND_NO of the binding. -/
structure Binding where
  sid    : Nat
  rebind : Nat
deriving DecidableEq, Repr

/-- Registers of one command ring (Table 11-7). -/
structure CmdRing where
  cmdBase     : Nat
  cplBase     : Nat
  enable      : Bool
  cmdLog2     : Nat
  cplLog2     : Nat
  cmdTail     : Nat
  cmdHead     : Nat
  cplHead     : Nat
  cplTail     : Nat
  halted      : Bool
  configErr   : Bool
  badDoorbell : Bool
  seq         : Nat
  bound       : Option Binding
deriving DecidableEq, Repr

/-- A command taken and not yet completed (R293, R307, R309). `key` is the command key that seals its completion (R304).
`live` is cleared when a reset of the function discards its completion (R367). -/
structure Prog where
  ring    : Nat
  seq     : Nat
  tag     : Nat
  opcode  : Nat
  pasture : Nat
  session : Bool
  noIrq   : Bool
  key     : List Byte
  live    : Bool
deriving DecidableEq, Repr

/-- A completion on its way to the host (R303, R304): its command, status, DETAIL, and the bytes for the result buffer at
bus address `addr`; `sealResult` says that the result is inside the GCM. In D3hot it waits (R368). -/
structure CplJob where
  prog       : Prog
  status     : Nat
  detail     : List Byte
  addr       : Nat
  result     : List Byte
  sealResult : Bool
deriving DecidableEq, Repr

/-- One MSI-X vector: table entry and pending bit (R311). -/
structure Msix where
  addr    : Nat
  data    : Nat
  masked  : Bool
  pending : Bool
deriving DecidableEq, Repr

/-- An owner session (R414-R417). -/
structure Session where
  sid     : Nat
  rebind  : Nat
  prk     : List Byte
  headers : Nat
  nonces  : List (List Byte)
deriving DecidableEq, Repr

/-- The host side: rings, commands in progress, host memory as the device sees it with the bus ranges (base, size)
at which an access meets a PCIe error (R305; the outside's, DESIGN CHOICE, log 7), MSI-X with MSI-X Enable and Function Mask as
the host's configuration leaves them (DESIGN CHOICE, log 7), the AER Uncorrectable Error Status (R366), the function's power
state, and the sessions. -/
structure HostSide where
  rings    : Tab CmdRing
  prog     : List Prog
  mem      : Mem
  badRanges: List (Nat × Nat)
  cplWait  : List CplJob
  msix     : Tab Msix
  msixOn   : Bool
  msixMask : Bool
  aer      : BitVec 32
  d3hot    : Bool
  fnReady  : Bool
  sessions : List Session
deriving DecidableEq, Repr

/-- What the device sends outside: messages, blocks, packets, frames and words, oldest first (DESIGN CHOICE, log 8). A block names
its lane, sync header, payload and the scrambled bits of the line. -/
inductive Output where
  | msi (vector addr data : Nat)
  | pme
  | block (lane header payload line : Nat)
  | noc (word0 word1 : Nat) (data : List Byte)
  | statusReply (port dst reqId offset length status : Nat) (data : List Byte)
  | delayReq (port ts : Nat)
  | fabricWord (port chan : Nat) (word : BitVec 16)
  | voltage (die mhz : Nat)
  | tap (code : Nat) (cells : List Nat)
deriving DecidableEq, Repr

/-! ### Folds -/

/-- The stores of a fold that the image fills: instructions (key 256·slot + bp), side words, the state map
(key 512·bp + entry), the probe list (bp, entry) and DUE0–DUE3 (R35, R39, R91). -/
structure FoldStore where
  instr  : Tab Nat
  side   : Tab Nat
  smap   : Tab Bool
  probes : List (Nat × Nat)
  due    : List Nat
deriving DecidableEq, Repr

/-- The net register file (key 512·bp + entry): current, next and shadow cells (R39). -/
structure Nrf where
  cur : Tab Bool
  nxt : Tab Bool
  shd : Tab Bool
deriving DecidableEq, Repr

/-- A write made by a slot and not yet seen by reads (R49): BP, entry, value. -/
structure NrfWrite where
  bp    : Nat
  entry : Nat
  val   : Bool
deriving DecidableEq, Repr

/-- A word due on a step-bus group (R42, R43). -/
structure DueWord where
  slot  : Nat
  group : Nat
  word  : BitVec 16
deriving DecidableEq, Repr

/-- The sequencer and datapath of a fold in its present slot (R45-R49). `done` lists the BPs that have executed in
the slot, `issued` the side-word operations performed in it (0 SPA, 1 SPB, 2 SND0, 3 SND1, 4 DMF, 5 RCV0, 6 RCV1,
7 PROBE, 8 STALL_CHECK, 9 RING). `ended` says that the BARRIER slot has executed and the arrival is to be
signalled, `prepared` that the words due in the slot are on their groups. `nx0` and `ev0` are the next-value writes and the
assertion events (BP, id) of the slot, which take effect when the slot is left: a stalled fold writes no cell (R48). -/
structure FoldSeq where
  slot       : Nat
  lastSlot   : Nat
  arrived    : Bool
  cause      : Nat
  stallSteps : Nat
  stallMark  : Nat
  busPrev    : Nat
  bpOut      : Nat
  delivered  : List (Nat × BitVec 16)
  wr1        : List NrfWrite
  wr0        : List NrfWrite
  nx0        : List NrfWrite
  ev0        : List (Nat × Nat)
  done       : List Nat
  issued     : List Nat
  spDue      : List DueWord
  stateFinal : Bool
  ended      : Bool
  prepared   : Bool
  waking     : Bool
deriving DecidableEq, Repr

/-- FOLD_ECC and FOLD_ECC_LOC (Tables 2-7, 2-8), the scrubber's position, and the store errors found and not yet
rewritten (slot, BP or none for the side word, two bits). -/
structure FoldEcc where
  sbe      : Nat
  dbe      : Nat
  inSide   : Bool
  byScrub  : Bool
  errSlot  : Nat
  errBp    : Nat
  scrubIdx : Nat
  errs     : List (Nat × Option Nat × Bool)
deriving DecidableEq, Repr

/-- The assertion latch of an ecycle (R79): the first event's BP, slot and id, and the count. -/
structure AssertLatch where
  first : Option (Nat × Nat × Nat)
  count : Nat
deriving DecidableEq, Repr

/-- Kinds of deep memory operation (Table 3-8). -/
inductive DmKind where
  | rd | wr | wrm
deriving DecidableEq, Repr

/-- A request of a deep memory port, in issue order (R145, R497). For a read, `word` is the word returned. For a write, `acc` says
that a controller has accepted it into its request queue: it has left the port's queue and is not yet performed. -/
structure DmReq where
  kind    : DmKind
  ecycle  : Nat
  addr    : Nat
  dueSlot : Nat
  dueEcy  : Nat
  group   : Nat
  data    : BitVec 64
  mask    : BitVec 8
  word    : Option (BitVec 64)
  acc     : Bool
deriving DecidableEq, Repr

/-- A deep memory port (R145, Table 5-12): the requests in its queue and, behind it, the writes accepted and not yet
performed. -/
structure DmPort where
  queue : List DmReq
  late  : Nat
  full  : Nat
deriving DecidableEq, Repr

/-- A read record of a ring store (R266). -/
structure ReadRec where
  slot   : Nat
  group  : Nat
  after  : Nat
  word   : BitVec 64
deriving DecidableEq, Repr

/-- One fold's share of a ring (R266): the shadows of its state entries and its read records. -/
structure FoldRing where
  cells : Tab Bool
  reads : List ReadRec
deriving DecidableEq, Repr

/-- A fold (R35, R59). -/
structure Fold where
  pasture    : Option Nat
  store      : FoldStore
  nrf        : Nrf
  seq        : FoldSeq
  ecc        : FoldEcc
  latch      : AssertLatch
  probeLatch : Nat
  dm         : DmPort
  ringC      : FoldRing
  ringK      : FoldRing
  stopAt     : Option (Nat × Nat × Bool)
deriving DecidableEq, Repr

/-! ### Fold pairs -/

/-- Scratchpad operations of a side word (R82) and of service traffic (R139). -/
inductive SpOp where
  | rd | wr | set | clr | wide
deriving DecidableEq, Repr

/-- A granted scheduled access waiting at a scratchpad port (R128): the fold, the field (SPB when `b`), the slot
it was issued in and the slot its result is due in. -/
structure SpAccess where
  fold : Nat
  b    : Bool
  op   : SpOp
  pad  : Nat
  addr : Nat
  n    : Nat
  data : List (BitVec 16)
  slot : Nat
  due  : Nat
  rg   : Nat
deriving DecidableEq, Repr

/-- The tallies of one service master at a pair (Table 5-8). -/
structure Steal where
  deferred : Nat
  maxWait  : Nat
deriving DecidableEq, Repr

/-- A fold pair: scratchpad words (key 32,768·pad + word), the accesses granted and not yet performed, the scratchpads whose
port performed a scheduled access in the latest step, those that have performed a service access since, the master whose turn is next at
each scratchpad (R134: 0 DIAG, 1 RING, 2 ACQ, 3 LOADER), and the tallies of Tables 5-7 and 5-8. -/
structure Pair where
  pads     : Tab (BitVec 16)
  port     : List SpAccess
  busy     : List Nat
  served   : List Nat
  turn     : Tab Nat
  rowSt    : Nat
  orderSt  : Nat
  diag     : Steal
  ring     : Steal
  acq      : Steal
deriving DecidableEq, Repr

/-! ### Pastures -/

/-- PASTURE_STATE to PASTURE_EVENTS (Tables 7-8 to 7-12). -/
structure PStat where
  state       : PState
  runMode     : RunMode
  freezeMid   : Bool
  freezeCause : Nat
  rings       : Bool
  join        : Nat
  root        : Bool
  lastStatus  : Nat
  spanIndex   : Nat
  spanDevices : Nat
  ecycle      : Nat
  target      : Nat
  events      : BitVec 9
deriving DecidableEq, Repr

/-- PASTURE_EXT (Table 7-10), with the steps since the pasture became ready (R195). -/
structure PExt where
  overruns : Nat
  slackMin : Nat
  dropped  : Nat
  latched  : Bool
  heldEv   : Nat
  readyFor : Option Nat
deriving DecidableEq, Repr

/-- PASTURE_ASSERT_0, PASTURE_ASSERT_1 and PASTURE_ASSERT_COUNT (Table 7-11). -/
structure PAssert where
  fold   : Nat
  bp     : Nat
  slot   : Nat
  id     : Nat
  valid  : Bool
  ecycle : Nat
  count  : Nat
deriving DecidableEq, Repr

/-- PASTURE_FAULT_0 and PASTURE_FAULT_1 (Table 7-13). -/
structure PFault where
  status : Nat
  unit   : Nat
  slot   : Nat
  index  : Nat
  fields : Nat
  dir    : Bool
  valid  : Bool
  ecycle : Nat
deriving DecidableEq, Repr

/-- PASTURE_WDOG, the watchdog counter, PASTURE_DEADLOCK_0 and PASTURE_DEADLOCK_1 (Tables 4-11 to 4-13). `fresh` says that the
counter was cleared in the present step, which it then does not count (R123). -/
structure PWdog where
  periodLog2 : Nat
  enable     : Bool
  written    : Bool
  counter    : Nat
  fresh      : Bool
  dlFold     : Nat
  dlSlot     : Nat
  dlCause    : Nat
  dlEp       : Nat
  extWait    : Bool
  dlScratch  : Bool
  peerKind   : Nat
  peerId     : Nat
  peerSlot   : Nat
  peerState  : Nat
deriving DecidableEq, Repr

/-- The parameters of the run in force and its stops (Table 7-4, R190-R197): `stops` lists the freeze causes that will
hold the next barrier reached, `holdAt` is the barrier a FREEZE holds, `logEnd` the barrier that closes the last ecycle
of a REPLAY log (the pasture's own ingress log with `ownLog`), `extPort` the edge port of the last RUN EXTCLK. `taken` says that the flow takes of the present barrier
are done. The step counts are those of the measurements of Table 9-6. `climb` counts the steps since the present barrier was
complete, as far as 64, and `descent` the steps left before a release that has been decided (Table 4-7); `cross` counts the steps
that a cycle-start event still needs into the root's island (R98, R194), and `event` says which event the release is for (0 none, 1 a new
one, 2 the latched one). `relTok` is the RELEASE a member has taken and not yet
performed, `guard` the steps for which the folds of a span hold slot 0 after their swap (R118). `sendQ` lists the channels of the
words that wait for a link, in the order of their sends (R108), and `sendNew` those of the present step. -/
structure PRun where
  assertAction : Nat
  assertLimit  : Nat
  ovrPolicy    : Nat
  extPort      : Option Nat
  outMode      : Nat
  stops        : List Nat
  holdAt       : Option Nat
  logEnd       : Option Nat
  ownLog       : Bool
  taken        : Bool
  ecySteps     : Nat
  waitSteps    : Nat
  flowSteps    : Nat
  dmLate       : Nat
  climb        : Nat
  descent      : Option Nat
  cross        : Option Nat
  event        : Nat
  relTok       : Option Nat
  guard        : Nat
  sendQ        : List Nat
  sendNew      : List Nat
deriving DecidableEq, Repr

/-- Kinds of end of a channel (Table 4-2). -/
inductive EndKind where
  | fold | edge | link
deriving DecidableEq, Repr

/-- A channel of the map (R100-R104): its ends, COUNT, its three parts, the words the fabric has taken since load
(DELIVERED, Table 10-1), and the number of the next word its fold end sends (R279). A word on the path stands with its stage. -/
structure Chan where
  srcKind   : EndKind
  srcId     : Nat
  dstKind   : EndKind
  dstId     : Nat
  count     : Nat
  srcFifo   : List (BitVec 16)
  path      : List (Nat × BitVec 16)
  dstFifo   : List (BitVec 16)
  delivered : Nat
  sent      : Nat
deriving DecidableEq, Repr

/-- A DM_REGION register (Table 5-11). -/
structure DmRegion where
  valid : Bool
  base  : Nat
  pages : Nat
deriving DecidableEq, Repr

/-- An HBM allocation of a pasture (Table 6-5) with its kind code (R171). -/
structure Alloc where
  kind : Nat
  base : Nat
  size : Nat
deriving DecidableEq, Repr

/-- The composition and identity a load gives a pasture (R160, R165, R180). -/
structure PComp where
  pairs     : List Nat
  edgePorts : List Nat
  linkPorts : List Nat
  regions   : List Nat
  sid       : Nat
  nonce     : List Byte
  jobId     : List Byte
  digest    : List Byte
  profile   : Nat
  depth     : Nat
  rootLevel : Nat
  parent    : Option Nat
  children  : List Nat
  allocs    : List Alloc
  dmRegions : Tab DmRegion
  engines   : Nat
deriving DecidableEq, Repr

/-- A load in progress (R161, R162): the header's bytes, the ring that carries it, the next chunk, and whether a supply event met it
(R199). -/
structure PLoad where
  header    : List Byte
  ring      : Nat
  nextChunk : Nat
  staging   : Nat
  length    : Nat
  supply    : Bool
deriving DecidableEq, Repr

/-- A flow port (R217, Table 8-7) and APPENDED (Table 10-1). -/
structure FlowPort where
  port     : Nat
  region   : Nat
  queue    : Nat
  slots    : Nat
  admitMax : Nat
  window   : Nat
  appended : Nat
deriving DecidableEq, Repr

/-- The flow state of a pasture (R235, Tables 8-10, 8-11). -/
structure PFlow where
  ports     : List FlowPort
  ready     : List Nat
  overflow  : List Nat
  readyHigh : Nat
  stray     : Nat
  earlySat  : Bool
  hostErr   : Bool
  bpWait    : Bool
  bpBarriers: Nat
  bpSteps   : Nat
  readNo    : Nat
deriving DecidableEq, Repr

/-- An undo entry (Table 10-4). -/
inductive Undo where
  | hbm (addr : Nat) (old : BitVec 64)
  | pad (pair key : Nat) (old : BitVec 16)
  | marker (number ecycle : Nat)
deriving DecidableEq, Repr

/-- A block of the ingress log (Table 10-5): admissions (flow port, entry) and words (edge-port endpoint, word). -/
structure IngressBlock where
  ecycle    : Nat
  ringPoint : Bool
  admits    : List (Nat × List Byte)
  words     : List (Nat × BitVec 16)
deriving DecidableEq, Repr

/-- The ring plan (Table 10-2). -/
structure RingPlan where
  storePa  : Nat
  undoPa   : Nat
  undoSize : Nat
  logPa    : Nat
  logSize  : Nat
  interval : Nat
deriving DecidableEq, Repr

/-- Recovery in progress (R278-R281, R285, R286): F, the barriers below which releases had happened before the fault, the
state to return to with its freeze cause, the status of its cause, and the faults of its window (R281). -/
structure Recovery where
  faultEcy  : Nat
  released  : Nat
  back      : PState
  backCause : Nat
  status    : Nat
  faults    : Nat
deriving DecidableEq, Repr

/-- The checkpoint state of a pasture (R263-R275, Table 10-12). `kHeld` says that ring K is complete on this member and
ring C is not yet released (R271); `replayLog` are the logged inputs still to be served (R275), `runLog` those of a
REPLAY log in a region (R192); `afterRec` marks the next capture as the first after a rollback; `capNext` and `asrtNext` are the next ecycles to be captured and to hand over
assertions (R242, R279). `bufB` says that ring C lies in the second buffer at STORE_PA (R270), `undoBase` and `logBase` count the undo
entries and the bytes of the ingress log released since load (R273, R274), `logFrom` is the ecycle whose folds take the log's first
words, and `hostReq` says that a host write asks for a ring at the held barrier (R272). -/
structure PRing where
  plan       : Option RingPlan
  completeNo : Nat
  currentNo  : Nat
  copying    : Bool
  kHeld      : Bool
  early      : Nat
  recoveries : Nat
  cEcycle    : Nat
  kEcycle    : Nat
  cause      : Nat
  attempts   : Nat
  boundMet   : Bool
  durationNs : Nat
  faultEcy   : Nat
  undo       : List Undo
  log        : List IngressBlock
  spUndo     : Tab Nat
  dmUndo     : Nat
  runTicks   : Nat
  recovery   : Option Recovery
  replayLog  : List IngressBlock
  runLog     : List IngressBlock
  afterRec   : Bool
  capNext    : Nat
  asrtNext   : Nat
  bufB       : Bool
  undoBase   : Nat
  logBase    : Nat
  logFrom    : Nat
  hostReq    : Bool
deriving DecidableEq, Repr

/-- What a spanning member has collected (R204, R271, R356, R357): the bytes of join blocks (key 16·member + index), the
CHANCOUNTs of the peers, whether its own are sent, its own finding, the child ports whose ARRIVE of the present barrier is in, with their ring
request, ring completions, trigger and assertion counts, and whether its own ARRIVE is sent. `choosing` says that a recovery waits for
the choice of its ring (Table 10-8 step 3), `repFrom` and `repAll` which children have reported and whether all of them hold K. `early`
keeps the join blocks, by link, that came before the pasture was LOADED. -/
structure PSpan where
  joinBytes  : Tab (BitVec 16)
  members    : List Nat
  counts     : Tab Nat
  countsSent : Bool
  portWrong  : Bool
  joinSent   : Bool
  arrived    : List Nat
  arriveSent : Bool
  ringReq    : Bool
  ringDone   : List Nat
  trig       : Option Nat
  memberAssert : Nat
  memberTotal  : Nat
  kComplete  : Bool
  unloadPort : Option Nat
  choosing   : Bool
  repFrom    : List Nat
  repAll     : Bool
  early      : List (Nat × Nat)
deriving DecidableEq, Repr

/-- A pasture (R180, R207). -/
structure Pasture where
  stat    : PStat
  ext     : PExt
  assert  : PAssert
  fault   : PFault
  wdog    : PWdog
  run     : PRun
  comp    : PComp
  load    : Option PLoad
  chans   : List Chan
  flow    : PFlow
  ck      : PRing
  span    : PSpan
deriving DecidableEq, Repr

/-- A region register of a service master (Tables 5-5, 5-6). -/
structure MRegion where
  valid   : Bool
  rd      : Bool
  wr      : Bool
  setclr  : Bool
  pasture : Nat
  base    : Nat
  pages   : Nat
deriving DecidableEq, Repr

/-- MREGION_STATUS (Table 5-13). -/
structure MStatus where
  viol        : Nat
  lastPasture : Nat
  lastPv      : Bool
  lastWrite   : Bool
deriving DecidableEq, Repr

/-! ### Flows -/

/-- A queue descriptor (Table 8-2); `passed` counts the entries that went through the queue since load (R418). -/
structure Queue where
  base       : Nat
  depthLog2  : Nat
  units      : Nat
  role       : Nat
  notifyEn   : Bool
  notifyTask : Nat
  head       : Nat
  tail       : Nat
  highWater  : Nat
  lateAdmits : Nat
  dbReject   : Nat
  hist       : List Nat
  passed     : Nat
deriving DecidableEq, Repr

/-- A task entry (Table 8-5), with the pasture that holds it; for a PARKED task, the messages, duration and engine of
the run whose steps 6 and 7 are still to come (R229), and whether a PCIe error parked it (R230). -/
structure Task where
  owner      : Option Nat
  op         : Nat
  cyclic     : Bool
  initCount  : Nat
  rearm      : Nat
  batch      : Nat
  src        : Nat
  dst        : Nat
  vector     : Nat
  succs      : List Nat
  counter    : Nat
  early      : Nat
  tstate     : TaskState
  lastEngine : Nat
  runs       : Nat
  moved      : Nat
  busyNs     : Nat
  hostParked : Bool
  parkMoved  : Nat
  parkNs     : Nat
  parkEngine : Nat
deriving DecidableEq, Repr

/-- A service engine: SE_LOAD_n (Table 8-9), its run (task and message count) and the pasture it last served. -/
structure Engine where
  busyUs : Nat
  busyRemNs : Nat
  runs   : Nat
  cur    : Nat
  run    : Option (Nat × Nat)
deriving DecidableEq, Repr

/-- Flows, queues, tasks and engines (R209-R239). -/
structure FlowSide where
  owners  : Tab (Option Nat)
  queues  : Tab Queue
  tasks   : Tab Task
  engines : Tab Engine
deriving DecidableEq, Repr

/-! ### Acquisition -/

/-- A capture waiting to be evaluated (R240, R241): ecycle, TS at the swap, probe words by fold, assertions of the
ecycle, whether it is the first after a recovery, and the timing measurements (R254 types 1, 3, 4, 5, 6). With `wrap` it
is a wrap of the time base that takes its place among the captures (R253). -/
structure Capture where
  ecycle  : Nat
  ts      : Nat
  words   : Tab Nat
  asserts : Nat
  after   : Bool
  timing  : List Nat
  wrap    : Bool
deriving DecidableEq, Repr

/-- An evaluated capture whose record is not yet written: with SPAN_TRIG a record is held for two barriers (R255). -/
structure HeldRec where
  cap      : Capture
  seqState : Nat
  store    : Bool
  trigger  : Bool
  meas     : List Nat
deriving DecidableEq, Repr

/-- An acquisition engine (R243-R262). `edgeMem` holds, for each edge detector, the ecycle of its last firing, the value
of its interval channel and its high run; `waitBar` the last barrier counted in LAND_WAITS. -/
structure Acq where
  plan      : List Byte
  hasPlan   : Bool
  state     : AcqState
  triggered : Bool
  forced    : Bool
  force     : Bool
  disarm    : Bool
  segment   : Nat
  landWaits : Nat
  written   : Nat
  trigSeq   : Nat
  seqState  : Nat
  dwell     : Nat
  tallies   : List Nat
  post      : Nat
  wraps     : Nat
  waiting   : List Capture
  held      : List HeldRec
  waitBar   : Option Nat
  prev      : Option (Tab Nat)
  prevTs    : Option Nat
  edgeMem   : List (Option Nat × Nat × Nat)
  firstEcy  : Nat
  segDone   : Bool
deriving DecidableEq, Repr

/-- ACQ_SNAP (Table 9-12) and the snapshots (R257, R258): the complete snapshot with its buffer, ring and bytes in use; the
one being copied with its ring and buffer, and whether its memory copy is done; whether no more snapshots start. -/
structure Snap where
  has       : Bool
  bufB      : Bool
  truncated : Bool
  ringEcy   : Nat
  keptLen   : Nat
  active    : Bool
  curEcy    : Nat
  curB      : Bool
  memDone   : Bool
  stop      : Bool
deriving DecidableEq, Repr

/-! ### Service network -/

/-- NOC_ROUTER_STATUS (Table 12-8) and the VC weights (R324). -/
structure Router where
  holds   : Nat
  parErrs : Nat
  proxy   : Nat
  parNet  : Nat
  parVc   : Nat
  parIn   : Nat
  weights : Nat
deriving DecidableEq, Repr

/-- NOC_REGULATOR (Table 12-10). -/
structure Regulator where
  rate      : Nat
  burst     : Nat
  tokens    : Nat
  throttled : Nat
deriving DecidableEq, Repr

/-- NOC_DAT_SLOT_A to _C (Table 12-12). -/
structure DatSlot where
  who    : Nat
  valid  : Bool
  shared : Bool
  bytes  : Nat
  pkts   : Nat
  latMax : Nat
  latSum : Nat
deriving DecidableEq, Repr

/-- A probe (Table 12-13): kept header words oldest first. -/
structure NocProbe where
  router : Nat
  net    : Nat
  input  : Nat
  enable : Bool
  trace  : Bool
  match_ : Nat
  mask   : Nat
  count  : Nat
  kept   : List (Nat × Nat)
deriving DecidableEq, Repr

/-- A transaction whose response is awaited (R319, R333); `answered` says that the response is on its way. -/
structure Txn where
  init    : Nat
  txn     : Nat
  opc     : Nat
  vc      : Nat
  pasture : Nat
  pv      : Bool
  word0   : Nat
  word1   : Nat
  data     : List Byte
  tries    : Nat
  answered : Bool
deriving DecidableEq, Repr

/-- A packet on its way that waits: the operation of its row, the flits that have not entered the mesh, and whether its wait for tokens
has been counted (R326, R328). -/
structure NocWait where
  pkt     : NocPacket
  opc     : Nat
  left    : Nat
  counted : Bool
deriving DecidableEq, Repr

/-- A hold of a router: the networks it touches, one bit each, and the router clocks it still lasts (R328). The holds of a die are in force
one at a time, the oldest first (R327). -/
structure NocHold where
  router : Nat
  nets   : Nat
  left   : Nat
deriving DecidableEq, Repr

/-- A memory command of DIAG in progress (R134, R433): how many bytes it has passed, and for a read the bytes so far. -/
structure DiagJob where
  cmd   : Cmd
  prog  : Prog
  write : Bool
  next  : Nat
  got   : List Byte
deriving DecidableEq, Repr

/-- What waits at a scratchpad. -/
inductive PadTask where
  | packet (p : NocPacket)
  | diag (j : DiagJob)
deriving DecidableEq, Repr

/-- A service access that waits: the scratchpad it is for (for a DIAG command none while a unit of it wakes), its master (R134), and the
steps it has waited. -/
structure PadWait where
  place  : Option (Nat × Nat)
  master : Nat
  steps  : Nat
  task   : PadTask
deriving DecidableEq, Repr

/-- The SNP_ACK that a write awaits (R323): the INIT and the tag of the INV, its line, and the write's header. -/
structure InvWait where
  ctl   : Nat
  tag   : Nat
  line  : Nat
  word0 : Nat
deriving DecidableEq, Repr

/-- The service network (R316-R337). -/
structure Noc where
  routers    : Tab Router
  regulators : Tab Regulator
  slotsUsed  : Nat
  overflow   : Bool
  slots      : Tab DatSlot
  probes     : Tab NocProbe
  txns       : List Txn
  cached     : List Nat
  invWait    : List InvWait
  late       : Nat
  waiting    : List NocWait
  holds      : List NocHold
  padWait    : List PadWait
deriving DecidableEq, Repr

/-! ### Urtenlink -/

/-- LANE_STATUS and LANE_PRBS (Tables 13-9, 13-10), the settings and marks of training (R350-R354), the last 58 bits of the scrambler,
the PRBS31 generator and the one of the checker, which of the last 64 headers were invalid (R349), and in LOCK the blocks of the
present window and the valid headers in a row (R353). -/
structure Lane where
  state     : LaneState
  peak      : Nat
  pinned    : Bool
  pinReq    : Option Nat
  pinPend   : Option Bool
  manual    : Bool
  blockLock : Bool
  marginLow : Bool
  hMargin   : Nat
  vMargin   : Nat
  shErrs    : Nat
  retrains  : Nat
  prbsErrs  : Nat
  prbsLock  : Bool
  passed    : Bool
  boundary  : Nat
  scr       : Nat
  prbsTx    : Nat
  prbsRx    : Nat
  headers   : BitVec 64
  lockWin   : Nat
  lockRun   : Nat
deriving DecidableEq, Repr

/-- One sequenced block that waits or is held for replay (R347): CSEQ, CTYPE, BODY and the data blocks of a TAG group. -/
structure SentBlock where
  cseq  : Nat
  ctype : Nat
  body  : Nat
  data  : List (Nat × List (BitVec 16))
deriving DecidableEq, Repr

/-- A link port and, at a link's lowest port, the link (R339-R358, Table 13-11). `wait` holds the sequenced blocks that have not been sent
(their CSEQ is 0 until then), `sent` those sent and not yet acknowledged, the first `txd` of which are on the line since the last resend, and
`line` the headers and payloads of blocks that must follow the last one directly. `naks` counts the NAKs and timeouts by CSEQ, `owed`
the credits freed and not returned, `txPos` and `rxPos` the blocks of the stream sent and received; `phase` is the part of a block time that has
passed. `lost` lists the ports of the link as it was when it left ACTIVE by itself. -/
structure LinkPort where
  bond      : Nat
  linkLow   : Nat
  cable     : Nat
  replays   : Nat
  limitHits : Nat
  peerPort  : Nat
  peer      : Nat
  ready     : Bool
  loopMode  : Nat
  capRecs   : Tab Nat
  txSeq     : Nat
  rxSeq     : Nat
  discard   : Bool
  nakDue    : Bool
  wait      : List SentBlock
  sent      : List SentBlock
  txd       : Nat
  line      : List (Nat × Nat)
  naks      : Tab Nat
  txPos     : Nat
  rxPos     : Nat
  phase     : Nat
  sinceSkip : Nat
  ackAge    : Nat
  credits   : Tab Nat
  owed      : Tab Nat
  rxWords   : Tab (List (BitVec 16))
  group     : List (Nat × Nat)
  unacked   : Nat
  retrainPending : Bool
  lost      : List Nat
deriving DecidableEq, Repr

/-! ### Time base and management ports -/

/-- The time base and servo (Tables 14-7 to 14-9; R374-R380). -/
structure TimeBase where
  ns          : Nat
  frac        : Nat
  running     : Bool
  incr        : Nat
  servo       : ServoState
  jumpRefused : Bool
  gmChanged   : Bool
  stepArmed   : Bool
  port        : Bool
  jumpNs      : Nat
  refusals    : Nat
  steps       : Nat
  gmChanges   : Nat
  holdovers   : Nat
  offset      : Int
  delay       : Int
  before      : Nat
  after       : Nat
  gmId        : Nat
  seenId      : Nat
  goodRun     : Nat
  badRun      : Nat
deriving DecidableEq, Repr

/-- A management port: ETH_STATUS_k, and the exchange and Announce data it is following (R371-R376); `seenLeft` and `bestLeft` are the
ticks until MASTER_SEEN and the best master expire (Table 14-9), `recent` the ticks until each answer of the last second no longer counts
(R370), `heard` the masters whose Announce has come within four of its intervals, with the ticks left of them (R373). -/
structure EthPort where
  link       : Bool
  masterSeen : Bool
  dropped    : Nat
  responses  : Nat
  fcsErrs    : Nat
  best       : Option Announce
  seenLeft   : Nat
  bestLeft   : Nat
  t1         : Option Nat
  t2         : Nat
  corr       : Int
  t3         : Option Nat
  recent     : List Nat
  heard      : List (Nat × Nat)
deriving DecidableEq, Repr

/-! ### Edge fabric -/

/-- An edge region: EDGE_REGION_STATUS (Table 15-8), its configuration bytes (Table 15-3) and its user logic (R384). `freed` lists the
global lines whose flip-flops are freed, 16 for those on taps, `guard` the edges that a line still has to give (R397). `ffs` lists the flip-flops
at 1 (key 2·tile + k, a tile being 128·column + row), `rams` the LUT RAMs by tile, `wires` the wires at 1 (2048·column + 16·row + index), `termIn` and
`termOut` the terminals at 1 by tile; `wiresWas` and `termWas` are those of the tick before, `readyIn` and `cycIn` the last samples of
PASTURE_READY and CYC_START at the fabric clock (R400). -/
structure Region where
  state    : RegionState
  owner    : Option Nat
  epWait   : Bool
  localFfs : Nat
  gclk0    : Bool
  gclk1    : Bool
  flash    : Bool
  head     : List Byte
  tiles    : Tab Nat
  freed    : List Nat
  epFreed  : Bool
  driving  : Bool
  guard    : Tab Nat
  ffs      : Tab Bool
  rams     : Tab Nat
  wires    : Tab Bool
  wiresWas : Tab Bool
  termIn   : Tab Bool
  termOut  : Tab Bool
  termWas  : Tab Bool
  readyIn  : Nat
  cycIn    : Nat
deriving DecidableEq, Repr

/-- An I/O bank: EDGE_BANK_STATUS (Table 15-9) and the declarations its regions made (R401). -/
structure Bank where
  decl    : Nat
  ok      : Bool
  latched : Bool
  mv      : Nat
  drops   : Nat
  declBy  : Tab Nat
deriving DecidableEq, Repr

/-- The test access port (R408): the instruction and the boundary register's set cells. -/
structure Tap where
  instr    : Nat
  boundary : List Nat
deriving DecidableEq, Repr

/-- The edge fabric (R383-R409). Probe pins list the region that drives them. `phase` counts the ticks of the interface clock that R389 divides by 4 and by
5, `osc` holds for each oscillator the units of 0.05 ns to its next rising edge. -/
structure Edge where
  regions   : Tab Region
  banks     : Tab Bank
  probePins : Tab (Option Nat)
  flash     : Mem
  flashOwner: Option Nat
  tap       : Tap
  phase     : Nat
  osc       : List Nat
deriving DecidableEq, Repr

/-! ### Power -/

/-- Phase of an entry of a domain into RET or OFF (R434). -/
inductive EntryPhase where
  | none
  | draining (target : PowerState) (wakeAfter : Bool)
deriving DecidableEq, Repr

/-- A power domain (Tables 17-9, 17-10). -/
structure Domain where
  state      : PowerState
  entry      : EntryPhase
  waking     : Bool
  retLost    : Bool
  refuser    : Nat
  tNextUs    : Nat
  retEntries : Nat
  offEntries : Nat
  refused    : Nat
  aborted    : Nat
  dipped     : Bool
deriving DecidableEq, Repr

/-- A compute die's step clock (Table 17-8): STEP_MHZ, TJ, floor, limiter, and a point waiting for its voltage. `phase` is how far the
clock has come towards its next edge, in 1/1250 of a step, and `edge` says that the die steps in the present tick. -/
structure DieClk where
  mhz     : Nat
  tj      : Nat
  floor   : Nat
  limiter : Nat
  target  : Option Nat
  tries   : Nat
  hot     : Bool
  thermCap : Nat
  powCap   : Nat
  phase    : Nat
  edge     : Bool
deriving DecidableEq, Repr

/-- Power, ladder and thermal state (R428-R447). `stopped` lists the drover cores that a ladder step stopped (R471). -/
structure Pwr where
  domains  : Tab Domain
  dies     : Tab DieClk
  watts    : Nat
  cap      : Nat
  ladder   : Nat
  capUnmet : Bool
  tjEdge   : Tab Nat
  tjHbm    : Tab Nat
  throttle : Nat
  capSteps : Nat
  junction : Nat
  overrides: Nat
  stopped  : List Nat
deriving DecidableEq, Repr

/-! ### Core trace -/

/-- Trace configuration (Table 19-2). -/
structure TraceCfg where
  cores     : Nat
  data      : Nat
  fill      : Bool
  tsLog2    : Nat
  startMask : Nat
  stopMask  : Nat
  base      : Nat
  limit     : Nat
  comps     : List Nat
deriving DecidableEq, Repr

/-- A packet waiting in an encoder's FIFO: the core, its reference address before the packet, the data address of a data
packet, and the bytes (R464, Table 19-1). -/
structure TPkt where
  core  : Nat
  ref   : Nat
  daddr : Option Nat
  bytes : List Byte
deriving DecidableEq, Repr

/-- A core's encoder (R464-R472): reference address, address of the next instruction where one has retired, ICOUNT, last
data address, packets lost, whether the next instruction packet must be IFULL and the next data packet DFULL, whether
the core is in a gap, whether a step of the time base is to be reported, and in the landing: one more than the block the
core has begun, and whether its next data packet there must be DFULL. -/
structure Encoder where
  ref      : Nat
  nextAddr : Option Nat
  icount   : Nat
  dataAddr : Nat
  lost     : Nat
  full     : Bool
  dfull    : Bool
  gap      : Bool
  stepSeen : Bool
  block    : Nat
  landFull : Bool
deriving DecidableEq, Repr

/-- Core trace (Table 19-4, R464-R474). -/
structure Trace where
  state     : TraceState
  full      : Bool
  wrapped   : Bool
  written   : Nat
  overflows : Nat
  cfg       : TraceCfg
  landing   : Mem
  queue     : List TPkt
  encoders  : Tab Encoder
  wraps     : Nat
deriving DecidableEq, Repr

/-! ### The whole block -/

/-- Why a step stops with a fault: never. What the spec calls a fault of a pasture, a link or a domain is a state
of that unit, reached by a next state, and an address that answers nothing has an answer the spec states (R147,
R291, R318). So the type has no constructor. -/
inductive Fault where
deriving DecidableEq, Repr

/-- Why a step is refused. -/
inductive Refusal where
  /-- The arm of a command that has no meaning yet. Safe. -/
  | notModelled (mnemonic : String)
  /-- A write into the authorised diagnostic window while it is open that is no debug override (R454): the layout of its vendor test
  structures is not part of the manual (R423). Raised by REGISTER_WRITE. Safe. -/
  | diagnosticWindow
deriving DecidableEq, Repr

/-- The state of the block. -/
structure State where
  ident    : Ident
  fuses    : Fuses
  flash    : Flash
  dev      : Dev
  host     : HostSide
  out      : List Output
  folds    : Tab Fold
  pairs    : Tab Pair
  hbm      : Mem
  pastures : Tab Pasture
  mregions : Tab MRegion
  mstatus  : Tab MStatus
  flow     : FlowSide
  acq      : Tab Acq
  snaps    : Tab Snap
  noc      : Noc
  lanes    : Tab Lane
  ports    : Tab LinkPort
  time     : TimeBase
  eth      : Tab EthPort
  edge     : Edge
  pwr      : Pwr
  trace    : Trace
  freeCount: Nat
  pending  : List Instr
deriving DecidableEq, Repr

/-! ### The records after reset -/

/-- A device of the model (DESIGN CHOICE, log 3): part PM6-X512, stepping B0, no disabled fold pair. -/
def Ident.init : Ident :=
  { part := .x512, stepping := .b0, serial := List.replicate 16 0, disabled := [], mac0 := 0, mac1 := 0,
    prodCert := [], lcPub := (0, 0), straps := [] }

/-- The fuses as a device leaves the vendor (R420; DESIGN CHOICE, log 3). -/
def Fuses.init : Fuses :=
  { uds := List.replicate 48 0, devCert := [], lcState := 1, ownerSet := false,
    ownerHash := List.replicate 48 0, returns := 0, lcCounter := 1, svnMin := 0 }

def FwSlot.empty : FwSlot := { bytes := [], good := false, minor := 0, major := 0, svn := 0 }

/-- Slot A holds a verified image, slot B is empty (DESIGN CHOICE, log 4). -/
def Flash.init : Flash :=
  { slotA := { bytes := [], good := true, minor := 0, major := 1, svn := 0 }, slotB := FwSlot.empty,
    activeB := false, preferB := false, staged := false, total := 0 }

/-- Table 18-8 after a loss of VDD_AON: POR is a cause of the reset. -/
def ResetCause.init : ResetCause :=
  { cause := 1, last := 0, ccWdog := false, ccLockup := false, lastCc := 0, ccRestarts := 0 }

/-- Table 18-9. -/
def BootRecord.init : BootRecord :=
  { stage := 1, inMinimal := false, startKind := 0, failCount := 0, slot := false, fallback := false,
    hbmOk := 0, hbmFail := 0, bootMs := 0, fail0 := 0, fail1 := 0, fail2 := 0, clkIsland := 0x3FF }

/-- Tables 1-7, 11-5 and 11-6. -/
def Dev.init : Dev :=
  { mode := .boot, prevMode := .off, modeChanges := 0, events := 0, accepting := false, restarting := false,
    reduced := false, cause := ResetCause.init, boot := BootRecord.init, booting := false,
    erase := .none, warned := [], holdFaults := [], restartedAt := false,
    fullAttempt := false, log := [], early := [] }

/-- Table 11-7. -/
def CmdRing.init : CmdRing :=
  { cmdBase := 0, cplBase := 0, enable := false, cmdLog2 := 0, cplLog2 := 0, cmdTail := 0, cmdHead := 0,
    cplHead := 0, cplTail := 0, halted := false, configErr := false, badDoorbell := false, seq := 0,
    bound := none }

/-- R367. -/
def Msix.init : Msix := { addr := 0, data := 0, masked := true, pending := false }

def HostSide.init : HostSide :=
  { rings := [], prog := [], mem := [], badRanges := [], cplWait := [], msix := [],
    msixOn := true, msixMask := false, aer := 0, d3hot := false, fnReady := false, sessions := [] }

def FoldStore.init : FoldStore := { instr := [], side := [], smap := [], probes := [], due := [0, 0, 0, 0] }
def Nrf.init : Nrf := { cur := [], nxt := [], shd := [] }
def FoldSeq.init : FoldSeq :=
  { slot := 0, lastSlot := 0, arrived := false, cause := 0, stallSteps := 0, stallMark := 0, busPrev := 0,
    bpOut := 0, delivered := [], wr1 := [], wr0 := [], nx0 := [], ev0 := [], done := [], issued := [], spDue := [],
    stateFinal := false, ended := false, prepared := false, waking := false }
/-- Tables 2-7 and 2-8. -/
def FoldEcc.init : FoldEcc :=
  { sbe := 0, dbe := 0, inSide := false, byScrub := false, errSlot := 0, errBp := 0, scrubIdx := 0, errs := [] }
def AssertLatch.init : AssertLatch := { first := none, count := 0 }
def DmPort.init : DmPort := { queue := [], late := 0, full := 0 }
def FoldRing.init : FoldRing := { cells := [], reads := [] }
def Fold.init : Fold :=
  { pasture := none, store := FoldStore.init, nrf := Nrf.init, seq := FoldSeq.init, ecc := FoldEcc.init,
    latch := AssertLatch.init, probeLatch := 0, dm := DmPort.init, ringC := FoldRing.init,
    ringK := FoldRing.init, stopAt := none }

def Steal.init : Steal := { deferred := 0, maxWait := 0 }
def Pair.init : Pair :=
  { pads := [], port := [], busy := [], served := [], turn := [], rowSt := 0, orderSt := 0, diag := Steal.init, ring := Steal.init, acq := Steal.init }

/-- Tables 7-8 to 7-12. -/
def PStat.init : PStat :=
  { state := .empty, runMode := .free, freezeMid := false, freezeCause := 0, rings := false, join := 0,
    root := false, lastStatus := 0, spanIndex := 0, spanDevices := 0, ecycle := 0, target := 0, events := 0 }
def PExt.init : PExt :=
  { overruns := 0, slackMin := 0xFFFF, dropped := 0, latched := false, heldEv := 0, readyFor := none }
def PAssert.init : PAssert :=
  { fold := 0, bp := 0, slot := 0, id := 0, valid := false, ecycle := 0, count := 0 }
def PFault.init : PFault :=
  { status := 0, unit := 0, slot := 0, index := 0, fields := 0, dir := false, valid := false, ecycle := 0 }
/-- Tables 4-11 to 4-13. -/
def PWdog.init : PWdog :=
  { periodLog2 := 0x14, enable := true, written := false, counter := 0, fresh := false, dlFold := 0, dlSlot := 0, dlCause := 0,
    dlEp := 0, extWait := false, dlScratch := false, peerKind := 0, peerId := 0, peerSlot := 0, peerState := 0 }
def PRun.init : PRun :=
  { assertAction := 0, assertLimit := 0, ovrPolicy := 0, extPort := none, outMode := 0, stops := [],
    holdAt := none, logEnd := none, ownLog := false, taken := false, ecySteps := 0, waitSteps := 0,
    flowSteps := 0, dmLate := 0, climb := 0, descent := none, cross := none, event := 0, relTok := none, guard := 0, sendQ := [],
    sendNew := [] }
def DmRegion.init : DmRegion := { valid := false, base := 0, pages := 0 }
def PComp.init : PComp :=
  { pairs := [], edgePorts := [], linkPorts := [], regions := [], sid := 0, nonce := [], jobId := [],
    digest := [], profile := 0, depth := 0, rootLevel := 0, parent := none, children := [], allocs := [],
    dmRegions := [], engines := 0 }
def PFlow.init : PFlow :=
  { ports := [], ready := [], overflow := [], readyHigh := 0, stray := 0, earlySat := false, hostErr := false,
    bpWait := false, bpBarriers := 0, bpSteps := 0, readNo := 0 }
/-- Table 10-12. -/
def PRing.init : PRing :=
  { plan := none, completeNo := 0, currentNo := 0, copying := false, kHeld := false, early := 0, recoveries := 0,
    cEcycle := 0, kEcycle := 0, cause := 0, attempts := 0, boundMet := false, durationNs := 0, faultEcy := 0,
    undo := [], log := [], spUndo := [], dmUndo := 0, runTicks := 0, recovery := none, replayLog := [],
    runLog := [], afterRec := false, capNext := 0, asrtNext := 0,
    bufB := false, undoBase := 0, logBase := 0, logFrom := 0, hostReq := false }
def PSpan.init : PSpan :=
  { joinBytes := [], members := [], counts := [], countsSent := false, portWrong := false, joinSent := false, arrived := [],
    arriveSent := false, ringReq := false, ringDone := [], trig := none, memberAssert := 0, memberTotal := 0,
    kComplete := false, unloadPort := none, choosing := false, repFrom := [], repAll := false, early := [] }
def Pasture.init : Pasture :=
  { stat := PStat.init, ext := PExt.init, assert := PAssert.init, fault := PFault.init, wdog := PWdog.init,
    run := PRun.init, comp := PComp.init, load := none, chans := [], flow := PFlow.init, ck := PRing.init,
    span := PSpan.init }

def MRegion.init : MRegion := { valid := false, rd := false, wr := false, setclr := false, pasture := 0, base := 0, pages := 0 }
def MStatus.init : MStatus := { viol := 0, lastPasture := 0, lastPv := false, lastWrite := false }

def Queue.init : Queue :=
  { base := 0, depthLog2 := 0, units := 0, role := 0, notifyEn := false, notifyTask := 0, head := 0, tail := 0,
    highWater := 0, lateAdmits := 0, dbReject := 0, hist := List.replicate 8 0, passed := 0 }
def Task.init : Task :=
  { owner := none, op := 0, cyclic := false, initCount := 0, rearm := 0, batch := 0, src := 0, dst := 0,
    vector := 0, succs := [], counter := 0, early := 0, tstate := .waiting, lastEngine := 0, runs := 0,
    moved := 0, busyNs := 0, hostParked := false, parkMoved := 0, parkNs := 0, parkEngine := 0 }
def Engine.init : Engine := { busyUs := 0, busyRemNs := 0, runs := 0, cur := 0, run := none }
def FlowSide.init : FlowSide := { owners := [], queues := [], tasks := [], engines := [] }

/-- Tables 9-10 and 9-11. -/
def Acq.init : Acq :=
  { plan := [], hasPlan := false, state := .none, triggered := false, forced := false, force := false,
    disarm := false, segment := 0, landWaits := 0, written := 0, trigSeq := 0xFFFFFFFF, seqState := 0, dwell := 0,
    tallies := [0, 0, 0, 0], post := 0, wraps := 0, waiting := [], held := [], waitBar := none, prev := none, prevTs := none, edgeMem := [],
    firstEcy := 0, segDone := false }
def Snap.init : Snap :=
  { has := false, bufB := false, truncated := false, ringEcy := 0, keptLen := 0, active := false, curEcy := 0,
    curB := false, memDone := false, stop := false }

/-- Table 12-8; the weights of R324. -/
def Router.init : Router :=
  { holds := 0, parErrs := 0, proxy := 0, parNet := 0, parVc := 0,
    parIn := 0, weights := 0x1248 }
/-- Table 12-10. -/
def Regulator.init : Regulator := { rate := 0x100, burst := 0xFF, tokens := 0xFF00, throttled := 0 }
def DatSlot.init : DatSlot :=
  { who := 0, valid := false, shared := false, bytes := 0, pkts := 0, latMax := 0, latSum := 0 }
def NocProbe.init : NocProbe :=
  { router := 0, net := 0, input := 0, enable := false, trace := false, match_ := 0, mask := 0, count := 0,
    kept := [] }
def Noc.init : Noc :=
  { routers := [], regulators := [], slotsUsed := 0, overflow := false, slots := [], probes := [], txns := [],
    cached := [], invWait := [], late := 0, waiting := [], holds := [], padWait := [] }

/-- Tables 13-9 and 13-10. -/
def Lane.init : Lane :=
  { state := .down, peak := 0, pinned := false, pinReq := none, pinPend := none, manual := false,
    blockLock := false, marginLow := false, hMargin := 0, vMargin := 0, shErrs := 0, retrains := 0, prbsErrs := 0,
    prbsLock := false, passed := false, boundary := 0, scr := 0, prbsTx := 2 ^ 31 - 1, prbsRx := 0, headers := 0, lockWin := 0,
    lockRun := 0 }
/-- Table 13-11: CABLE and PEER_PORT read all ones. -/
def LinkPort.init : LinkPort :=
  { bond := 0, linkLow := 0, cable := 0xFFFF, replays := 0, limitHits := 0, peerPort := 0xFF, peer := 0,
    ready := false, loopMode := 0, capRecs := [], txSeq := 0, rxSeq := 0, discard := false, nakDue := false, wait := [], sent := [],
    txd := 0, line := [], naks := [], txPos := 0, rxPos := 0, phase := 0, sinceSkip := 0, ackAge := 0, credits := [], owed := [], rxWords := [], group := [], unacked := 0,
    retrainPending := false, lost := [] }

/-- Tables 14-7 to 14-9. -/
def TimeBase.init : TimeBase :=
  { ns := 0, frac := 0, running := false, incr := Config.nominalIncr, servo := .free, jumpRefused := false,
    gmChanged := false, stepArmed := false, port := false, jumpNs := 0x2710, refusals := 0, steps := 0,
    gmChanges := 0, holdovers := 0, offset := 0, delay := 0, before := 0, after := 0, gmId := 0, seenId := 0,
    goodRun := 0, badRun := 0 }
def EthPort.init : EthPort :=
  { link := false, masterSeen := false, dropped := 0, responses := 0, fcsErrs := 0, best := none, seenLeft := 0, bestLeft := 0,
    t1 := none, t2 := 0, corr := 0, t3 := none, recent := [], heard := [] }

/-- Table 15-8. -/
def Region.init : Region :=
  { state := .unconfigured, owner := none, epWait := false, localFfs := 0, gclk0 := false, gclk1 := false,
    flash := false, head := [], tiles := [], freed := [], epFreed := false, driving := false, guard := [], ffs := [], rams := [],
    wires := [], wiresWas := [], termIn := [], termOut := [], termWas := [], readyIn := 0, cycIn := 0 }
/-- Table 15-9: VCCO_DECL 7 while nothing is declared. -/
def Bank.init : Bank :=
  { decl := 7, ok := false, latched := false, mv := 0, drops := 0, declBy := [] }
/-- R408: the instruction after reset is IDCODE (DESIGN CHOICE, log 3 for the boundary register). -/
def Tap.init : Tap := { instr := 0x01, boundary := [] }
def Edge.init : Edge :=
  { regions := [], banks := [], probePins := [], flash := [], flashOwner := none,
    tap := Tap.init, phase := 0, osc := [0, 0, 0, 0] }

/-- Tables 17-9 and 17-10: a domain starts in ON. -/
def Domain.init : Domain :=
  { state := .on, entry := .none, waking := false, retLost := false, refuser := 0, tNextUs := 0, retEntries := 0,
    offEntries := 0, refused := 0, aborted := 0, dipped := false }
/-- Table 17-8 and R480: the start point is 500 MHz. -/
def DieClk.init : DieClk :=
  { mhz := 500, tj := 0, floor := 0, limiter := 0, target := none, tries := 0, hot := false,
    thermCap := 1250, powCap := 1250, phase := 0, edge := false }
def Pwr.init : Pwr :=
  { domains := [], dies := [], watts := 0, cap := 0, ladder := 7, capUnmet := false, tjEdge := [], tjHbm := [],
    throttle := 0, capSteps := 0, junction := 0, overrides := 0, stopped := [] }

/-- R474: TS_LOG2 20 before any configuration. -/
def TraceCfg.init : TraceCfg :=
  { cores := 0, data := 0, fill := false, tsLog2 := 20, startMask := 0, stopMask := 0, base := 0, limit := 0,
    comps := [0, 0, 0, 0] }
def Encoder.init : Encoder :=
  { ref := 0, nextAddr := none, icount := 0, dataAddr := 0, lost := 0, full := true, dfull := true, gap := false,
    stepSeen := false, block := 0, landFull := false }
def Trace.init : Trace :=
  { state := .idle, full := false, wrapped := false, written := 0, overflows := 0, cfg := TraceCfg.init,
    landing := [], queue := [], encoders := [], wraps := 0 }

/-- The block as it comes out of a loss of VDD_AON: mode BOOT at stage 1, POR the cause, every memory at the zero
a wipe leaves (R448, R424), and nothing commanded. -/
def State.reset : State :=
  { ident := Ident.init, fuses := Fuses.init, flash := Flash.init, dev := Dev.init, host := HostSide.init,
    out := [], folds := [], pairs := [], hbm := [], pastures := [], mregions := [], mstatus := [],
    flow := FlowSide.init, acq := [], snaps := [], noc := Noc.init, lanes := [], ports := [],
    time := TimeBase.init, eth := [], edge := Edge.init, pwr := Pwr.init, trace := Trace.init,
    freeCount := 0, pending := [] }

end Sys2Proof.Machine
end

