-- ==== Sys2Proof/Machine/Ops.lean ====
section
/-!
DEFINITION. The named operations over tables, memory and units: reading and writing a sparse table in its canonical form,
bytes and little-endian words, one accessor and one update per unit, and the draw of a free value.
-/

namespace Sys2Proof.Machine

open Sys2Proof

/-! ### Tables -/

/-- The record of key `k`; `d` where the table lists none. -/
def tget {α : Type} (t : Tab α) (d : α) (k : Nat) : α :=
  match t with
  | [] => d
  | (j, v) :: r => if j = k then v else tget r d k

/-- Insert at the place the rising order gives. -/
def tins {α : Type} (k : Nat) (v : α) : Tab α → Tab α
  | [] => [(k, v)]
  | (j, w) :: r => if k < j then (k, v) :: (j, w) :: r else (j, w) :: tins k v r

/-- A table without key `k`. -/
def tdel {α : Type} (t : Tab α) (k : Nat) : Tab α := t.filter (fun e => e.1 != k)

/-- Write a record; the default record is not listed. -/
def tput {α : Type} [DecidableEq α] (t : Tab α) (d : α) (k : Nat) (v : α) : Tab α :=
  if v = d then tdel t k else tins k v (tdel t k)

/-- Replace a record by a function of it. -/
def tmod {α : Type} [DecidableEq α] (t : Tab α) (d : α) (k : Nat) (f : α → α) : Tab α := tput t d k (f (tget t d k))

/-- A table without the keys of [lo, lo + n). -/
def tclear {α : Type} (t : Tab α) (lo n : Nat) : Tab α :=
  t.filter (fun e => decide (e.1 < lo) || decide (lo + n ≤ e.1))

/-- Rising keys, none of them holding the default. -/
def twf {α : Type} [DecidableEq α] (t : Tab α) (d : α) : Bool :=
  match t with
  | [] => true
  | (k, v) :: r => decide (v ≠ d) && r.all (fun e => decide (k < e.1)) && twf r d

/-! ### Memory of bytes -/

/-- The byte at an address; memory reads zero where nothing is listed (R424, DESIGN CHOICE, log 7). -/
def memGet (m : Mem) (a : Nat) : Byte := tget m 0 a

/-- Write one byte. -/
def memSet (m : Mem) (a : Nat) (b : Byte) : Mem := tput m 0 a b

/-- `n` bytes from address `a`, read off a memory whose lower cells have been passed. -/
def memFill : Mem → Nat → Nat → List Byte
  | _, _, 0 => []
  | [], a, n + 1 => 0 :: memFill [] (a + 1) n
  | (k, b) :: r, a, n + 1 => if k = a then b :: memFill r (a + 1) n else 0 :: memFill ((k, b) :: r) (a + 1) n

/-- The `n` bytes from address `a`. -/
def memRead (m : Mem) (a n : Nat) : List Byte := memFill (m.dropWhile (fun e => decide (e.1 < a))) a n

/-- The cells of a byte string at address `a`; a zero byte is not listed. -/
def memCells : Nat → List Byte → Mem
  | _, [] => []
  | a, b :: bs => if b = 0 then memCells (a + 1) bs else (a, b) :: memCells (a + 1) bs

/-- Write bytes from address `a` upward. -/
def memWrite (m : Mem) (a : Nat) (bs : List Byte) : Mem :=
  let z := a + bs.length
  m.filter (fun e => decide (e.1 < a)) ++ memCells a bs ++ m.filter (fun e => decide (z ≤ e.1))

/-- Zero the `n` bytes from address `a`. -/
def memZero (m : Mem) (a n : Nat) : Mem := tclear m a n

/-- A memory in its canonical form. -/
def Memory.wf (m : Mem) : Bool := twf m 0

/-! ### Bytes and words, little-endian (R10) -/

/-- The `n` low bytes of a number, least significant first. -/
def leBytes : Nat → Nat → List Byte
  | 0, _ => []
  | n + 1, x => BitVec.ofNat 8 x :: leBytes n (x / 256)

/-- The number of a little-endian byte string. -/
def leNat : List Byte → Nat
  | [] => 0
  | b :: bs => b.toNat + 256 * leNat bs

/-- The `n` low bytes of a number, most significant first. -/
def beBytes (n x : Nat) : List Byte := (leBytes n x).reverse

/-- The number of a big-endian byte string. -/
def beNat (bs : List Byte) : Nat := leNat bs.reverse

/-- The `n` bytes at offset `o` of a byte string, zeros past its end. -/
def slice (bs : List Byte) (o n : Nat) : List Byte :=
  let t := (bs.drop o).take n
  t ++ List.replicate (n - t.length) 0

/-- The `n`-byte little-endian field at offset `o`. -/
def fieldAt (bs : List Byte) (o n : Nat) : Nat := leNat (slice bs o n)

/-- Whether the `n` bytes at offset `o` are all zero. -/
def zeroAt (bs : List Byte) (o n : Nat) : Bool := (slice bs o n).all (fun b => b == 0)

/-- A byte string filled with zeros up to `n` bytes, and cut there. -/
def padTo (n : Nat) (bs : List Byte) : List Byte := slice bs 0 n

/-- A word packed from fields (low bit, width, value): each field's value cut to its width. -/
def packFields (fs : List (Nat × Nat × Nat)) : Nat :=
  fs.foldl (fun a f => a + (f.2.2 % 2 ^ f.2.1) * 2 ^ f.1) 0

/-- Split a byte string into blocks of `n` bytes, `k` of them at most. -/
def blocks (n : Nat) : Nat → List Byte → List (List Byte)
  | 0, _ => []
  | k + 1, bs => if bs.isEmpty then [] else bs.take n :: blocks n k (bs.drop n)

/-- A number as an unsigned field of a signed value, `w` bits, two's complement. -/
def twos (w : Nat) (x : Int) : Nat := (x % (2 ^ w : Int)).toNat

/-- The first `n` numbers that satisfy a test. -/
def numsWhere (n : Nat) (p : Nat → Bool) : List Nat := (List.range n).filter p

/-- The positions of the one bits of a byte string, bit 0 of the first byte first. -/
def bitPositions (bs : List Byte) : List Nat :=
  (List.range (8 * bs.length)).filter (fun i => (bs.getD (i / 8) 0).getLsbD (i % 8))

/-! ### Free values -/

/-- Draw a free value of `w` bits. -/
def State.draw (s : State) (w : Nat) : Nat × State :=
  (Config.freeNat s.freeCount % 2 ^ w, { s with freeCount := s.freeCount + 1 })

/-- Draw `n` free bytes. -/
def State.drawBytes (s : State) : Nat → List Byte × State
  | 0 => ([], s)
  | n + 1 =>
    let (x, s) := s.draw 8
    let (r, s) := s.drawBytes n
    (BitVec.ofNat 8 x :: r, s)

/-! ### Units -/

def State.modDev (s : State) (f : Dev → Dev) : State := { s with dev := f s.dev }
def State.modHost (s : State) (f : HostSide → HostSide) : State := { s with host := f s.host }
def State.modNoc (s : State) (f : Noc → Noc) : State := { s with noc := f s.noc }
def State.modTime (s : State) (f : TimeBase → TimeBase) : State := { s with time := f s.time }
def State.modEdge (s : State) (f : Edge → Edge) : State := { s with edge := f s.edge }
def State.modPwr (s : State) (f : Pwr → Pwr) : State := { s with pwr := f s.pwr }
def State.modTrace (s : State) (f : Trace → Trace) : State := { s with trace := f s.trace }
def State.modFlow (s : State) (f : FlowSide → FlowSide) : State := { s with flow := f s.flow }

def State.ring (s : State) (n : Nat) : CmdRing := tget s.host.rings CmdRing.init n
def State.modRing (s : State) (n : Nat) (f : CmdRing → CmdRing) : State :=
  s.modHost (fun h => { h with rings := tmod h.rings CmdRing.init n f })

def State.fold (s : State) (n : Nat) : Fold := tget s.folds Fold.init n
def State.modFold (s : State) (n : Nat) (f : Fold → Fold) : State :=
  { s with folds := tmod s.folds Fold.init n f }
def State.modSeq (s : State) (n : Nat) (f : FoldSeq → FoldSeq) : State :=
  s.modFold n (fun x => { x with seq := f x.seq })

def State.pair (s : State) (n : Nat) : Pair := tget s.pairs Pair.init n
def State.modPair (s : State) (n : Nat) (f : Pair → Pair) : State :=
  { s with pairs := tmod s.pairs Pair.init n f }

def State.pas (s : State) (p : Nat) : Pasture := tget s.pastures Pasture.init p
def State.modPas (s : State) (p : Nat) (f : Pasture → Pasture) : State :=
  { s with pastures := tmod s.pastures Pasture.init p f }
def State.modStat (s : State) (p : Nat) (f : PStat → PStat) : State :=
  s.modPas p (fun x => { x with stat := f x.stat })
def State.modRun (s : State) (p : Nat) (f : PRun → PRun) : State :=
  s.modPas p (fun x => { x with run := f x.run })
def State.modExt (s : State) (p : Nat) (f : PExt → PExt) : State :=
  s.modPas p (fun x => { x with ext := f x.ext })
def State.modCk (s : State) (p : Nat) (f : PRing → PRing) : State :=
  s.modPas p (fun x => { x with ck := f x.ck })
def State.modPFlow (s : State) (p : Nat) (f : PFlow → PFlow) : State :=
  s.modPas p (fun x => { x with flow := f x.flow })
def State.modWdog (s : State) (p : Nat) (f : PWdog → PWdog) : State :=
  s.modPas p (fun x => { x with wdog := f x.wdog })
def State.modSpan (s : State) (p : Nat) (f : PSpan → PSpan) : State :=
  s.modPas p (fun x => { x with span := f x.span })
def State.pstate (s : State) (p : Nat) : PState := (s.pas p).stat.state

/-- Channel `c` of a pasture's map, by its place in the map. -/
def Chan.none : Chan :=
  { srcKind := .fold, srcId := 0, dstKind := .fold, dstId := 0, count := 0, srcFifo := [], path := [], dstFifo := [],
    delivered := 0, sent := 0 }
def State.modChan (s : State) (p c : Nat) (f : Chan → Chan) : State :=
  s.modPas p (fun x => { x with chans := x.chans.modify c f })

def State.queue (s : State) (q : Nat) : Queue := tget s.flow.queues Queue.init q
def State.modQueue (s : State) (q : Nat) (f : Queue → Queue) : State :=
  s.modFlow (fun w => { w with queues := tmod w.queues Queue.init q f })
def State.task (s : State) (t : Nat) : Task := tget s.flow.tasks Task.init t
def State.modTask (s : State) (t : Nat) (f : Task → Task) : State :=
  s.modFlow (fun w => { w with tasks := tmod w.tasks Task.init t f })
def State.engine (s : State) (e : Nat) : Engine := tget s.flow.engines Engine.init e
def State.modEngine (s : State) (e : Nat) (f : Engine → Engine) : State :=
  s.modFlow (fun w => { w with engines := tmod w.engines Engine.init e f })

def State.acqOf (s : State) (p : Nat) : Acq := tget s.acq Acq.init p
def State.modAcq (s : State) (p : Nat) (f : Acq → Acq) : State := { s with acq := tmod s.acq Acq.init p f }
def State.snap (s : State) (p : Nat) : Snap := tget s.snaps Snap.init p
def State.modSnap (s : State) (p : Nat) (f : Snap → Snap) : State := { s with snaps := tmod s.snaps Snap.init p f }

def State.mregion (s : State) (i : Nat) : MRegion := tget s.mregions MRegion.init i
def State.mstat (s : State) (i : Nat) : MStatus := tget s.mstatus MStatus.init i
def State.modMstat (s : State) (i : Nat) (f : MStatus → MStatus) : State :=
  { s with mstatus := tmod s.mstatus MStatus.init i f }

def State.router (s : State) (r : Nat) : Router := tget s.noc.routers Router.init r
def State.modRouter (s : State) (r : Nat) (f : Router → Router) : State :=
  s.modNoc (fun n => { n with routers := tmod n.routers Router.init r f })
def State.regulator (s : State) (i : Nat) : Regulator := tget s.noc.regulators Regulator.init i
def State.modRegulator (s : State) (i : Nat) (f : Regulator → Regulator) : State :=
  s.modNoc (fun n => { n with regulators := tmod n.regulators Regulator.init i f })
def State.nocProbe (s : State) (i : Nat) : NocProbe := tget s.noc.probes NocProbe.init i
def State.modNocProbe (s : State) (i : Nat) (f : NocProbe → NocProbe) : State :=
  s.modNoc (fun n => { n with probes := tmod n.probes NocProbe.init i f })

def State.lane (s : State) (l : Nat) : Lane := tget s.lanes Lane.init l
def State.modLane (s : State) (l : Nat) (f : Lane → Lane) : State := { s with lanes := tmod s.lanes Lane.init l f }
def State.port (s : State) (n : Nat) : LinkPort := tget s.ports LinkPort.init n
def State.modPort (s : State) (n : Nat) (f : LinkPort → LinkPort) : State :=
  { s with ports := tmod s.ports LinkPort.init n f }

def State.ethPort (s : State) (k : Nat) : EthPort := tget s.eth EthPort.init k
def State.modEth (s : State) (k : Nat) (f : EthPort → EthPort) : State :=
  { s with eth := tmod s.eth EthPort.init k f }

def State.region (s : State) (r : Nat) : Region := tget s.edge.regions Region.init r
def State.modRegion (s : State) (r : Nat) (f : Region → Region) : State :=
  s.modEdge (fun e => { e with regions := tmod e.regions Region.init r f })
def State.bank (s : State) (b : Nat) : Bank := tget s.edge.banks Bank.init b
def State.modBank (s : State) (b : Nat) (f : Bank → Bank) : State :=
  s.modEdge (fun e => { e with banks := tmod e.banks Bank.init b f })

def State.domain (s : State) (d : Nat) : Domain := tget s.pwr.domains Domain.init d
def State.modDomain (s : State) (d : Nat) (f : Domain → Domain) : State :=
  s.modPwr (fun w => { w with domains := tmod w.domains Domain.init d f })
def State.dieClk (s : State) (d : Nat) : DieClk := tget s.pwr.dies DieClk.init d
def State.modDie (s : State) (d : Nat) (f : DieClk → DieClk) : State :=
  s.modPwr (fun w => { w with dies := tmod w.dies DieClk.init d f })

def State.encoder (s : State) (c : Nat) : Encoder := tget s.trace.encoders Encoder.init c
def State.modEncoder (s : State) (c : Nat) (f : Encoder → Encoder) : State :=
  s.modTrace (fun t => { t with encoders := tmod t.encoders Encoder.init c f })

/-- Something the device sends (DESIGN CHOICE, log 8). -/
def State.send (s : State) (o : Output) : State := { s with out := s.out ++ [o] }

/-! ### Places of the device -/

/-- The pair of a fold, and the folds of a pair (R35). -/
def pairOf (f : Nat) : Nat := f / 2
/-- The compute die of a fold or pair (R16). -/
def dieOfPair (p : Nat) : Nat := p / 64
def dieOfFold (f : Nat) : Nat := dieOfPair (pairOf f)

/-- The folds of a list of pairs, ascending. -/
def foldsOf (pairs : List Nat) : List Nat := pairs.flatMap (fun q => [2 * q, 2 * q + 1])

/-- The disabled fold pairs (R2): a PM6-X512 has none; a PM6-X448 has exactly 8 on each compute die, the first ones listed for the die,
and the die's lowest where fewer are listed. -/
def Ident.absent (i : Ident) : List Nat :=
  match i.part with
  | .x512 => []
  | .x448 => (List.range 4).flatMap (fun d =>
      (((i.disabled ++ (List.range 64).map (fun k => 64 * d + k)).filter (fun q => dieOfPair q == d)).eraseDups).take 8)

/-- Whether a fold pair is enabled (R2). -/
def State.pairEnabled (s : State) (q : Nat) : Bool := !(s.ident.absent.contains q)

/-- The folds of a pasture. -/
def State.pasFolds (s : State) (p : Nat) : List Nat := foldsOf (s.pas p).comp.pairs

/-- Apply an update for each number of a list, in order. -/
def State.forAll (s : State) (l : List Nat) (f : State → Nat → State) : State := l.foldl f s

end Sys2Proof.Machine
end

