-- ==== Sys2Proof/Machine/Crypto.lean ====
section
/-!
DEFINITION. The primitives the spec names from their standards (PRESUMED, log 5): CRC-32C (RFC 3720, R298), CRC-16 of link blocks
(R347), AES-256 with GCM and CTR (FIPS 197, SP 800-38A and -38D), SHA-384 (FIPS 180-4), HMAC and HKDF (RFC 2104, RFC
5869), and ECDSA and ECDH on P-384 (FIPS 186-5, SP 800-56A). PRESUMED from the standards: the spec names them and does
not restate them.
-/

namespace Sys2Proof.Machine

open Sys2Proof

/-! ### Checks -/

/-- One bit of a reflected CRC. -/
def crcBit (poly c : Nat) : Nat := if c % 2 = 1 then (c / 2) ^^^ poly else c / 2

def iter {α : Type} (f : α → α) : Nat → α → α
  | 0, x => x
  | n + 1, x => iter f n (f x)

/-- CRC-32C: polynomial 0x1EDC6F41 reflected, initial value and final exclusive OR all ones (R298). -/
def crc32c (bs : List Byte) : Nat :=
  bs.foldl (fun c b => iter (crcBit 0x82F63B78) 8 (c ^^^ b.toNat)) 0xFFFFFFFF ^^^ 0xFFFFFFFF

/-- CRC-16 of polynomial 0x1021, most significant bit first, initial value 0xFFFF, no final exclusive OR. -/
def crc16 (bs : List Byte) : Nat :=
  bs.foldl (fun c b => iter (fun x => if x ≥ 0x8000 then (x * 2 % 65536) ^^^ 0x1021 else x * 2) 8
    (c ^^^ (b.toNat * 256))) 0xFFFF

/-! ### AES-256 -/

/-- Doubling in GF(2^8). -/
def gfDouble (x : Nat) : Nat := if x ≥ 128 then (x * 2 % 256) ^^^ 0x1B else x * 2

def gfMul (x y : Nat) : Nat :=
  ((List.range 8).foldl (fun (a : Nat × Nat) i => (if bitOf y i then a.1 ^^^ a.2 else a.1, gfDouble a.2)) (0, x)).1

/-- The inverse in GF(2^8), by the power 254; 0 for 0. -/
def gfInv (x : Nat) : Nat :=
  let x2 := gfMul x x
  let x4 := gfMul x2 x2
  let x8 := gfMul x4 x4
  let x16 := gfMul x8 x8
  let x32 := gfMul x16 x16
  let x64 := gfMul x32 x32
  let x128 := gfMul x64 x64
  gfMul x2 (gfMul x4 (gfMul x8 (gfMul x16 (gfMul x32 (gfMul x64 x128)))))

/-- The S-box: inversion and the affine map of FIPS 197. -/
def sboxOf (x : Nat) : Nat :=
  let b := gfInv x
  let rot (n : Nat) := (b * 2 ^ n % 256) ||| (b / 2 ^ (8 - n))
  b ^^^ rot 1 ^^^ rot 2 ^^^ rot 3 ^^^ rot 4 ^^^ 0x63

def sboxTable : Array Nat := ((List.range 256).map sboxOf).toArray
def sbox (x : Nat) : Nat := sboxTable.getD x 0

def xorList (a b : List Nat) : List Nat := List.zipWith (· ^^^ ·) a b

/-- The round keys of a 32-byte key: 60 words of 4 bytes. `w` holds the words so far, latest first. -/
def aesExpandFrom (w : List (List Nat)) (rcon : Nat) (i : Nat) : Nat → List (List Nat)
  | 0 => w
  | n + 1 =>
    let prev := w.headD []
    let back := w.getD 7 []
    let t := if i % 8 = 0 then
        (match prev.map sbox with
          | [a, b, c, d] => [b ^^^ rcon, c, d, a]
          | l => l)
      else if i % 8 = 4 then prev.map sbox else prev
    aesExpandFrom (xorList back t :: w) (if i % 8 = 0 then gfDouble rcon else rcon) (i + 1) n

def chunk4 (l : List Nat) : Nat → List (List Nat)
  | 0 => []
  | n + 1 => l.take 4 :: chunk4 (l.drop 4) n

/-- The 15 round keys, 16 bytes each. -/
def aesKeys (key : List Byte) : List (List Nat) :=
  let k := (padTo 32 key).map BitVec.toNat
  let ws := (aesExpandFrom (chunk4 k 8).reverse 1 8 52).reverse
  (List.range 15).map (fun r => ((ws.drop (4 * r)).take 4).flatten)

def mixColumn (c : List Nat) : List Nat :=
  match c with
  | [a, b, d, e] =>
    [gfDouble a ^^^ (gfDouble b ^^^ b) ^^^ d ^^^ e, a ^^^ gfDouble b ^^^ (gfDouble d ^^^ d) ^^^ e,
     a ^^^ b ^^^ gfDouble d ^^^ (gfDouble e ^^^ e), (gfDouble a ^^^ a) ^^^ b ^^^ d ^^^ gfDouble e]
  | l => l

def shiftRows (st : List Nat) : List Nat :=
  (List.range 16).map (fun i => st.getD ((i + 4 * (i % 4)) % 16) 0)

/-- One block of AES-256. -/
def aesBlock (ks : List (List Nat)) (blk : List Nat) : List Nat :=
  let st := xorList blk (ks.headD [])
  let mid := ((ks.drop 1).take 13).foldl (fun st k =>
    xorList ((chunk4 (shiftRows (st.map sbox)) 4).map mixColumn).flatten k) st
  xorList (shiftRows (mid.map sbox)) (ks.getD 14 [])

def natBytes (l : List Nat) : List Byte := l.map (BitVec.ofNat 8)

/-- The key stream of counter mode from a 16-byte counter whose low 32 bits count up, applied to bytes. -/
def aesCtrFrom (ks : List (List Nat)) (pre : List Byte) (ctr : Nat) : Nat → List Byte → List Byte
  | 0, _ => []
  | n + 1, bs =>
    if bs.isEmpty then []
    else
      let pad := natBytes (aesBlock ks ((pre ++ beBytes 4 ctr).map BitVec.toNat))
      List.zipWith (· ^^^ ·) (bs.take 16) pad ++ aesCtrFrom ks pre ((ctr + 1) % 2 ^ 32) n (bs.drop 16)

/-- Multiplication in GF(2^128) of GCM. -/
def ghashMul (x y : Nat) : Nat :=
  ((List.range 128).foldl (fun (a : Nat × Nat) i =>
    (if bitOf x (127 - i) then a.1 ^^^ a.2 else a.1,
     if a.2 % 2 = 1 then (a.2 / 2) ^^^ (0xE1 * 2 ^ 120) else a.2 / 2)) (0, y)).1

def ghash (h : Nat) (bs : List Byte) : Nat :=
  (blocks 16 (bs.length / 16 + 1) bs).foldl (fun y b => ghashMul (y ^^^ beNat (padTo 16 b)) h) 0

/-- Zeros that fill a byte string to a multiple of 16. -/
def pad16 (bs : List Byte) : List Byte := bs ++ List.replicate ((16 - bs.length % 16) % 16) 0

/-- The tag of AES-256-GCM over associated data and ciphertext. -/
def gcmTag (key iv aad ct : List Byte) : List Byte :=
  let ks := aesKeys key
  let h := beNat (natBytes (aesBlock ks (List.replicate 16 0)))
  let s := ghash h (pad16 aad ++ pad16 ct ++ beBytes 8 (8 * aad.length) ++ beBytes 8 (8 * ct.length))
  let e := beNat (natBytes (aesBlock ks ((iv ++ beBytes 4 1).map BitVec.toNat)))
  beBytes 16 (s ^^^ e)

/-- AES-256-GCM, enciphering: ciphertext and tag, for a 12-byte IV. -/
def gcmSeal (key iv aad pt : List Byte) : List Byte × List Byte :=
  let ct := aesCtrFrom (aesKeys key) iv 2 (pt.length / 16 + 1) pt
  (ct, gcmTag key iv aad ct)

/-- AES-256-GCM, deciphering: the plaintext where the tag holds. -/
def gcmOpen (key iv aad ct tag : List Byte) : Option (List Byte) :=
  if gcmTag key iv aad ct = tag then some (aesCtrFrom (aesKeys key) iv 2 (ct.length / 16 + 1) ct) else none

/-- AES-256-CTR from a 12-byte prefix and a 32-bit block count that starts at `ctr`. -/
def aesCtr (key pre : List Byte) (ctr : Nat) (bs : List Byte) : List Byte :=
  aesCtrFrom (aesKeys key) pre ctr (bs.length / 16 + 1) bs

/-! ### SHA-384, HMAC, HKDF -/

/-- The whole `k`-th root of `x`, below 2^b, by its bits from the top. -/
def iroot (k x : Nat) : Nat → Nat → Nat
  | 0, acc => acc
  | b + 1, acc => if (acc + 2 ^ b) ^ k ≤ x then iroot k x b (acc + 2 ^ b) else iroot k x b acc

/-- The first 80 primes. -/
def primes80 : List Nat :=
  (List.range 410).filter (fun n => decide (2 ≤ n) && (List.range n).all (fun d => decide (d < 2) || n % d != 0))

/-- Round constants: the first 64 fraction bits of the cube roots of the first 80 primes. -/
def shaK : Array Nat := (primes80.map (fun p => iroot 3 (p * 2 ^ 192) 68 0 % 2 ^ 64)).toArray

/-- Initial values of SHA-384: the same of the square roots of the 9th to 16th primes. -/
def sha384Init : List Nat := ((primes80.drop 8).take 8).map (fun p => iroot 2 (p * 2 ^ 128) 68 0 % 2 ^ 64)

def rotr64 (x n : Nat) : Nat := (x / 2 ^ n) ||| (x * 2 ^ (64 - n) % 2 ^ 64)

/-- The message schedule of one block, latest word first. -/
def shaSchedule (w : List Nat) : Nat → List Nat
  | 0 => w
  | n + 1 =>
    let a := w.getD 1 0
    let b := w.getD 14 0
    let s1 := rotr64 a 19 ^^^ rotr64 a 61 ^^^ (a / 2 ^ 6)
    let s0 := rotr64 b 1 ^^^ rotr64 b 8 ^^^ (b / 2 ^ 7)
    shaSchedule ((s1 + w.getD 6 0 + s0 + w.getD 15 0) % 2 ^ 64 :: w) n

def shaRound (st : List Nat) (kw : Nat) : List Nat :=
  match st with
  | [a, b, c, d, e, f, g, h] =>
    let t1 := h + (rotr64 e 14 ^^^ rotr64 e 18 ^^^ rotr64 e 41) +
      ((e &&& f) ^^^ ((2 ^ 64 - 1 - e) &&& g)) + kw
    let t2 := (rotr64 a 28 ^^^ rotr64 a 34 ^^^ rotr64 a 39) + ((a &&& b) ^^^ (a &&& c) ^^^ (b &&& c))
    [(t1 + t2) % 2 ^ 64, a, b, c, (d + t1) % 2 ^ 64, e, f, g]
  | l => l

def shaBlock (st : List Nat) (blk : List Byte) : List Nat :=
  let w := (List.range 16).map (fun i => beNat (slice blk (8 * i) 8))
  let ws := (shaSchedule w.reverse 64).reverse
  let out := ((List.range 80).zip ws).foldl (fun st iw => shaRound st (shaK.getD iw.1 0 + iw.2)) st
  List.zipWith (fun x y => (x + y) % 2 ^ 64) st out

/-- SHA-384. -/
def sha384 (m : List Byte) : List Byte :=
  let l := m.length
  let z := (239 - l % 128) % 128
  let p := m ++ [0x80] ++ List.replicate z 0 ++ beBytes 16 (8 * l)
  let st := (blocks 128 (p.length / 128) p).foldl shaBlock sha384Init
  ((st.take 6).map (beBytes 8)).flatten

/-- HMAC-SHA-384. -/
def hmac384 (key m : List Byte) : List Byte :=
  let k := padTo 128 (if key.length > 128 then sha384 key else key)
  sha384 (k.map (· ^^^ 0x5C) ++ sha384 (k.map (· ^^^ 0x36) ++ m))

/-- HKDF-Extract and HKDF-Expand with SHA-384. -/
def hkdfExtract (salt ikm : List Byte) : List Byte := hmac384 salt ikm

def hkdfBlocks (prk info t : List Byte) (i : Nat) : Nat → List Byte
  | 0 => []
  | n + 1 =>
    let t := hmac384 prk (t ++ info ++ [BitVec.ofNat 8 i])
    t ++ hkdfBlocks prk info t (i + 1) n

def hkdfExpand (prk info : List Byte) (n : Nat) : List Byte := (hkdfBlocks prk info [] 1 (n / 48 + 1)).take n

/-! ### P-384 -/

def p384P : Nat := 2 ^ 384 - 2 ^ 128 - 2 ^ 96 + 2 ^ 32 - 1
def p384B : Nat := 0xb3312fa7e23ee7e4988e056be3f82d19181d9c6efe8141120314088f5013875ac656398d8a2ed19d2a85c8edd3ec2aef
def p384N : Nat := 0xffffffffffffffffffffffffffffffffffffffffffffffffc7634d81f4372ddf581a0db248b0a77aecec196accc52973
def p384G : Nat × Nat :=
  (0xaa87ca22be8b05378eb1c71ef320ad746e1d3b628ba79b9859f741e082542a385502f25dbf55296c3a545e3872760ab7,
   0x3617de4a96262c6f5d9e98bf9292dc29f8f41dbd289a147ce9da3113b5f0b8c00a60b1ce1d7e819d7a431d7c90ea0e5f)

/-- Power in a field of prime order, over the exponent's bits from the top. -/
def powModBits (m x e : Nat) : Nat → Nat → Nat
  | 0, acc => acc
  | b + 1, acc => powModBits m x e b (if bitOf e b then acc * acc % m * x % m else acc * acc % m)

def invMod (m x : Nat) : Nat := powModBits m (x % m) (m - 2) 384 1

/-- Sum of two points; `none` is the point at infinity. -/
def ecAdd (a b : Option (Nat × Nat)) : Option (Nat × Nat) :=
  match a, b with
  | none, q => q
  | q, none => q
  | some (x1, y1), some (x2, y2) =>
    let m := p384P
    if x1 = x2 ∧ (y1 + y2) % m = 0 then none
    else
      let l := if x1 = x2 then (3 * x1 * x1 + (m - 3)) % m * invMod m (2 * y1) % m
        else (y2 + m - y1) % m * invMod m (x2 + m - x1) % m
      let x3 := (l * l + 2 * m - x1 - x2) % m
      some (x3, (l * (x1 + m - x3) + m - y1) % m)

/-- Multiple of a point, over the factor's bits from the top. -/
def ecMulBits (k : Nat) (g : Option (Nat × Nat)) : Nat → Option (Nat × Nat) → Option (Nat × Nat)
  | 0, acc => acc
  | b + 1, acc => ecMulBits k g b (if bitOf k b then ecAdd (ecAdd acc acc) g else ecAdd acc acc)

def ecMul (k : Nat) (g : Nat × Nat) : Option (Nat × Nat) := ecMulBits k (some g) 384 none

/-- Whether a pair is a point of the curve other than infinity. -/
def ecOnCurve (q : Nat × Nat) : Bool :=
  decide (q.1 < p384P) && decide (q.2 < p384P) &&
    (q.2 * q.2 % p384P == (q.1 * q.1 * q.1 + (p384P - 3) * q.1 + p384B) % p384P)

/-- A point of 96 bytes, x then y, most significant byte first; with the one-byte header 0x04 it takes 97. -/
def ecBytes (q : Nat × Nat) : List Byte := beBytes 48 q.1 ++ beBytes 48 q.2
def ecOfBytes (bs : List Byte) : Nat × Nat := (beNat (slice bs 0 48), beNat (slice bs 48 48))

/-- A signature of 96 bytes, r then s, by key `d` with the per-message number `k`. -/
def ecdsaSign (d k : Nat) (m : List Byte) : List Byte :=
  let k := k % (p384N - 1) + 1
  let r := ((ecMul k p384G).map Prod.fst).getD 0 % p384N
  beBytes 48 r ++ beBytes 48 (invMod p384N k * (beNat (sha384 m) + r * d) % p384N)

/-- Whether a 96-byte signature of a message verifies under a public key. -/
def ecdsaVerify (q : Nat × Nat) (m sig : List Byte) : Bool :=
  let r := beNat (slice sig 0 48)
  let s := beNat (slice sig 48 48)
  if r = 0 ∨ s = 0 ∨ p384N ≤ r ∨ p384N ≤ s ∨ ecOnCurve q = false then false
  else
    let w := invMod p384N s
    let z := beNat (sha384 m)
    match ecAdd (ecMul (z * w % p384N) p384G) (ecMul (r * w % p384N) q) with
    | none => false
    | some (x, _) => x % p384N == r

/-- The shared x coordinate of ECDH, 48 bytes. -/
def ecdh (d : Nat) (q : Nat × Nat) : Option (List Byte) := (ecMul d q).map (fun r => beBytes 48 r.1)

end Sys2Proof.Machine
end

