-- ==== Sys2Proof/Machine/TraceOps.lean ====
section
/-!
DEFINITION. Core trace below its commands: packets, the encoders' FIFOs, the landing, and the events that start and stop
a trace (R464–R474). Every unit that can raise such an event calls `traceEvent`.
-/

namespace Sys2Proof.Machine

open Sys2Proof

def TraceState.code : TraceState → Nat
  | .idle => 0 | .armed => 1 | .tracing => 2 | .stopping => 3 | .stopped => 4

def traceBlock : Nat := 16384
def traceBytes : Nat := 4194304
def traceFifo : Nat := 256

/-- The cores that trace: those of CORES; in MINIMAL DC0 alone (R474). -/
def State.tracedCores (s : State) : List Nat :=
  numsWhere Config.numCores (fun c => bitOf s.trace.cfg.cores c && (s.dev.mode != .minimal || c == 0))

/-! ### Packets (Table 19-1) -/

def tHead (ty core : Nat) : Byte := BitVec.ofNat 8 (16 * ty + core)

def pktIdelta (core icount : Nat) (delta : Int) : List Byte :=
  [tHead 1 core, BitVec.ofNat 8 icount] ++ leBytes 2 (twos 16 delta)
def pktIfull (core addr : Nat) : List Byte := tHead 2 core :: leBytes 8 addr
def dflags (store : Bool) (size : Nat) : Byte := BitVec.ofNat 8 (b2n store + 2 * (size % 4))
def pktDaddr (core : Nat) (fl : Byte) (delta : Int) : List Byte := [tHead 3 core, fl] ++ leBytes 4 (twos 32 delta)
def pktDfull (core : Nat) (fl : Byte) (addr : Nat) : List Byte := [tHead 4 core, fl] ++ leBytes 8 addr
def pktDvalue (core value : Nat) : List Byte := tHead 5 core :: leBytes 8 value
def pktTime (core ns wraps : Nat) (step : Bool) : List Byte :=
  tHead 6 core :: (leBytes 4 ns ++ leBytes 3 wraps ++ leBytes 1 (b2n step))
def pktGap (core ns wraps cause : Nat) : List Byte :=
  tHead 7 core :: (leBytes 4 ns ++ leBytes 3 wraps ++ leBytes 1 cause)
def pktOverflow (core lost : Nat) : List Byte := tHead 8 core :: leBytes 2 lost
def pktEvent (core state src : Nat) : List Byte := tHead 9 core :: (leBytes 1 state ++ leBytes 1 src)

/-- The type of a packet's header. -/
def pktType (bs : List Byte) : Nat := (bs.headD 0).toNat / 16

/-! ### The landing -/

/-- Write bytes at the end of what is written; past the end the writing goes on at offset 0 and WRAPPED is set. -/
def Trace.put (t : Trace) (bs : List Byte) : Trace :=
  let o := t.written % traceBytes
  { t with
    landing := memWrite t.landing o bs, written := wrapTo 32 (t.written + bs.length),
    wrapped := t.wrapped || decide (traceBytes ≤ t.written) }

/-- PAD bytes to the end of a block that `n` bytes would cross. -/
def Trace.padFor (t : Trace) (n : Nat) : Trace :=
  let o := t.written % traceBlock
  if traceBlock < o + n then t.put (List.replicate (traceBlock - o) 0xF0) else t

def Trace.encoder (t : Trace) (c : Nat) : Encoder := tget t.encoders Encoder.init c
def Trace.modEncoder (t : Trace) (c : Nat) (f : Encoder → Encoder) : Trace :=
  { t with encoders := tmod t.encoders Encoder.init c f }

/-- The landing takes one packet. A core's first packets in a block are IFULL and TIME; the first data packet after an
IFULL is a DFULL. With FILL, a landing without room takes nothing more: FULL is set and the trace stops. -/
def Trace.land (t : Trace) (ns : Nat) (k : TPkt) : Trace :=
  let e := t.encoder k.core
  let isFull := pktType k.bytes == 2
  let bytes := match k.daddr with
    | some a => if e.landFull && pktType k.bytes == 3 then pktDfull k.core (k.bytes.getD 1 0) a else k.bytes
    | none => k.bytes
  let u := t.padFor bytes.length
  let blk := u.written / traceBlock + 1
  let lead := if e.block == blk || isFull || pktType k.bytes == 9 then []
    else pktIfull k.core k.ref ++ pktTime k.core ns t.wraps false
  let bytes := if lead.isEmpty then bytes else match k.daddr with
    | some a => if pktType bytes == 3 then pktDfull k.core (bytes.getD 1 0) a else bytes
    | none => bytes
  let u := t.padFor (lead.length + bytes.length)
  if t.cfg.fill && (t.full || decide (traceBytes < u.written + lead.length + bytes.length)) then
    { t with full := true, state := if t.state = .tracing then .stopping else t.state }
  else
    let u := u.put (lead ++ bytes)
    let u := u.modEncoder k.core (fun e => { e with
      block := if pktType k.bytes == 9 && lead.isEmpty && !isFull then e.block else blk,
      landFull := (e.landFull || isFull || !lead.isEmpty) && k.daddr.isNone })
    if u.cfg.fill && u.written == traceBytes then
      { u with full := true, state := if u.state = .tracing then .stopping else u.state }
    else u

/-- The landing takes the oldest waiting packet. -/
def Trace.drainOne (t : Trace) (ns : Nat) : Trace :=
  match t.queue with
  | [] => t
  | k :: r => { t with queue := r }.land ns k

/-- The landing takes every waiting packet. -/
def Trace.drainAll (t : Trace) (ns : Nat) : Trace :=
  t.queue.foldl (fun t k => t.land ns k) { t with queue := [] }

/-! ### The encoders' FIFOs -/

/-- Bytes of a core's FIFO in use. -/
def Trace.fifoUsed (t : Trace) (c : Nat) : Nat :=
  ((t.queue.filter (fun k => k.core == c)).map (fun k => k.bytes.length)).sum

/-- A packet enters its core's FIFO; while packets have been lost, or where it does not fit, it is dropped and counted
(R472). With FILL and a full landing it is discarded uncounted. -/
def Trace.emit (t : Trace) (c ref : Nat) (daddr : Option Nat) (bs : List Byte) : Trace :=
  if t.cfg.fill && t.full then t
  else if (t.encoder c).lost ≠ 0 ∨ traceFifo < t.fifoUsed c + bs.length then
    { t.modEncoder c (fun e => { e with lost := satTo 16 (e.lost + 1) }) with overflows := satTo 16 (t.overflows + 1) }
  else { t with queue := t.queue ++ [{ core := c, ref := ref, daddr := daddr, bytes := bs }] }

/-- IFULL and the TIME directly after it (R468); it reports a step of the time base where one is to be reported. -/
def Trace.emitFull (t : Trace) (ns c addr : Nat) : Trace :=
  let step := (t.encoder c).stepSeen
  let t := (t.emit c addr none (pktIfull c addr)).emit c addr none (pktTime c ns t.wraps step)
  t.modEncoder c (fun e => { e with ref := addr, icount := 0, full := false, dfull := true, stepSeen := false })

/-- An instruction packet for the next address: IDELTA, or IFULL where R466 asks for it. -/
def Trace.emitInstr (t : Trace) (ns c addr : Nat) : Trace :=
  let e := t.encoder c
  let d : Int := ((addr : Int) - (e.ref : Int)) / 4
  if e.full || decide (d < -32768) || decide (32767 < d) then t.emitFull ns c addr
  else
    let t := t.emit c e.ref none (pktIdelta c e.icount d)
    let t := if e.stepSeen then t.emit c addr none (pktTime c ns t.wraps true) else t
    t.modEncoder c (fun e => { e with ref := addr, icount := 0, stepSeen := false })

/-! ### Starting and stopping -/

/-- Change the state of the trace: an EVENT packet for every core traced. -/
def State.traceTo (s : State) (st : TraceState) (src : Nat) : State :=
  if s.trace.state = st then s
  else
    let cores := s.tracedCores
    s.modTrace (fun t => cores.foldl (fun t c => t.emit c (t.encoder c).ref none (pktEvent c st.code src))
      { t with state := st })

/-- Tracing begins: every core emits IFULL and TIME, at once where the address of its next instruction is known. -/
def State.traceBegin (s : State) (src : Nat) : State :=
  let s := s.traceTo .tracing src
  let cores := s.tracedCores
  let ns := s.time.ns
  s.modTrace (fun t => cores.foldl (fun t c =>
    let t := t.modEncoder c (fun e => { e with full := true, dfull := true, icount := 0, stepSeen := false })
    match (t.encoder c).nextAddr with
    | some a => t.emitFull ns c a
    | none => t) t)

/-- An event of a source: the start mask is judged in ARMED, the stop mask in TRACING (R470). -/
def State.traceEvent (s : State) (bit : Nat) : State :=
  match s.trace.state with
  | .armed => if bitOf s.trace.cfg.startMask bit then s.traceBegin bit else s
  | .tracing => if bitOf s.trace.cfg.stopMask bit then s.traceTo .stopping bit else s
  | _ => s

/-- An entry of the decision log of H1 (Table 6-6), which is also event source 6. -/
def State.logDecision (s : State) (kind : String) (unit value : Nat) : State :=
  (s.modDev (fun d => { d with log := d.log ++ [{ kind := kind, unit := unit, value := value }] })).traceEvent 6

/-- A gap begins on a core: the instructions retired since the last packet, then GAP (R471). -/
def State.traceGap (s : State) (c cause : Nat) : State :=
  let e := s.encoder c
  let s := if s.trace.state = .tracing ∧ c ∈ s.tracedCores ∧ ¬ e.gap then
      s.modTrace (fun t =>
        let t := if e.icount = 0 then t else t.emitInstr s.time.ns c (e.nextAddr.getD e.ref)
        t.emit c (t.encoder c).ref none (pktGap c s.time.ns t.wraps cause))
    else s
  s.modEncoder c (fun e => { e with gap := true })

/-- A core wakes from a gap at an address: IFULL then TIME (R471). -/
def State.traceWake (s : State) (c addr : Nat) : State :=
  let s := s.modEncoder c (fun e => { e with gap := false, nextAddr := some addr, full := true })
  if s.trace.state = .tracing ∧ c ∈ s.tracedCores then s.modTrace (fun t => t.emitFull s.time.ns c addr) else s

/-- A control-complex restart or a reset zeroes the landing and the encoders and returns the trace to IDLE with the
reset values of Table 19-2 (R474). -/
def State.traceReset (s : State) : State := { s with trace := Trace.init }

end Sys2Proof.Machine
end

