-- ==== Sys2Proof/Machine/Flags.lean ====
section
/-!
DEFINITION. Status: MSI-X vectors, DEVICE_EVENTS, the device mode, PASTURE_EVENTS and pasture states, and the writing of
completions. Every flag the host can see is raised through these.
-/

namespace Sys2Proof.Machine

open Sys2Proof

/-! ### Codes -/

def Mode.code : Mode → Nat
  | .off => 0 | .boot => 1 | .minimal => 2 | .service => 3 | .emulate => 4 | .hold => 5 | .recover => 6 | .erase => 7

def PState.code : PState → Nat
  | .empty => 0 | .loading => 1 | .loaded => 2 | .running => 3 | .stepping => 4 | .frozen => 5 | .recovering => 6
  | .draining => 7 | .faulted => 8

def RunMode.code : RunMode → Nat
  | .free => 0 | .count => 1 | .step => 2 | .toTrigger => 3 | .extclk => 4 | .replay => 5

/-- A pasture that evaluates (R25). -/
def PState.evaluates : PState → Bool
  | .running | .stepping | .recovering => true
  | _ => false

def PState.runs : PState → Bool
  | .running | .stepping => true
  | _ => false

/-! ### Vectors (R311, R367, R368) -/

def State.msix (s : State) (v : Nat) : Msix := tget s.host.msix Msix.init v
def State.modMsix (s : State) (v : Nat) (f : Msix → Msix) : State :=
  s.modHost (fun h => { h with msix := tmod h.msix Msix.init v f })

/-- The message of a vector: a write of its Message Data to its Message Address (R311, PCIe 5.0). -/
def State.msiOut (s : State) (v : Nat) : State := s.send (.msi v (s.msix v).addr (s.msix v).data)

/-- A vector whose message is held back: its own mask, Function Mask, or MSI-X not enabled. -/
def State.msixHeld (s : State) (v : Nat) : Bool := (s.msix v).masked || s.host.msixMask || !s.host.msixOn

/-- Raise a vector. From a device reset until BOOT ends nothing is raised; a masked vector, and in D3hot every vector,
is kept pending, and from D3hot PME is signalled. -/
def State.raiseVector (s : State) (v : Nat) : State :=
  if s.dev.mode = .boot ∨ s.dev.mode = .off then s
  else if s.host.d3hot then (s.modMsix v (fun m => { m with pending := true })).send .pme
  else if s.msixHeld v then s.modMsix v (fun m => { m with pending := true })
  else s.msiOut v

/-- Send the held message of a pending vector that is not masked. -/
def State.flushVector (s : State) (v : Nat) : State :=
  if (s.msix v).pending ∧ ¬ s.msixHeld v ∧ ¬ s.host.d3hot then (s.modMsix v (fun m => { m with pending := false })).msiOut v
  else s

/-! ### DEVICE_EVENTS (Table 11-5) and the mode (R25–R27) -/

/-- Bits of DEVICE_EVENTS. -/
def evModeChange : Nat := 0
def evCcRestart : Nat := 1
def evCcReady : Nat := 2
def evCrHalt : Nat := 3
def evBadAccess : Nat := 4
def evSupply : Nat := 5
def evThermal : Nat := 6
def evTime : Nat := 7
def evLink : Nat := 8

/-- Set a bit of DEVICE_EVENTS; a bit that passes from 0 to 1 raises vector 0 and is event source 5 of the trace. -/
def State.devEvent (s : State) (bit : Nat) : State :=
  if s.dev.events.getLsbD bit then s
  else ((s.modDev (fun d => { d with events := d.events ||| BitVec.ofNat 9 (2 ^ bit) })).raiseVector 0).traceEvent 5

/-- Change the mode: PREV_MODE, MODE_CHANGES and the event bit follow, and every change raises vector 0 (R26). -/
def State.setMode (s : State) (m : Mode) : State :=
  if s.dev.mode = m then s
  else
    let old := s.dev.events.getLsbD evModeChange
    let s := (s.modDev (fun d => { d with
      mode := m, prevMode := d.mode, modeChanges := wrapTo 16 (d.modeChanges + 1),
      events := d.events ||| BitVec.ofNat 9 (2 ^ evModeChange) })).raiseVector 0
    if old then s else s.traceEvent 5

/-- Any pasture in a state. -/
def State.anyPas (s : State) (f : PState → Bool) : Bool := s.pastures.any (fun e => f e.2.stat.state)

/-- The mode follows the pastures between SERVICE and EMULATE (Table 1-8). A LOADED or FROZEN pasture that enters RECOVERING in SERVICE leaves
the device there: the second sentence of R25 would make that EMULATE, its third and Table 1-8 give no such change (DESIGN CHOICE, log 69). -/
def State.settleMode (s : State) : State :=
  if s.dev.mode = .service ∧ s.anyPas PState.runs then s.setMode .emulate
  else if s.dev.mode = .emulate ∧ ¬ s.anyPas PState.evaluates then s.setMode .service
  else s

/-! ### Completions (R303, R304) -/

/-- 1 − the pass parity of completion index `i`. -/
def phaseBit (i log2 : Nat) : Nat := 1 - (i / 2 ^ log2) % 2

/-- The IV of R300: ring, direction, two zero bytes, and the sequence number. -/
def cmdIv (ring dir seq : Nat) : List Byte := [BitVec.ofNat 8 ring, BitVec.ofNat 8 dir, 0, 0] ++ beBytes 8 seq

/-- The first 24 bytes of a completion entry (Table 11-10). -/
def cplHead (g : Prog) (status phase len : Nat) : List Byte :=
  leBytes 2 g.opcode ++ leBytes 2 status ++ leBytes 4 g.tag ++ leBytes 1 g.pasture ++ leBytes 1 g.ring
    ++ leBytes 1 (phase + 2 * b2n g.session) ++ leBytes 1 0 ++ leBytes 4 len ++ leBytes 8 g.seq

/-- Whether a host access to [a, a + n) meets a PCIe error. -/
def State.hostBad (s : State) (a n : Nat) : Bool :=
  s.host.badRanges.any (fun r => decide (a < r.1 + r.2) && decide (r.1 < a + n))

/-- Bits of the AER Uncorrectable Error Status that the device logs as a requester: Poisoned TLP Received and Completion Timeout; a
completion with UR or CA logs none there (PCIe 5.0; PRESUMED, log 65). -/
def aerBits (k : Nat) : BitVec 32 := match k with
  | 0 => BitVec.ofNat 32 (2 ^ 12)
  | 1 => BitVec.ofNat 32 (2 ^ 14)
  | _ => 0

/-- A memory request outside BAR0 is an Unsupported Request, which AER logs too (R366; the bit PRESUMED, log 65). -/
def State.logUr (s : State) : State := s.modHost (fun h => { h with aer := h.aer ||| BitVec.ofNat 32 (2 ^ 20) })

/-- An access that met a PCIe error is logged in AER (R366); of which kind the error is, is a free value. -/
def State.logAer (s : State) : State :=
  let (k, s) := s.draw 2
  s.modHost (fun h => { h with aer := h.aer ||| aerBits k })

def State.hostWrite (s : State) (a : Nat) (bs : List Byte) : State :=
  s.modHost (fun h => { h with mem := memWrite h.mem a bs })

def State.hostRead (s : State) (a n : Nat) : List Byte := memRead s.host.mem a n

/-- Commands of a ring in progress. -/
def State.inProgress (s : State) (ring : Nat) : Nat := (s.host.prog.filter (fun g => g.ring == ring)).length

/-- A ring whose ENABLE is clear and which has nothing left in progress loses its binding (R293). -/
def State.quiesceRing (s : State) (ring : Nat) : State :=
  if (s.ring ring).enable ∨ s.inProgress ring ≠ 0 then s else s.modRing ring (fun r => { r with bound := none })

/-- Sessions that neither a ring nor a pasture keeps end (R417). -/
def State.sweepSessions (s : State) : State :=
  s.modHost (fun h => { h with sessions := h.sessions.filter (fun x =>
    h.rings.any (fun r => (r.2.bound.map Binding.sid) == some x.sid) ||
    s.pastures.any (fun p => (p.2.stat.state != .empty) && p.2.comp.sid == x.sid)) })

/-- Write the entry of a completion whose result has been written, advance CPL_TAIL and raise the ring's vector. -/
def State.putEntry (s : State) (g : Prog) (status len : Nat) (detail ctag : List Byte) : State :=
  let r := s.ring g.ring
  let entry := cplHead g status (phaseBit r.cplTail r.cplLog2) len ++ padTo 24 detail ++ padTo 16 ctag
  let s := s.hostWrite (r.cplBase + 64 * (r.cplTail % 2 ^ r.cplLog2)) entry
  let s := s.modRing g.ring (fun r => { r with cplTail := wrapTo 32 (r.cplTail + 1) })
  if g.noIrq then s else s.raiseVector (1 + g.ring)

/-- Write a completion now: the result first, then the entry; a PCIe error on the result makes the status 0x060E
(R305). -/
def State.writeCpl (s : State) (j : CplJob) : State :=
  let g := j.prog
  let bad := !j.result.isEmpty && s.hostBad j.addr j.result.length
  let s := if bad then s.logAer else s
  let status := if bad then 0x060E else j.status
  let detail := if bad then List.replicate 24 0 else padTo 24 j.detail
  let result := if bad then [] else j.result
  let r := s.ring g.ring
  let head := cplHead g status (phaseBit r.cplTail r.cplLog2) result.length
  let inside := if j.sealResult then result else []
  let (ct, tag) := if g.session then gcmSeal g.key (cmdIv g.ring 1 g.seq) head (detail ++ inside)
    else (detail ++ inside, [])
  let s := if result.isEmpty then s
    else s.hostWrite j.addr (if j.sealResult then ct.drop 24 else result)
  s.putEntry g status result.length (ct.take 24) tag

/-- A command of `prog` leaves it. -/
def State.dropProg (s : State) (g : Prog) : State :=
  s.modHost (fun h => { h with prog := h.prog.filter (fun x => !(x.ring == g.ring && x.seq == g.seq)) })

/-- Complete a command in progress: discarded after a reset of the function (R367), held in D3hot (R368) and during a restart of the control
complex (R309), else written; then the ring may become quiesced. -/
def State.finish (s : State) (j : CplJob) : State :=
  if ¬ j.prog.live then ((s.dropProg j.prog).quiesceRing j.prog.ring).sweepSessions
  else if s.host.d3hot then
    (s.modHost (fun h => { h with cplWait := h.cplWait ++ [j] })).send .pme
  else if s.dev.restarting then s.modHost (fun h => { h with cplWait := h.cplWait ++ [j] })
  else (((s.writeCpl j).dropProg j.prog).quiesceRing j.prog.ring).sweepSessions

/-- A completion without DETAIL or result. -/
def plainJob (g : Prog) (status : Nat) (detail : List Byte) : CplJob :=
  { prog := g, status := status, detail := detail, addr := 0, result := [], sealResult := true }

/-- The completions held are written, once nothing holds them any more. -/
def State.flushCpl (s : State) : State :=
  if s.host.d3hot ∨ s.dev.restarting then s
  else s.host.cplWait.foldl (fun s j => s.finish j) (s.modHost (fun h => { h with cplWait := [] }))

/-- Complete every waiting command of an opcode that names a pasture. -/
def State.finishAll (s : State) (opcode pasture status : Nat) : State :=
  (s.host.prog.filter (fun g => g.opcode == opcode && g.pasture == pasture &&
    !(s.host.cplWait.any (fun j => j.prog == g)))).foldl
      (fun s g => s.finish (plainJob g status [])) s

/-! ### Pasture events and states (R185, R186, R208) -/

def pevState : Nat := 0
def pevStopped : Nat := 1
def pevAssert : Nat := 2
def pevOverrun : Nat := 3
def pevFault : Nat := 4
def pevRecovered : Nat := 5
def pevSupply : Nat := 6
def pevJoin : Nat := 7
def pevExtWait : Nat := 8

/-- Set a bit of PASTURE_EVENTS; a bit that passes from 0 to 1 raises vector 65 + p. -/
def State.pasEvent (s : State) (p bit : Nat) : State :=
  if (s.pas p).stat.events.getLsbD bit then s
  else (s.modStat p (fun t => { t with events := t.events ||| BitVec.ofNat 9 (2 ^ bit) })).raiseVector (65 + p)

/-- Every slot of the DAT statistics clears when a pasture enters LOADED or EMPTY (R335). -/
def State.clearDat (s : State) : State := s.modNoc (fun n => { n with slotsUsed := 0, overflow := false, slots := [] })

/-- Move a pasture to a state: FREEZE_CAUSE and FREEZE_MID go with FROZEN, STATE_CHANGE is raised, a waiting FREEZE
completes at FROZEN, FAULTED or DRAINING (Table 7-3), and the device mode follows. -/
def State.setPState (s : State) (p : Nat) (st : PState) : State :=
  if s.pstate p = st then s
  else
    let s := s.modStat p (fun t => { t with
      state := st,
      freezeCause := if t.state = .frozen then 0 else t.freezeCause,
      freezeMid := if t.state = .frozen then false else t.freezeMid })
    let s := s.pasEvent p pevState
    let s := match st with
      | .frozen => s.finishAll 0x0302 p 0
      | .faulted | .draining => s.finishAll 0x0302 p 0x0201
      | .loaded | .empty => s.clearDat
      | _ => s
    s.settleMode

/-- LAST_STATUS. -/
def State.setLastStatus (s : State) (p status : Nat) : State := s.modStat p (fun t => { t with lastStatus := status })

/-- Enter FROZEN at a held barrier with the cause of the stop (Table 7-8). -/
def State.freezeAt (s : State) (p cause : Nat) : State :=
  let s := s.setPState p .frozen
  let s := s.modStat p (fun t => { t with freezeCause := cause, freezeMid := false })
  s.pasEvent p pevStopped

end Sys2Proof.Machine
end

