-- ==== Sys2Proof/Machine/Operands.lean ====
section
/-!
DEFINITION. Operand forms: the fields of a BP instruction (Table 3-3), of a side word (Tables 3-5 to 3-8) and of a channel
map entry (Table 4-2), and the fields of a service packet's header (Table 12-4).
-/

namespace Sys2Proof.Machine

open Sys2Proof

/-! ### BP instructions (R75, Table 3-3) -/

structure BpInstr where
  op   : Nat
  tt   : Nat
  a    : Nat
  b    : Nat
  c    : Nat
  d    : Nat
  dst  : Nat
  xsel : Nat
  xdst : Nat
deriving DecidableEq, Repr

def decodeBp (w : Nat) : BpInstr :=
  { op := bitsOf w 75 5, tt := bitsOf w 59 16, a := bitsOf w 50 9, b := bitsOf w 41 9, c := bitsOf w 32 9,
    d := bitsOf w 23 9, dst := bitsOf w 14 9, xsel := bitsOf w 6 8, xdst := bitsOf w 0 6 }

/-- Op values (Table 3-4). -/
def opNop : Nat := 0x00
def opEval : Nat := 0x01
def opEvals : Nat := 0x02
def opEvale : Nat := 0x03
def opCheck : Nat := 0x05
def opCopy : Nat := 0x06
def opXonly : Nat := 0x08

/-! ### Side words (R80, Table 3-5) -/

/-- A scratchpad field (Table 3-6). -/
structure SpField where
  sop : Nat
  spx : Nat
  wid : Nat
  ag  : Nat
  dg  : Nat
  rg  : Nat
  res : Nat
deriving DecidableEq, Repr

def decodeSp (w : Nat) : SpField :=
  { sop := bitsOf w 21 3, spx := bitsOf w 18 3, wid := bitsOf w 16 2, ag := bitsOf w 12 4, dg := bitsOf w 8 4,
    rg := bitsOf w 4 4, res := bitsOf w 0 4 }

/-- The operation of SOP; `none` for none and for the reserved codes. -/
def SpField.kind (f : SpField) : Option SpOp :=
  match f.sop with
  | 1 => some .rd
  | 2 => some .wr
  | 3 => some .set
  | 4 => some .clr
  | 5 => some .wide
  | _ => none

def SpOp.writes : SpOp → Bool
  | .wr | .set | .clr => true
  | _ => false

/-- A channel field (Table 3-7). -/
structure ChField where
  v   : Bool
  ep  : Nat
  g   : Nat
  res : Nat
deriving DecidableEq, Repr

def decodeCh (w : Nat) : ChField := { v := bitOf w 13, ep := bitsOf w 10 3, g := bitsOf w 6 4, res := bitsOf w 0 6 }

/-- A deep memory field (Table 3-8). -/
structure DmField where
  dop    : Nat
  due    : Nat
  region : Nat
  ag     : Nat
  dg     : Nat
  mg     : Nat
deriving DecidableEq, Repr

def decodeDm (w : Nat) : DmField :=
  { dop := bitsOf w 18 2, due := bitsOf w 16 2, region := bitsOf w 12 4, ag := bitsOf w 8 4, dg := bitsOf w 4 4,
    mg := bitsOf w 0 4 }

def DmField.kind (f : DmField) : Option DmKind :=
  match f.dop with
  | 1 => some .rd
  | 2 => some .wr
  | 3 => some .wrm
  | _ => none

structure SideWord where
  barrier    : Bool
  ring       : Bool
  probe      : Bool
  stallCheck : Bool
  spa        : SpField
  spb        : SpField
  snd0       : ChField
  snd1       : ChField
  rcv0       : ChField
  rcv1       : ChField
  dmf        : DmField
deriving DecidableEq, Repr

def decodeSide (w : Nat) : SideWord :=
  { barrier := bitOf w 127, ring := bitOf w 126, probe := bitOf w 125, stallCheck := bitOf w 124,
    spa := decodeSp (bitsOf w 100 24), spb := decodeSp (bitsOf w 76 24), snd0 := decodeCh (bitsOf w 62 14),
    snd1 := decodeCh (bitsOf w 48 14), rcv0 := decodeCh (bitsOf w 34 14), rcv1 := decodeCh (bitsOf w 20 14),
    dmf := decodeDm (bitsOf w 0 20) }

/-- SPA or SPB; SND0 or SND1; RCV0 or RCV1. -/
def SideWord.sp (w : SideWord) (b : Bool) : SpField := if b then w.spb else w.spa
def SideWord.snd (w : SideWord) (k : Bool) : ChField := if k then w.snd1 else w.snd0
def SideWord.rcv (w : SideWord) (k : Bool) : ChField := if k then w.rcv1 else w.rcv0

/-! ### Channel map entries (R101, Table 4-2) -/

def endKindOf : Nat → Option EndKind
  | 0 => some .fold
  | 1 => some .edge
  | 2 => some .link
  | _ => none

def EndKind.code : EndKind → Nat
  | .fold => 0 | .edge => 1 | .link => 2

/-- The channel an entry declares, with empty FIFOs; `none` where a kind is reserved. -/
def decodeChan (w : Nat) : Option Chan :=
  match endKindOf (bitsOf w 61 3), endKindOf (bitsOf w 45 3) with
  | some sk, some dk => some { Chan.none with
      srcKind := sk, srcId := bitsOf w 48 13, dstKind := dk, dstId := bitsOf w 32 13, count := bitsOf w 16 16 }
  | _, _ => none

end Sys2Proof.Machine
end

