-- ==== Sys2Proof/Machine/PasBase.lean ====
section
/-!
DEFINITION. What every unit needs to know of a pasture: whether its folds run, which of them have arrived, its fault
entry and reports, the undo log, and the tokens it sends over the device tree.
-/

namespace Sys2Proof.Machine

open Sys2Proof

/-- Whether the folds of a pasture take steps: it is RUNNING, STEPPING or RECOVERING and the device is not in HOLD
(R111, R185). While a span chooses the ring of a recovery its folds stand still (Table 10-8). -/
def State.running (s : State) (p : Nat) : Bool :=
  (s.pstate p).evaluates && !(s.pas p).span.choosing && s.dev.mode != .hold && s.dev.mode != .boot && s.dev.mode != .off && s.dev.mode != .erase

/-- No debug override holds an island in early release (R99, R454). -/
def State.islandReady (s : State) (i : Nat) : Bool := !(s.dev.early.any (fun e => e.1 == i))

/-- The boundaries of a domain are ready: it is ON, its wake is over, and no override holds its island (R99). -/
def State.domReady (s : State) (d : Nat) : Bool :=
  let x := s.domain d
  x.state == .on && !x.waking && s.islandReady d

/-- The boundaries of a fold's island are ready. -/
def State.foldReady (s : State) (f : Nat) : Bool := s.domReady f

/-- The boundaries of an edge port, which belongs to the island of its edge region (R106), are ready: the region's domain (index 586 on)
and the island of the same index. -/
def State.edgeReady (s : State) (e : Nat) : Bool := s.domReady (586 + e)

/-- Rings enabled (R265). -/
def State.ringsOn (s : State) (p : Nat) : Bool := (s.pas p).ck.plan.isSome

/-- Whether every fold of a pasture has arrived (R113, R114). -/
def State.allArrived (s : State) (p : Nat) : Bool := (s.pasFolds p).all (fun f => (s.fold f).seq.arrived)

/-- The die numbers a pasture spans. -/
def State.pasDies (s : State) (p : Nat) : List Nat :=
  numsWhere 4 (fun d => (s.pas p).comp.pairs.any (fun q => dieOfPair q == d))

/-- The die whose step clock the root of a pasture's barrier runs at: the die of a row or die node, C0 for the package node (R112). -/
def State.rootDie (s : State) (p : Nat) : Nat :=
  if (s.pas p).comp.rootLevel = 3 then 0 else ((s.pasDies p).head?).getD 0

/-- Whether a pasture spans devices, SPAN being set in its image (JOIN is 0 only without it, R204), and whether this device is its root
(R117). -/
def State.spanning (s : State) (p : Nat) : Bool := decide ((s.pas p).stat.join ≠ 0)
def State.isRoot (s : State) (p : Nat) : Bool := (s.pas p).comp.parent.isNone

/-- The tree ports of a pasture. -/
def State.treePorts (s : State) (p : Nat) : List Nat := (s.pas p).comp.parent.toList ++ (s.pas p).comp.children

/-! ### Ports, links and the blocks that wait to be sent (R339, R346, R350) -/

/-- Codes of Table 13-5. -/
def LaneState.code : LaneState → Nat
  | .down => 0 | .detect => 1 | .train => 2 | .lock => 3 | .cap => 4 | .active => 5 | .refused => 6 | .test => 7
  | .loop => 8

/-- A port takes the least advanced state among its lanes (R350). -/
def State.portState (s : State) (t : Nat) : LaneState :=
  let a := (s.lane (2 * t)).state
  let b := (s.lane (2 * t + 1)).state
  if a.code ≤ b.code then a else b

/-- The ports of the link of a port (R339). -/
def State.linkPorts (s : State) (t : Nat) : List Nat :=
  let low := (s.port t).linkLow
  (List.range (2 ^ (s.port t).bond)).map (fun i => low + i)

/-- Whether a port belongs to a link that is ACTIVE. -/
def State.linkActive (s : State) (t : Nat) : Bool :=
  (s.linkPorts t).contains t && (s.linkPorts t).all (fun q => s.portState q == .active)

/-- One sequenced block with its data blocks waits to be sent; it takes its CSEQ when it is. -/
def State.enqueue (s : State) (link ctype body : Nat) (data : List (Nat × List (BitVec 16))) : State :=
  s.modPort link (fun r => { r with wait := r.wait ++ [{ cseq := 0, ctype := ctype, body := body, data := data }] })

/-- Send one sequenced control block on an ACTIVE link, named by its lowest port. `data` are the data blocks of a TAG
group. -/
def State.linkTx (s : State) (link ctype body : Nat) (data : List (Nat × List (BitVec 16))) : State :=
  if s.linkActive link then s.enqueue link ctype body data else s

/-- CTYPE codes (Table 13-2). -/
def ctIdle : Nat := 0x00
def ctSkip : Nat := 0x01
def ctAck : Nat := 0x02
def ctNak : Nat := 0x03
def ctCap : Nat := 0x08
def ctJoin : Nat := 0x09
def ctChancount : Nat := 0x0A
def ctArrive : Nat := 0x10
def ctAssertCount : Nat := 0x11
def ctRelease : Nat := 0x12
def ctFault : Nat := 0x13
def ctUnload : Nat := 0x14
def ctCredit : Nat := 0x20
def ctTag : Nat := 0x30

/-! ### Faults of a pasture -/

/-- The report of PASTURE_FAULT_0 and PASTURE_FAULT_1 (R498). -/
def State.setReport (s : State) (p : Nat) (r : PFault) : State := s.modPas p (fun x => { x with fault := r })

/-- A report that reads F_VALID 0. -/
def PFault.invalid (f : PFault) : PFault := { f with valid := false }

/-- The cause and ecycle of the latest fault (Table 10-12). -/
def State.noteFault (s : State) (p status : Nat) : State :=
  s.modCk p (fun k => { k with cause := status, faultEcy := (s.pas p).stat.ecycle })

/-- The release on its way is no longer; its event has been settled. -/
def PRun.unreleased (r : PRun) : PRun := { r with descent := none, cross := none, event := 0, relTok := none }

/-- Enter FAULTED with a status. F_VALID reads 0 until a report is set (R498); in a span a fault token goes to every tree
neighbour but the one the fault came from (R125, R206). -/
def State.faultPas (s : State) (p status : Nat) (fromPort : Option Nat) : State :=
  let st := s.pstate p
  if st = .empty ∨ st = .draining ∨ st = .faulted ∨ st = .loading then s
  else
    let s := s.noteFault p status
    let s := s.modPas p (fun x => { x with
      fault := x.fault.invalid
      run := { x.run.unreleased with stops := [], holdAt := none, taken := false }
      span := { x.span with choosing := false }
      ck := { x.ck with
        recovery := none, copying := false, hostReq := false,
        currentNo := if x.ck.copying then x.ck.completeNo else x.ck.currentNo } })
    let s := s.setPState p .faulted
    let s := s.setLastStatus p status
    let s := s.pasEvent p pevFault
    if s.spanning p then
      ((s.treePorts p).filter (fun t => some t != fromPort)).foldl
        (fun s t => s.linkTx (s.port t).linkLow ctFault (p + 16 * status) []) s
    else s

/-- A run-time mistake of Table 6-10 with its report: FAULTED, no recovery. -/
def State.faultReported (s : State) (p : Nat) (r : PFault) : State :=
  let st := s.pstate p
  if st = .empty ∨ st = .draining ∨ st = .faulted ∨ st = .loading then s
  else (s.faultPas p r.status none).setReport p r

/-! ### Undo log (R273) -/

/-- Append the pre-write value of a scratchpad word. -/
def State.undoPad (s : State) (p pair key : Nat) (old : BitVec 16) : State :=
  if s.ringsOn p then
    s.modCk p (fun k => { k with
      undo := k.undo ++ [.pad pair key old],
      spUndo := tmod k.spUndo 0 (8 * pair + key / 32768) (· + 1) })
  else s

/-- A marker of a ring later than ecycle `e`. -/
def Undo.opensAfter (e : Nat) : Undo → Bool
  | .marker _ r => decide (e < r)
  | _ => false

/-- Place an entry of ecycle `e`: before the marker of a ring taken since, so that a rollback to that ring, whose state holds the write,
does not undo it (R148, R150, R273, R280). -/
def insertUndo (l : List Undo) (e : Nat) (u : Undo) : List Undo :=
  l.takeWhile (fun x => !(x.opensAfter e)) ++ u :: l.dropWhile (fun x => !(x.opensAfter e))

/-- Enter the pre-write value of an HBM word written by ecycle `e`; the count is that of the newest ring (Table 10-3). -/
def State.undoHbm (s : State) (p e addr : Nat) : State :=
  if s.ringsOn p then
    let old := BitVec.ofNat 64 (leNat (memRead s.hbm addr 8))
    s.modCk p (fun k => { k with
      undo := insertUndo k.undo e (.hbm addr old)
      dmUndo := if k.undo.any (Undo.opensAfter e) then k.dmUndo else k.dmUndo + 1 })
  else s

/-- Write design bytes of HBM word by word, each with its undo entry: the flow gateway's writes, `e` being the
ecycle whose ring they precede or open (the closing ecycle for a take, the one that starts for an admission). -/
def State.writeDesign (s : State) (p e addr : Nat) (bs : List Byte) : State :=
  let first := addr / 8
  let last := (addr + bs.length - 1) / 8
  let s := if bs.isEmpty then s
    else (List.range (last + 1 - first)).foldl (fun s i => s.undoHbm p e (8 * (first + i))) s
  { s with hbm := memWrite s.hbm addr bs }

/-! ### Ingress log (R274) -/

/-- Append to the newest block. Nothing is logged while the pasture replays from the log (R275). -/
def State.logIngress (s : State) (p : Nat) (f : IngressBlock → IngressBlock) : State :=
  if s.ringsOn p then
    s.modCk p (fun k => { k with log := match k.log.reverse with
      | [] => k.log
      | b :: r => (f b :: r).reverse })
  else s

end Sys2Proof.Machine
end

