-- ==== Sys2Proof/Machine/Keys.lean ====
section
/-!
DEFINITION. The keys of a session (R415) and the counter-mode enciphering of flow entries (R214, R418) and of readback data
(R419).
-/

namespace Sys2Proof.Machine

open Sys2Proof

/-- The bytes of an ASCII text. -/
def asciiBytes (t : String) : List Byte := t.toList.map (fun c => BitVec.ofNat 8 c.toNat)

/-- info(l) of R415; SESSION_ID as the 8 bytes that Table 16-4 returns. -/
def State.keyInfo (s : State) (label : String) (sid : Nat) : List Byte :=
  asciiBytes "PM6 " ++ asciiBytes label ++ leBytes 8 sid ++ s.ident.serial

/-- A session that exists. -/
def State.session (s : State) (sid : Nat) : Option Session := s.host.sessions.find? (fun x => x.sid == sid)

def State.sessionPrk (s : State) (sid : Nat) : List Byte := ((s.session sid).map Session.prk).getD []

/-- k_cmd(r): r as 4 bytes, most significant first. -/
def State.kCmd (s : State) (sid r : Nat) : List Byte :=
  hkdfExpand (s.sessionPrk sid) (s.keyInfo "cmd" sid ++ beBytes 4 r) 32
def State.kImg (s : State) (sid : Nat) : List Byte := hkdfExpand (s.sessionPrk sid) (s.keyInfo "img" sid) 32
def State.kBind (s : State) (sid : Nat) : List Byte := hkdfExpand (s.sessionPrk sid) (s.keyInfo "bind" sid) 48
/-- k_flow and k_read of a pasture, with its IMAGE_NONCE. -/
def State.kFlow (s : State) (p : Nat) : List Byte :=
  let c := (s.pas p).comp
  hkdfExpand (s.sessionPrk c.sid) (s.keyInfo "flow" c.sid ++ c.nonce) 32
def State.kRead (s : State) (p : Nat) : List Byte :=
  let c := (s.pas p).comp
  hkdfExpand (s.sessionPrk c.sid) (s.keyInfo "read" c.sid ++ c.nonce) 32

/-- Encipher or decipher an entry of a HOST_IN or HOST_OUT queue (R418). -/
def flowCrypt (key : List Byte) (queue seqNo : Nat) (bs : List Byte) : List Byte :=
  aesCtr key (beBytes 2 (queue / 4) ++ [BitVec.ofNat 8 (queue % 4), 0] ++ beBytes 8 seqNo) 0 bs

/-- The counter block of block `k` of a readback (R419). -/
def readCounter (pasture area readNo offset k : Nat) : List Byte :=
  [BitVec.ofNat 8 pasture, BitVec.ofNat 8 area] ++ beBytes 4 readNo ++ beBytes 10 (offset + 16 * k)

/-- Encipher readback data. -/
def readCrypt (key : List Byte) (pasture area readNo offset : Nat) (bs : List Byte) : List Byte :=
  let ks := aesKeys key
  ((blocks 16 (bs.length / 16 + 1) bs).zipIdx).flatMap (fun b =>
    let z := aesBlock ks ((readCounter pasture area readNo offset b.2).map BitVec.toNat)
    natBytes (xorList (b.1.map BitVec.toNat) z))

end Sys2Proof.Machine
end

