-- ==== Sys2Proof/Machine/Bp.lean ====
section
/-!
DEFINITION. The BP operations (Table 2-2): reads, the truth table, the step bus, port E, port X, and the assertion latch
(R36–R49, R77–R79). A BP operation acts once in its slot, after the words due in the slot have been delivered.
-/

namespace Sys2Proof.Machine

open Sys2Proof

/-! ### The NRF (R39, R49) -/

/-- The cell of an entry of a BP. -/
def nrfKey (bp entry : Nat) : Nat := 512 * bp + entry

/-- What a read in the present slot returns: writes of the slot before are not yet seen (R49). -/
def Fold.read (f : Fold) (bp entry : Nat) : Bool := tget f.nrf.cur false (nrfKey bp entry)

/-- Apply writes to the current cells, in order. -/
def Nrf.commit (n : Nrf) (ws : List NrfWrite) : Nrf :=
  { n with cur := ws.foldl (fun t w => tput t false (nrfKey w.bp w.entry) w.val) n.cur }

/-- Apply writes to the next-value cells, in order. -/
def Nrf.commitNext (n : Nrf) (ws : List NrfWrite) : Nrf :=
  { n with nxt := ws.foldl (fun t w => tput t false (nrfKey w.bp w.entry) w.val) n.nxt }

/-- The value of an entry once the writes of the present slot are seen (R47 PROBE). -/
def Fold.readAfter (f : Fold) (bp entry : Nat) : Bool :=
  tget ((f.nrf.commit f.seq.wr1).commit f.seq.wr0).cur false (nrfKey bp entry)

/-! ### The step bus (R42, R44) -/

/-- Replace one 16-bit group. -/
def putGroup (bus g : Nat) (w : BitVec 16) : Nat :=
  bus - bitsOf bus (16 * g) 16 * 2 ^ (16 * g) + w.toNat * 2 ^ (16 * g)

/-- The step bus of the present slot: BP outputs with the delivered groups in their place. -/
def FoldSeq.bus (q : FoldSeq) : Nat := q.delivered.foldl (fun b d => putGroup b d.1 d.2) q.bpOut

/-- Group `g` of a bus. -/
def busGroup (bus g : Nat) : BitVec 16 := BitVec.ofNat 16 (bitsOf bus (16 * g) 16)

/-! ### The stores -/

def Fold.instrAt (f : Fold) (slot bp : Nat) : BpInstr := decodeBp (tget f.store.instr 0 (256 * slot + bp))
def Fold.sideAt (f : Fold) (slot : Nat) : SideWord := decodeSide (tget f.store.side 0 slot)
def Fold.instrNow (f : Fold) (bp : Nat) : BpInstr := f.instrAt f.seq.slot bp
def Fold.sideNow (f : Fold) : SideWord := f.sideAt f.seq.slot

/-- The BPs whose instruction in a slot is not zero, ascending. A zero word is a NOP. -/
def Fold.bpsAt (f : Fold) (slot : Nat) : List Nat :=
  (f.store.instr.filter (fun e => e.1 / 256 == slot)).map (fun e => e.1 % 256)

/-! ### Evaluation (R36, R77) -/

/-- Index 8d + 4c + 2b + a (R36). -/
def ttIndex (a b c d : Bool) : Nat := 8 * b2n d + 4 * b2n c + 2 * b2n b + b2n a

/-- What an instruction does in its slot: the bit it drives, its port E write of a current or a next cell, and whether it
raises an assertion event. -/
structure BpEffect where
  out   : Bool
  cur   : Option Bool
  next  : Option Bool
  event : Bool
deriving DecidableEq, Repr

/-- Table 2-2, without the import. -/
def bpEval (i : BpInstr) (a b c d : Bool) : BpEffect :=
  let r := bitOf i.tt (ttIndex a b c d)
  if i.op = opEval then { out := r, cur := some r, next := none, event := false }
  else if i.op = opEvals then { out := r, cur := none, next := some r, event := false }
  else if i.op = opEvale then
    let e := bitOf i.tt (ttIndex a b c false)
    { out := e, cur := if d then some e else none, next := none, event := false }
  else if i.op = opCheck then { out := r, cur := none, next := none, event := r }
  else if i.op = opCopy then { out := a, cur := some a, next := none, event := false }
  else { out := false, cur := none, next := none, event := false }

/-- An assertion event enters the latch: the first event in slot order and, within a slot, in BP order stands; the count
saturates at 255 (R79). -/
def AssertLatch.add (l : AssertLatch) (bp slot id : Nat) : AssertLatch :=
  { first := match l.first with
      | none => some (bp, slot, id)
      | some (b, t, i) => if t = slot ∧ bp < b then some (bp, slot, id) else some (b, t, i)
    count := satTo 8 (l.count + 1) }

/-- The assertion events of a slot enter the latch. -/
def AssertLatch.addAll (l : AssertLatch) (slot : Nat) (evs : List (Nat × Nat)) : AssertLatch :=
  evs.foldl (fun l e => l.add e.1 slot e.2) l

/-- Execute BP `bp` of the present slot: NOP drives 0; every other op imports bit xsel of the bus of the slot before into
entry 448 + xdst (R37, R45). Its writes and its event wait for the end of the slot, so that a fold which then stalls writes no cell
(R48). -/
def Fold.execBp (f : Fold) (bp : Nat) : Fold :=
  let i := f.instrNow bp
  let seq := { f.seq with done := bp :: f.seq.done }
  if i.op = opNop then { f with seq := seq }
  else
    let e := bpEval i (f.read bp i.a) (f.read bp i.b) (f.read bp i.c) (f.read bp i.d)
    let imp : NrfWrite := { bp := bp, entry := 448 + i.xdst, val := bitOf f.seq.busPrev i.xsel }
    let cur := match e.cur with
      | some v => [{ bp := bp, entry := i.dst, val := v }]
      | none => []
    let next := match e.next with
      | some v => [{ bp := bp, entry := i.dst, val := v }]
      | none => []
    { f with
      seq := { seq with
        wr0 := seq.wr0 ++ cur ++ [imp]
        nx0 := seq.nx0 ++ next
        ev0 := if e.event then seq.ev0 ++ [(bp, i.dst)] else seq.ev0
        bpOut := if e.out then f.seq.bpOut ||| 2 ^ bp else f.seq.bpOut } }

/-- Execute every BP of the slot that has not executed, in BP order. -/
def Fold.execBps (f : Fold) : Fold :=
  (f.bpsAt f.seq.slot).foldl (fun f b => if f.seq.done.contains b then f else f.execBp b) f

end Sys2Proof.Machine
end

