-- ==== Sys2Proof/Machine/Scratch.lean ====
section
/-!
DEFINITION. Scratchpads: the order of scheduled accesses within a pair, grants, conflicts, and the access at the port
(R127–R133, R144). A granted operation waits at its port until the port performs it.
-/

namespace Sys2Proof.Machine

open Sys2Proof

/-- The key of word `w` of scratchpad `x`. -/
def padKey (x w : Nat) : Nat := 32768 * x + w

def Pair.word (q : Pair) (key : Nat) : BitVec 16 := tget q.pads 0 key
def Pair.setWord (q : Pair) (key : Nat) (v : BitVec 16) : Pair := { q with pads := tput q.pads 0 key v }

/-- Profile codes (R160) and the scratchpad read latency L (Table 3-10). -/
def lp60 : Nat := 0x0600
def lp61 : Nat := 0x0601
def spLatency (profile : Nat) : Nat := if profile = lp61 then 2 else 3

/-- The other fold of a pair. -/
def otherFold (f : Nat) : Nat := if f % 2 = 0 then f + 1 else f - 1

/-- Whether a fold's use map marks a slot for scratchpad `k` (R129). -/
def Fold.marks (f : Fold) (slot k : Nat) : Bool :=
  let w := f.sideAt slot
  (w.spa.kind.isSome && w.spa.spx == k) || (w.spb.kind.isSome && w.spb.spx == k)

/-- Whether a fold has performed every access to `k` that its use map marks in slots 0 to t − 1 of the ecycle, or has
arrived. -/
def State.padBehind (s : State) (g k t : Nat) : Bool :=
  let x := s.fold g
  x.seq.arrived ||
    (List.range t).all (fun u => !(x.marks u k) ||
      ((decide (u < x.seq.slot) || (u == x.seq.slot && x.seq.ended)) &&
        !((s.pair (pairOf g)).port.any (fun a => a.fold == g && a.pad == k && a.slot == u))))

/-- The access an operation field asks for, sampled from the step bus of the slot (R83, R84). -/
def Fold.spAccess (f : Fold) (n : Nat) (b : Bool) (latency : Nat) : Option SpAccess :=
  let w := f.sideNow.sp b
  let bus := f.seq.bus
  match w.kind with
  | none => none
  | some op =>
    let g := (busGroup bus w.ag).toNat % 32768
    let cnt := if op = .wide then 16 else 2 ^ w.wid
    some {
      fold := n, b := b, op := op, pad := w.spx, addr := g - g % cnt, n := cnt,
      data := if op.writes then (List.range cnt).map (fun k => busGroup bus (w.dg + k)) else [],
      slot := f.seq.slot, due := f.seq.slot + latency, rg := if op = .wide then 0 else w.rg }

/-- The operations on pad `k` of the slot in which fold `f` stands that are not yet granted, of both folds, in the order
of R132. `none` where one of them must wait: the order of R129 does not hold, or the other fold is not yet ready at
that slot. -/
def State.padCandidates (s : State) (q k t : Nat) : Option (List SpAccess) :=
  let lat := match (s.fold (2 * q)).pasture with
    | some p => spLatency (s.pas p).comp.profile
    | none => 3
  let side (n : Nat) : Option (List SpAccess) :=
    let x := s.fold n
    if !(x.marks t k) || x.seq.arrived || decide (t < x.seq.slot) || (x.seq.slot == t && x.seq.ended) then some []
    else if x.seq.slot != t || !x.seq.prepared then none
    else
      let one (b : Bool) := match x.spAccess n b lat with
        | some a => if a.pad == k && !(x.seq.issued.contains (b2n b)) then [a] else []
        | none => []
      some (one false ++ one true)
  if s.padBehind (2 * q) k t && s.padBehind (2 * q + 1) k t then
    match side (2 * q), side (2 * q + 1) with
    | some a, some b => some (a ++ b)
    | _, _ => none
  else none

/-- Whether two accesses touch a common word. -/
def SpAccess.meets (a b : SpAccess) : Bool := decide (a.addr < b.addr + b.n) && decide (b.addr < a.addr + a.n)

/-- The write-class operations of a slot that touch a word another one of them touches (R133). -/
def conflicts (l : List SpAccess) : List SpAccess :=
  l.filter (fun a => a.op.writes && l.any (fun b => b.op.writes && (a.fold != b.fold || a.b != b.b) && a.meets b))

/-- Field bits of a SCRATCH_WRITE_CONFLICT report (Table 7-13). -/
def conflictFields (l : List SpAccess) : Nat :=
  (List.range 4).foldl (fun n i =>
    if l.any (fun a => 2 * (a.fold % 2) + b2n a.b == i) then n + 2 ^ i else n) 0

/-- Grant the operations of pad `k` at slot `t` that lie in the row served next: every operation of that row, of either
fold or field, waits at the port. Two write-class operations on one word fault the pasture and neither is performed. -/
def State.grantPad (s : State) (q k t : Nat) : State :=
  match s.padCandidates q k t with
  | none | some [] => s
  | some (a :: r) =>
    let row := (a :: r).filter (fun b => b.addr / 16 == a.addr / 16)
    let bad := conflicts row
    if bad.isEmpty then
      let s := row.foldl (fun s b => s.modSeq b.fold (fun x => { x with issued := b2n b.b :: x.issued })) s
      s.modPair q (fun x => { x with port := x.port ++ row })
    else
      match (s.fold a.fold).pasture with
      | none => s
      | some p => s.faultReported p {
          status := 0x0607, unit := q, slot := t, index := k, fields := conflictFields bad, dir := false,
          valid := true, ecycle := (s.pas p).stat.ecycle }

/-- The words an access leaves in its row, after the reads of the same access (R84, R128). -/
def Pair.write (q : Pair) (a : SpAccess) : Pair :=
  (List.range a.n).foldl (fun q i =>
    let key := padKey a.pad (a.addr + i)
    let old := q.word key
    let d := a.data.getD i 0
    match a.op with
    | .wr => q.setWord key d
    | .set => q.setWord key (old ||| d)
    | .clr => q.setWord key (old &&& ~~~d)
    | _ => q) q

/-- One port access: the oldest waiting operation of pad `k` and every operation of its slot in its row. Reads see the
words before the writes; each read result is due on its groups; each word a write touches enters the undo log. -/
def State.performPad (s : State) (q k : Nat) : State :=
  let port := (s.pair q).port
  match port.find? (fun a => a.pad == k) with
  | none => s
  | some h =>
    let mine (a : SpAccess) : Bool := a.pad == k && a.slot == h.slot && a.addr / 16 == h.addr / 16
    let grp := port.filter mine
    let before := s.pair q
    let s := s.modPair q (fun x => { x with port := x.port.filter (fun a => !(mine a)) })
    let s := grp.foldl (fun s a =>
      if a.op.writes then s
      else s.modSeq a.fold (fun x => { x with spDue := x.spDue ++ (List.range a.n).map (fun i =>
        { slot := a.due, group := a.rg + i, word := before.word (padKey k (a.addr + i)) }) })) s
    grp.foldl (fun s a =>
      if a.op.writes then
        let s := match (s.fold a.fold).pasture with
          | some p => (List.range a.n).foldl (fun (s : State) i =>
              s.undoPad p q (padKey k (a.addr + i)) ((s.pair q).word (padKey k (a.addr + i)))) s
          | none => s
        s.modPair q (fun x => x.write a)
      else s) s

end Sys2Proof.Machine
end

