-- ==== Sys2Proof/Machine/Channels.lean ====
section
/-!
DEFINITION. Elastic channels: ends, FIFOs, paths, the words the fabric and the links give and take, and the words that a
replay serves from the ingress log (R100–R111, R274, R275, R279).
-/

namespace Sys2Proof.Machine

open Sys2Proof

/-- Capacity of a FIFO at an endpoint (R104). -/
def fifoCap : Nat := 16

/-- The channel whose destination, or source, is a fold endpoint. -/
def Pasture.chanInto (p : Pasture) (f ep : Nat) : Option Nat :=
  p.chans.findIdx? (fun c => c.dstKind == .fold && c.dstId == 8 * f + ep)
def Pasture.chanFrom (p : Pasture) (f ep : Nat) : Option Nat :=
  p.chans.findIdx? (fun c => c.srcKind == .fold && c.srcId == 8 * f + ep)

def Pasture.chan (p : Pasture) (c : Nat) : Chan := p.chans.getD c Chan.none

/-- Path capacity of a channel (Table 4-3). Over Urtenlink the path is the link itself and the 1,024-word buffer of the receiving port:
the endpoints hold no further part of it. -/
def Chan.pathCap (c : Chan) : Nat :=
  if c.srcKind = .link ∨ c.dstKind = .link then 0
  else if c.srcKind = .edge ∨ c.dstKind = .edge then 34
  else if dieOfFold (c.srcId / 8) = dieOfFold (c.dstId / 8) then 8
  else 26

/-- The compute die whose step clock moves a channel: that of its source fold, else of its destination fold (DESIGN CHOICE, log 60). -/
def Chan.die (c : Chan) : Nat := if c.srcKind = .fold then dieOfFold (c.srcId / 8) else dieOfFold (c.dstId / 8)

/-- Both boundaries of a channel on this device are ready (R99). -/
def State.endsReady (s : State) (c : Chan) : Bool :=
  let ok (k : EndKind) (id : Nat) : Bool := match k with
    | .fold => s.foldReady (id / 8)
    | .edge => s.edgeReady (id / 4)
    | .link => true
  ok c.srcKind c.srcId && ok c.dstKind c.dstId

/-- The word number of the oldest word between a fold source and the far end (R279). -/
def Chan.headNo (c : Chan) : Nat := c.sent - (c.srcFifo.length + c.path.length)

/-- Remove the first logged word of an edge-port endpoint from a run of blocks. -/
def takeLogged (e : Nat) : List IngressBlock → Option (BitVec 16 × List IngressBlock)
  | [] => none
  | b :: r =>
    match b.words.find? (fun w => w.1 == e) with
    | some w => some (w.2, { b with words := b.words.eraseP (fun x => x.1 == e) } :: r)
    | none => (takeLogged e r).map (fun x => (x.1, b :: x.2))

/-- A REPLAY run takes its inputs from the log alone (R192). -/
def Pasture.replayRun (x : Pasture) : Bool :=
  x.stat.runMode == .replay && (x.stat.state == .running || x.stat.state == .recovering)

/-- Whether a path may move: never in HOLD (R111), and only for a pasture that holds its channels. -/
def State.pathsMove (s : State) (p : Nat) : Bool :=
  s.dev.mode != .hold && match s.pstate p with
  | .loaded | .running | .stepping | .frozen | .recovering => true
  | _ => false

/-- Log a fabric-to-fold word in the newest block. -/
def State.logWord (s : State) (p e : Nat) (w : BitVec 16) : State :=
  s.logIngress p (fun b => { b with words := b.words ++ [(e, w)] })

/-- A fabric-to-fold word leaves for the path: the next word of its channel that the ingress log still holds for the
replay, then, in a REPLAY run, the next word of the REPLAY log, and otherwise the oldest word of the edge-port FIFO; all
but the first are logged as they leave (R192, R274, R275, R278 step 7). -/
def State.takeIngress (s : State) (p c : Nat) : Option (BitVec 16 × State) :=
  let x := s.pas p
  let ch := x.chan c
  match takeLogged ch.srcId x.ck.replayLog with
  | some (w, l) => some (w, s.modCk p (fun k => { k with replayLog := l }))
  | none =>
    if x.replayRun then
      match takeLogged ch.srcId x.ck.runLog with
      | some (w, l) => some (w, (s.modCk p (fun k => { k with runLog := l })).logWord p ch.srcId w)
      | none => none
    else match ch.srcFifo with
      | [] => none
      | w :: r => some (w, (s.modChan p c (fun h => { h with srcFifo := r })).logWord p ch.srcId w)

/-- Credits that a slot's receiver has freed and not yet returned go back in one CREDIT at 16; fewer go back where no other block waits, as
`State.idleCredit` says (R345). -/
def State.returnCredit (s : State) (low key : Nat) : State :=
  let n := tget (s.port low).owed 0 key
  if s.linkActive low ∧ 16 ≤ n then
    (s.modPort low (fun q => { q with owed := tput q.owed 0 key 0 })).linkTx low ctCredit (key + 64 * n) []
  else s

/-- A word that a link brought for a channel leaves its buffer, and its credit is owed (R345). -/
def State.takeLinkWord (s : State) (p c : Nat) : Option (BitVec 16 × State) :=
  let ch := (s.pas p).chan c
  let port := ch.srcId / 16
  let slot := ch.srcId % 16
  let low := (s.port port).linkLow
  let key := 16 * (port - low) + slot
  match tget (s.port low).rxWords [] key with
  | [] => none
  | w :: r =>
    let s := s.modPort low (fun q => { q with rxWords := tput q.rxWords [] key r, owed := tmod q.owed 0 key (· + 1) })
    some (w, s.returnCredit low key)

/-- The oldest word of the source side leaves it. -/
def State.takeSource (s : State) (p c : Nat) : Option (BitVec 16 × State) :=
  let ch := (s.pas p).chan c
  match ch.srcKind with
  | .edge => s.takeIngress p c
  | .link => s.takeLinkWord p c
  | .fold => match ch.srcFifo with
    | [] => none
    | w :: r => some (w, s.modChan p c (fun h => { h with srcFifo := r }))

/-- Stages of a path: one for each word it holds. -/
def Chan.stages (c : Chan) : Nat := c.pathCap

/-- Each word on the path moves on by a stage where the next one is free: `room` is the first stage that is not. -/
def advanceWords : Nat → List (Nat × BitVec 16) → List (Nat × BitVec 16)
  | _, [] => []
  | room, (k, w) :: r =>
    let j := min (k + 1) (room - 1)
    (j, w) :: advanceWords (max j 1) r

/-- The first stage of the path is free, and it has room. -/
def Chan.pathRoom (c : Chan) : Bool := decide (c.path.length < c.pathCap) && c.path.all (fun e => e.1 != 0)

/-- The path takes the oldest word of the source where its first stage is free (R104). -/
def State.pathTake (s : State) (p c : Nat) : State :=
  let ch := (s.pas p).chan c
  if s.pathsMove p && s.endsReady ch && ch.pathRoom then
    match s.takeSource p c with
    | some (w, s) => s.modChan p c (fun h => { h with path := h.path ++ [(0, w)] })
    | none => s
  else s

/-! ### Words to a link (R108, R344, R345) -/

/-- The link and link slot of a channel whose destination is a link endpoint. -/
def State.linkPlace (s : State) (ch : Chan) : Nat × Nat :=
  let port := ch.dstId / 16
  let low := (s.port port).linkLow
  (low, 16 * (port - low) + ch.dstId % 16)

/-- A send over a link joins the words that wait, in the order of sends: those of one step stand in fold order and then endpoint order
(R108). -/
def State.noteSend (s : State) (p c : Nat) : State :=
  if ((s.pas p).chan c).dstKind = .link then
    s.modRun p (fun r =>
      let key (k : Nat) : Nat := ((s.pas p).chan k).srcId
      let before := r.sendNew.takeWhile (fun k => decide (key k ≤ key c))
      { r with sendNew := before ++ c :: r.sendNew.drop before.length })
  else s

/-- The words sent in the present step stand behind those that waited. -/
def State.settleSends (s : State) (p : Nat) : State :=
  if (s.pas p).run.sendNew.isEmpty then s else s.modRun p (fun r => { r with sendQ := r.sendQ ++ r.sendNew, sendNew := [] })

/-- Whether the oldest word of channel `c` may leave on link `low`: it goes there, a credit is held, and the boundary is ready. -/
def State.mayLeave (s : State) (p low c : Nat) : Bool :=
  let ch := (s.pas p).chan c
  let x := s.linkPlace ch
  x.1 == low && !ch.srcFifo.isEmpty && decide (0 < tget (s.port low).credits 1024 x.2) && s.endsReady ch

/-- Take up to `n` words of channel `c` for one data block: each leaves its source FIFO against a credit and its place among the waiting
sends. -/
def State.takeForBlock (s : State) (p low c : Nat) : Nat → List (BitVec 16) × State
  | 0 => ([], s)
  | n + 1 =>
    let ch := (s.pas p).chan c
    let x := s.linkPlace ch
    match ch.srcFifo with
    | w :: r =>
      if s.mayLeave p low c ∧ (s.pas p).run.sendQ.contains c then
        let s := s.modChan p c (fun h => { h with srcFifo := r })
        let s := s.modRun p (fun q => { q with sendQ := q.sendQ.erase c })
        let s := s.modPort low (fun q => { q with credits := tput q.credits 1024 x.2 (tget q.credits 1024 x.2 - 1) })
        let (ws, s) := s.takeForBlock p low c n
        (w :: ws, s)
      else ([], s)
    | [] => ([], s)

/-- Up to `n` data blocks for link `low`: each is built from the oldest waiting word that may leave and up to three further words of its
slot (R345). -/
def State.buildBlocks (s : State) (p low : Nat) : Nat → List (Nat × List (BitVec 16)) × State
  | 0 => ([], s)
  | n + 1 =>
    match (s.pas p).run.sendQ.find? (fun c => s.mayLeave p low c) with
    | none => ([], s)
    | some c =>
      let key := (s.linkPlace ((s.pas p).chan c)).2
      let (ws, s) := s.takeForBlock p low c 4
      let (bs, s) := s.buildBlocks p low n
      ((key, ws) :: bs, s)

/-- BODY of TAGN: entry k holds the slot and the words less one of data block k (Table 13-2). -/
def tagBody (bs : List (Nat × List (BitVec 16))) : Nat :=
  (bs.zipIdx).foldl (fun n e => n + (e.1.1 + 64 * (e.1.2.length - 1)) * 2 ^ (8 * e.2)) 0

/-- A TAG group that waits is not yet sent. -/
def SentBlock.isTag (b : SentBlock) : Bool := decide (ctTag < b.ctype) && decide (b.ctype ≤ ctTag + 4)

/-- Form the next TAG group of a link, of up to four data blocks, from the waiting words of a pasture, where none waits to be sent (R344,
R345). -/
def State.sendGroup (s : State) (p low : Nat) : State :=
  if ¬ s.linkActive low ∨ ¬ s.pathsMove p ∨ (s.port low).wait.any SentBlock.isTag then s
  else
    let (bs, s) := s.buildBlocks p low 4
    if bs.isEmpty then s else s.linkTx low (ctTag + bs.length) (tagBody bs) bs

/-- The links that words of a pasture wait for. -/
def State.sendLinks (s : State) (p : Nat) : List Nat :=
  ((s.pas p).run.sendQ.map (fun c => (s.linkPlace ((s.pas p).chan c)).1)).dedup

/-- The waiting words of a pasture leave on their links as far as credits allow. -/
def State.sendWords (s : State) (p : Nat) : State :=
  (s.sendLinks p).foldl (fun s low => s.sendGroup p low) s

/-- A fold's destination FIFO takes the oldest word of the link buffer where it has room (R104, R108). -/
def State.linkArrives (s : State) (p c : Nat) : State :=
  let ch := (s.pas p).chan c
  if ch.dstKind = .fold ∧ ch.dstFifo.length < fifoCap ∧ s.endsReady ch ∧ s.pathsMove p then
    match s.takeLinkWord p c with
    | some (w, s) => s.modChan p c (fun h => { h with dstFifo := h.dstFifo ++ [w] })
    | none => s
  else s

/-- The oldest word on the path reaches the far end where that end can take it (R104, R107): a fold's or an edge port's
FIFO with room; a word bound for a link leaves the source FIFO for the link, and one that came over a link its buffer. A word that
a replay sends again and the fabric has already taken is discarded at the edge port, and REPLAY with OUT_MODE 1 drops every word
there (R192, R279). Nothing crosses a boundary that is not ready (R99). -/
def State.wordArrives (s : State) (p c : Nat) : State :=
  let ch := (s.pas p).chan c
  if ch.dstKind = .link then (s.settleSends p).sendWords p
  else if ch.srcKind = .link then s.linkArrives p c
  else
  let s := if ch.path.isEmpty then s.pathTake p c else s
  let x := s.pas p
  let ch := x.chan c
  match ch.path with
  | [] => s
  | (_, w) :: r =>
    let drop := fun (h : Chan) => { h with path := r }
    if ¬ s.endsReady ch then s
    else match ch.dstKind with
    | .edge =>
      if ch.headNo < ch.delivered then s.modChan p c drop
      else if x.stat.runMode = .replay ∧ x.run.outMode = 1 then
        s.modChan p c (fun h => { drop h with delivered := h.delivered + 1 })
      else if ch.dstFifo.length < fifoCap then
        s.modChan p c (fun h => { drop h with dstFifo := h.dstFifo ++ [w] })
      else s
    | _ =>
      if ch.dstFifo.length < fifoCap then s.modChan p c (fun h => { drop h with dstFifo := h.dstFifo ++ [w] }) else s

/-- One step of a channel on this device: the word at the last stage reaches the far end, the others move on, and the path takes the
oldest word that stood in the source FIFO before the step. A word that nothing holds up is then available D steps after it was
sent (R105, Table 4-3). `had` says that the source FIFO was not empty before the step. -/
def State.chanStep (s : State) (p c : Nat) (had : Bool) : State :=
  let ch := (s.pas p).chan c
  if ch.srcKind = .link then s.linkArrives p c
  else
  let s := match ch.path with
    | (k, _) :: _ => if k + 1 = ch.stages then s.wordArrives p c else s
    | [] => s
  let s := s.modChan p c (fun h => { h with path := advanceWords h.stages h.path })
  if had || ch.srcKind != .fold then s.pathTake p c else s

/-- A channel word reaches the destination FIFO after its path (R104). -/
def execChannelWordArrival (pasture chan : Nat) (s : State) : Host.Outcome State Fault Refusal :=
  .next (if s.pathsMove pasture && decide (chan < (s.pas pasture).chans.length) then s.wordArrives pasture chan else s)

end Sys2Proof.Machine
end

