-- ==== Sys2Proof/Machine/DeepMem.lean ====
section
/-!
DEFINITION. Deep memory ports: the queue, region checks, delivery slots, and the performing of reads and writes in their
order (R88–R92, R145–R150, R497).
-/

namespace Sys2Proof.Machine

open Sys2Proof

/-- Entries of a port's queue (R145). -/
def dmQueueCap : Nat := 64

/-- The requests that hold an entry of the port's queue: a write that a controller has accepted holds none (R145, R497). -/
def DmPort.entries (d : DmPort) : List DmReq := d.queue.filter (fun r => !r.acc)

/-- A request not yet performed: a write, or a read whose word has not returned. -/
def DmReq.open_ (r : DmReq) : Bool := r.kind != .rd || r.word.isNone

/-- Whether every request of the pasture's earlier ecycles has been performed (R148). -/
def State.dmOrdered (s : State) (p ecycle : Nat) : Bool :=
  (s.pasFolds p).all (fun f => (s.fold f).dm.queue.all (fun r => !(r.open_) || decide (ecycle ≤ r.ecycle)))

/-- What a DMF operation asks for, sampled from the bus of the slot (R89, R91). -/
def Fold.dmRequest (f : Fold) (ecycle base : Nat) : Option DmReq :=
  let w := f.sideNow.dmf
  let bus := f.seq.bus
  match w.kind with
  | none => none
  | some k =>
    let off := (busGroup bus w.ag).toNat + 65536 * (busGroup bus (w.ag + 1)).toNat
    let depth := f.seq.lastSlot + 1
    let u := f.seq.slot + f.store.due.getD w.due 0
    some {
      kind := k, ecycle := ecycle, addr := base + 8 * off, dueSlot := u % depth, dueEcy := ecycle + u / depth,
      group := w.dg
      data := BitVec.ofNat 64 (bitsOf bus (16 * w.dg) 64),
      mask := match k with
        | .wrm => BitVec.ofNat 8 (busGroup bus w.mg).toNat
        | _ => 0xFF
      word := none, acc := false }

/-- Issue the DMF operation of the slot (R89, R90): it enters the queue; outside its region, or on a region that is not
valid, it is not performed and the pasture is FAULTED with 0x0604. -/
def State.dmIssue (s : State) (f p : Nat) : State :=
  let x := s.fold f
  let w := x.sideNow.dmf
  let rg := tget (s.pas p).comp.dmRegions DmRegion.init w.region
  let ecy := (s.pas p).stat.ecycle
  match x.dmRequest ecy rg.base with
  | none => s
  | some r =>
    if rg.valid = false ∨ rg.base + 4096 * rg.pages ≤ r.addr then
      s.faultReported p {
        status := 0x0604, unit := f, slot := x.seq.slot, index := w.region, fields := 0, dir := false, valid := true,
        ecycle := ecy }
    else s.modFold f (fun y => { y with dm := { y.dm with queue := y.dm.queue ++ [r] } })

/-- The word at an HBM address. -/
def State.hbmWord (s : State) (a : Nat) : BitVec 64 := BitVec.ofNat 64 (leNat (memRead s.hbm a 8))

/-- The bytes a masked write leaves. -/
def maskBytes (old data : List Byte) (mask : BitVec 8) : List Byte :=
  (List.range 8).map (fun m => if mask.getLsbD m then data.getD m 0 else old.getD m 0)

/-- Perform a write: its undo entry, which belongs to the ring of the ecycle that issued it, then the bytes its mask selects. -/
def State.dmWrite (s : State) (p : Nat) (r : DmReq) : State :=
  let s := s.undoHbm p r.ecycle r.addr
  let old := memRead s.hbm r.addr 8
  { s with hbm := memWrite s.hbm r.addr (maskBytes old (leBytes 8 r.data.toNat) r.mask) }

/-- The word of a read returns to its entry. A read issued before the ring point of ring K is recorded in K (R150). -/
def State.dmReturn (s : State) (f p i : Nat) : State :=
  match (s.fold f).dm.queue[i]? with
  | none => s
  | some r =>
    let w := s.hbmWord r.addr
    let k := (s.pas p).ck
    let s := s.modFold f (fun y => { y with dm := { y.dm with queue := y.dm.queue.set i { r with word := some w } } })
    if k.copying ∧ r.ecycle < k.kEcycle then
      s.modFold f (fun y => { y with ringK := { y.ringK with reads := y.ringK.reads ++
        [{ slot := r.dueSlot, group := r.group, after := r.dueEcy - k.kEcycle, word := w }] } })
    else s

/-- The oldest write of a port that a controller has accepted, with its place, where its turn has come: every earlier request of the
port and every request of the pasture's earlier ecycles has been performed (R92, R148). -/
def State.dmTurn (s : State) (f p : Nat) : Option (Nat × DmReq) :=
  let q := (s.fold f).dm.queue
  match q.findIdx? (fun r => r.kind != .rd) with
  | some i =>
    match q[i]? with
    | some r => if r.acc ∧ (q.take i).all (fun e => !e.open_) ∧ s.dmOrdered p r.ecycle then some (i, r) else none
    | none => none
  | none => none

/-- The controllers perform the accepted writes of a port whose turn has come, `n` of them at most. -/
def State.dmPerform (s : State) (f p : Nat) : Nat → State
  | 0 => s
  | n + 1 =>
    match s.dmTurn f p with
    | some (i, r) =>
      ((s.dmWrite p r).modFold f (fun y => { y with dm := { y.dm with queue := y.dm.queue.eraseIdx i } })).dmPerform f p n
    | none => s

/-- The controllers perform every accepted write of a pasture whose turn has come; those of an ecycle come before those of the
next, so the folds are gone through once for each ecycle that has a request (R148). -/
def State.dmSettle (s : State) (p : Nat) : State :=
  let folds := s.pasFolds p
  let ecys := (folds.flatMap (fun f => (s.fold f).dm.queue.map DmReq.ecycle)).dedup
  ecys.foldl (fun s _ => folds.foldl (fun s f => s.dmPerform f p (s.fold f).dm.queue.length) s) s

/-- An HBM read word returns to its queue entry (R147), once every earlier request of the port has been performed and every request of
the pasture's earlier ecycles (R92, R148). In HOLD no word comes toward a fold (R111). -/
def execDmWordReturn (fold entry : Nat) (s : State) : Host.Outcome State Fault Refusal :=
  .next (match (s.fold fold).pasture, (s.fold fold).dm.queue[entry]? with
    | some p, some r =>
      if s.dev.mode ≠ .hold ∧ r.kind = .rd ∧ r.word.isNone ∧ ((s.fold fold).dm.queue.take entry).all (fun e => !e.open_) ∧
          s.dmOrdered p r.ecycle then (s.dmReturn fold p entry).dmSettle p
      else s
    | _, _ => s)

/-- A controller accepts the oldest write of a port that none has accepted: its queue entry frees (R145, R497), and it is performed when
its turn comes, at once where nothing is before it (DESIGN CHOICE, log 14). In HOLD ports issue nothing (R150). -/
def execDmWriteAccept (fold : Nat) (s : State) : Host.Outcome State Fault Refusal :=
  let x := s.fold fold
  .next (match x.pasture, x.dm.queue.findIdx? (fun r => r.kind != .rd && !r.acc) with
    | some p, some i =>
      if s.dev.mode = .hold then s
      else (s.modFold fold (fun y => { y with dm := { y.dm with
        queue := y.dm.queue.modify i (fun r => { r with acc := true }) } })).dmSettle p
    | _, _ => s)

/-- Perform every write still in the pasture's queues, in ecycle order and issue order, and drop the reads (R200 step 3,
R278 step 2). -/
def State.dmFlush (s : State) (p : Nat) : State :=
  let folds := s.pasFolds p
  let ecys := ((folds.flatMap (fun f => (s.fold f).dm.queue.map DmReq.ecycle)).dedup).mergeSort (· ≤ ·)
  let s := ecys.foldl (fun s e => folds.foldl (fun s f =>
    ((s.fold f).dm.queue.filter (fun r => r.kind != .rd && r.ecycle == e)).foldl (fun s r => s.dmWrite p r) s) s) s
  folds.foldl (fun s f => s.modFold f (fun y => { y with dm := { y.dm with queue := [] } })) s

end Sys2Proof.Machine
end

