-- ==== Sys2Proof/Machine/Sequencer.lean ====
section
/-!
DEFINITION. The fold sequencer: the words due in a slot, the stall rules, the issue of side-word operations, the end of a
slot, and one meaning for each BP and side-word operation (R42–R49, R81–R93, R109–R113). An operation acts once, in its
slot; whatever of the slot is outstanding when the slot ends is performed then.
-/

namespace Sys2Proof.Machine

open Sys2Proof

/-! ### The present slot -/

/-- The pasture of a fold that is in a slot: its pasture's folds take steps, its island runs, it has neither arrived nor executed its
BARRIER slot, and the guard of a span is over (R99, R118). -/
def State.inSlot (s : State) (f : Nat) : Option Nat :=
  match (s.fold f).pasture with
  | some p =>
    if f < Config.numFolds ∧ s.running p ∧ s.foldReady f ∧ (s.pas p).run.guard = 0 ∧ ¬ (s.fold f).seq.arrived ∧
        ¬ (s.fold f).seq.ended then some p else none
  | none => none

/-- Deep memory words due in the present slot. -/
def State.dmDue (s : State) (f p : Nat) : List DmReq :=
  let x := s.fold f
  x.dm.queue.filter (fun r => r.kind == .rd && r.dueSlot == x.seq.slot && r.dueEcy == (s.pas p).stat.ecycle)

/-- The oldest word for receive `k` of the slot: `none` where the slot has no such receive, `some none` where the FIFO is
empty. -/
def State.rcvWord (s : State) (f p : Nat) (k : Bool) : Option (Option (BitVec 16)) :=
  let r := (s.fold f).sideNow.rcv k
  if r.v then
    match (s.pas p).chanInto f r.ep with
    | some c => some (((s.pas p).chan c).dstFifo.head?)
    | none => some none
  else none

/-- Whether receive `k` holds the slot back. -/
def State.rcvStalls (s : State) (f p : Nat) (k : Bool) : Bool :=
  !((s.fold f).seq.issued.contains (5 + b2n k)) && (s.rcvWord f p k) == some none

def State.sndStalls (s : State) (f p : Nat) (k : Bool) : Bool :=
  let r := (s.fold f).sideNow.snd k
  r.v && !((s.fold f).seq.issued.contains (2 + b2n k)) &&
    match (s.pas p).chanFrom f r.ep with
    | some c => decide (fifoCap ≤ ((s.pas p).chan c).srcFifo.length)
    | none => true

/-- A deep memory word due in the slot has not returned (R147). -/
def State.dmLate (s : State) (f p : Nat) : Bool := (s.dmDue f p).any (fun r => r.word.isNone)

/-- The queue is full at issue; the entries of the words that the slot delivers are free (R145, R146). -/
def State.dmFull (s : State) (f p : Nat) : Bool :=
  let x := s.fold f
  x.sideNow.dmf.kind.isSome && !(x.seq.issued.contains 4) &&
    decide (dmQueueCap + (s.dmDue f p).length ≤ x.dm.entries.length)

/-- A scratchpad read whose word is due in the slot has not been performed (R43, R84). -/
def State.padLate (s : State) (f : Nat) : Bool :=
  (s.pair (pairOf f)).port.any (fun a => a.fold == f && !a.op.writes && a.due == (s.fold f).seq.slot)

/-- A scratchpad operation of the slot is not granted. -/
def Fold.spWaits (x : Fold) (b : Bool) : Bool :=
  (x.sideNow.sp b).kind.isSome && !(x.seq.issued.contains (b2n b))

/-- STALL_CAUSE of the slot: the first unmet condition in the order of R110; 0 where none is unmet. -/
def State.stallCause (s : State) (f p : Nat) : Nat :=
  let x := s.fold f
  if s.rcvStalls f p false || s.rcvStalls f p true then 1
  else if s.dmLate f p || s.padLate f || s.dmFull f p || x.spWaits false || x.spWaits true then 3
  else if s.sndStalls f p false || s.sndStalls f p true then 2
  else 0

/-- Place the words due in the slot on their groups (R42, R81 step 1), once all of them are there. -/
def State.prepare (s : State) (f p : Nat) : State :=
  let x := s.fold f
  if x.seq.prepared || s.rcvStalls f p false || s.rcvStalls f p true || s.dmLate f p || s.padLate f then s
  else
    let w := x.sideNow
    let rcv (k : Bool) : List (Nat × BitVec 16) := match s.rcvWord f p k with
      | some (some v) => [((w.rcv k).g, v)]
      | _ => []
    let sp := (x.seq.spDue.filter (fun d => d.slot == x.seq.slot)).map (fun d => (d.group, d.word))
    let dm := (s.dmDue f p).flatMap (fun r => (List.range 4).map (fun i =>
      (r.group + i, BitVec.ofNat 16 (bitsOf ((r.word.getD 0).toNat) (16 * i) 16))))
    s.modSeq f (fun q => { q with delivered := rcv false ++ rcv true ++ sp ++ dm, prepared := true })

/-- Place the words due and execute every BP of the slot. -/
def State.evaluate (s : State) (f p : Nat) : State :=
  let s := s.prepare f p
  if (s.fold f).seq.prepared then s.modFold f Fold.execBps else s

/-- Record that a fold stalls, with its cause. -/
def State.noteCause (s : State) (f p : Nat) : State := s.modSeq f (fun q => { q with cause := s.stallCause f p })

def State.markIssued (s : State) (f i : Nat) : State :=
  s.modSeq f (fun q => { q with issued := i :: q.issued })

/-! ### Issuing -/

/-- Dequeue the word of receive `k`, which stands on its group. -/
def State.issueRcv (s : State) (f p : Nat) (k : Bool) : State :=
  let r := (s.fold f).sideNow.rcv k
  if r.v && !((s.fold f).seq.issued.contains (5 + b2n k)) then
    match (s.pas p).chanInto f r.ep with
    | some c => (s.modChan p c (fun h => { h with dstFifo := h.dstFifo.tail })).markIssued f (5 + b2n k)
    | none => s
  else s

/-- Enqueue the group of send `k` on its outbound endpoint (R87). -/
def State.issueSnd (s : State) (f p : Nat) (k : Bool) : State :=
  let x := s.fold f
  let r := x.sideNow.snd k
  if r.v && !(x.seq.issued.contains (2 + b2n k)) then
    match (s.pas p).chanFrom f r.ep with
    | some c => ((s.modChan p c (fun h => { h with
        srcFifo := h.srcFifo ++ [busGroup x.seq.bus r.g], sent := h.sent + 1 })).noteSend p c).markIssued f (2 + b2n k)
    | none => s
  else s

/-- Issue the DMF operation of the slot once. -/
def State.issueDm (s : State) (f p : Nat) : State :=
  if (s.fold f).sideNow.dmf.kind.isSome && !((s.fold f).seq.issued.contains 4) then
    (s.markIssued f 4).dmIssue f p
  else s

/-- The probe list's values once the writes of the present slot are seen (R47). -/
def Fold.probeValue (x : Fold) : Nat :=
  (x.store.probes.zipIdx).foldl (fun n e => if x.readAfter e.1.1 e.1.2 then n + 2 ^ e.2 else n) 0

/-- Latch the probe list. -/
def State.latchProbes (s : State) (f : Nat) : State := s.modFold f (fun x => { x with probeLatch := x.probeValue })

/-- The flags of the slot's side word (Table 2-3). -/
def State.issueProbe (s : State) (f : Nat) : State :=
  if (s.fold f).sideNow.probe && !((s.fold f).seq.issued.contains 7) then (s.latchProbes f).markIssued f 7 else s
def State.issueStallCheck (s : State) (f : Nat) : State :=
  if (s.fold f).sideNow.stallCheck && !((s.fold f).seq.issued.contains 8) then
    (s.modSeq f (fun q => { q with stallMark := satTo 24 q.stallSteps })).markIssued f 8
  else s
def State.issueRing (s : State) (f : Nat) : State :=
  if (s.fold f).sideNow.ring && !((s.fold f).seq.issued.contains 9) then
    (s.modSeq f (fun q => { q with stateFinal := true })).markIssued f 9
  else s

/-- A slot is left: writes of the slot before become visible, the step bus is latched for the next import, and the next
slot begins; after the BARRIER slot every write is complete (R45, R49, R50). -/
def Fold.leave (x : Fold) (ecycle : Nat) : Fold :=
  let q := x.seq
  let dm := { x.dm with queue := x.dm.queue.filter (fun r =>
    !(r.kind == .rd && r.dueSlot == q.slot && r.dueEcy == ecycle)) }
  let base := { q with
    cause := 0, busPrev := q.bus, bpOut := 0, delivered := [], done := [], issued := [], prepared := false, nx0 := [],
    ev0 := [], spDue := q.spDue.filter (fun d => d.slot != q.slot) }
  let x := { x with dm := dm, latch := x.latch.addAll q.slot q.ev0 }
  let nrf := (x.nrf.commitNext q.nx0).commit q.wr1
  if q.slot = q.lastSlot then
    { x with nrf := nrf.commit q.wr0, seq := { base with wr1 := [], wr0 := [], ended := true, busPrev := 0 } }
  else { x with nrf := nrf, seq := { base with wr1 := q.wr0, wr0 := [], slot := q.slot + 1 } }

/-- An error event of a store word: FOLD_ECC and FOLD_ECC_LOC (Tables 2-7, 2-8). The error stands until the word is rewritten. -/
def FoldEcc.note (c : FoldEcc) (slot : Nat) (bp : Option Nat) (double byScrub : Bool) : FoldEcc :=
  { c with
    sbe := if double then c.sbe else satTo 16 (c.sbe + 1)
    dbe := if double then satTo 8 (c.dbe + 1) else c.dbe
    inSide := bp.isNone, byScrub := byScrub, errSlot := slot, errBp := bp.getD 0,
    errs := if c.errs.contains (slot, bp, double) then c.errs else c.errs ++ [(slot, bp, double)] }

/-- Fetch checks the slot: each error in it is counted; one bit is corrected in line (R56). -/
def Fold.fetchErrors (x : Fold) : Fold :=
  (x.ecc.errs.filter (fun e => e.1 == x.seq.slot)).foldl (fun x e =>
    { x with ecc := x.ecc.note e.1 e.2.1 e.2.2 false }) x

/-- Whether the slot holds a double-bit error. Its pasture's control fault then waits for the mode to allow it (R30), since otherwise
the fault has stopped the fold. -/
def Fold.slotDead (x : Fold) : Bool := x.ecc.errs.any (fun e => e.1 == x.seq.slot && e.2.2)

/-- A slot fetched with a double-bit error commits no write and issues nothing (R56): its BPs drive 0. -/
def Fold.blank (x : Fold) : Fold := { x with seq := { x.seq with wr0 := [], nx0 := [], ev0 := [], bpOut := 0 } }

/-- The fold leaves its slot, which clears the watchdog counter (R123). -/
def State.leaveSlot (s : State) (f p : Nat) : State :=
  let e := (s.pas p).stat.ecycle
  (s.modFold f (fun x => x.leave e)).modWdog p (fun w => { w with counter := 0, fresh := true })

/-- Execute the rest of a slot whose every condition holds, and leave it (R81, R110). -/
def State.execSlot (s : State) (f p : Nat) : State :=
  let s := s.evaluate f p
  let s := s.modFold f Fold.fetchErrors
  if (s.fold f).slotDead then (s.modFold f Fold.blank).leaveSlot f p
  else
  let s := (s.issueRcv f p false).issueRcv f p true
  let s := (s.issueSnd f p false).issueSnd f p true
  let s := s.issueDm f p
  if ¬ s.running p then s
  else
    (((s.issueProbe f).issueStallCheck f).issueRing f).leaveSlot f p

/-! ### BP operations, one at a time -/

/-- The BP's operation in the present slot, where it is `op` and has not executed: the words due are placed first. A slot
whose words are not there stalls the fold (R48). -/
def bpStep (op fold bp : Nat) (s : State) : State :=
  match s.inSlot fold with
  | none => s
  | some p =>
    if bp < Config.numBps ∧ ((s.fold fold).instrNow bp).op = op ∧ ¬ (s.fold fold).seq.done.contains bp then
      let s := s.prepare fold p
      if (s.fold fold).seq.prepared then s.modFold fold (fun x => x.execBp bp) else s.noteCause fold p
    else s

/-- NOP drives 0 and writes and imports nothing (Table 2-2). -/
def execNop (fold bp : Nat) (s : State) : Host.Outcome State Fault Refusal := .next (bpStep opNop fold bp s)
/-- EVAL (Table 2-2). -/
def execEval (fold bp : Nat) (s : State) : Host.Outcome State Fault Refusal := .next (bpStep opEval fold bp s)
/-- EVALS (Table 2-2). -/
def execEvals (fold bp : Nat) (s : State) : Host.Outcome State Fault Refusal := .next (bpStep opEvals fold bp s)
/-- EVALE (R77). -/
def execEvale (fold bp : Nat) (s : State) : Host.Outcome State Fault Refusal := .next (bpStep opEvale fold bp s)
/-- CHECK (R78). -/
def execCheck (fold bp : Nat) (s : State) : Host.Outcome State Fault Refusal := .next (bpStep opCheck fold bp s)
/-- COPY (Table 2-2). -/
def execCopy (fold bp : Nat) (s : State) : Host.Outcome State Fault Refusal := .next (bpStep opCopy fold bp s)
/-- XONLY performs only the import (R64). -/
def execXonly (fold bp : Nat) (s : State) : Host.Outcome State Fault Refusal := .next (bpStep opXonly fold bp s)

/-! ### Scratchpad operations -/

/-- The operation of SPA or SPB in the present slot, where it is `op`: it is granted when its turn comes, with every
operation of its row (R128, R129, R131, R132); until then the fold stalls. -/
def spStep (op : SpOp) (fold : Nat) (b : Bool) (s : State) : State :=
  match s.inSlot fold with
  | none => s
  | some p =>
    let w := (s.fold fold).sideNow.sp b
    if w.kind = some op ∧ (s.fold fold).spWaits b then
      let s := s.evaluate fold p
      let s := match s.inSlot (otherFold fold) with
        | some p' => if (s.fold (otherFold fold)).seq.slot = (s.fold fold).seq.slot then s.evaluate (otherFold fold) p' else s
        | none => s
      let s := s.grantPad (pairOf fold) w.spx (s.fold fold).seq.slot
      if (s.fold fold).spWaits b then s.noteCause fold p else s
    else s

def execScratchpadRd (fold : Nat) (b : Bool) (s : State) : Host.Outcome State Fault Refusal := .next (spStep .rd fold b s)
def execScratchpadWr (fold : Nat) (b : Bool) (s : State) : Host.Outcome State Fault Refusal := .next (spStep .wr fold b s)
def execScratchpadSet (fold : Nat) (b : Bool) (s : State) : Host.Outcome State Fault Refusal :=
  .next (spStep .set fold b s)
def execScratchpadClr (fold : Nat) (b : Bool) (s : State) : Host.Outcome State Fault Refusal :=
  .next (spStep .clr fold b s)
def execScratchpadWide (fold : Nat) (b : Bool) (s : State) : Host.Outcome State Fault Refusal :=
  .next (spStep .wide fold b s)

/-- The port performs its oldest granted access, in the step after the grant (R128); never in HOLD (R111). -/
def execScratchpadAccess (pair pad : Nat) (s : State) : Host.Outcome State Fault Refusal :=
  .next (if s.dev.mode = .hold then s else s.performPad pair pad)

/-! ### Channel, deep memory and flag operations -/

/-- An issue of the present slot, which waits for every condition of the slot (R110): the slot is evaluated, and where
nothing stalls it the operation is performed. -/
def issueStep (f : Nat) (has : Fold → Bool) (act : State → Nat → State) (s : State) : State :=
  match s.inSlot f with
  | none => s
  | some p =>
    if has (s.fold f) then
      let s := s.evaluate f p
      if s.stallCause f p = 0 then act s p else s.noteCause f p
    else s

/-- A send enqueues its group, stalling while the source FIFO is full (R87, R109). -/
def execChannelSend (fold : Nat) (k : Bool) (s : State) : Host.Outcome State Fault Refusal :=
  .next (issueStep fold (fun x => (x.sideNow.snd k).v) (fun s p => s.issueSnd fold p k) s)

/-- A receive dequeues the oldest word onto its group, stalling while the FIFO is empty (R87, R109). -/
def execChannelReceive (fold : Nat) (k : Bool) (s : State) : Host.Outcome State Fault Refusal :=
  .next (issueStep fold (fun x => (x.sideNow.rcv k).v) (fun s p => s.issueRcv fold p k) s)

/-- A deep memory read is queued for its delivery slot (R91). -/
def execDmRd (fold : Nat) (s : State) : Host.Outcome State Fault Refusal :=
  .next (issueStep fold (fun x => x.sideNow.dmf.kind == some .rd) (fun s p => s.issueDm fold p) s)
/-- A deep memory write of eight bytes is queued (R89). -/
def execDmWr (fold : Nat) (s : State) : Host.Outcome State Fault Refusal :=
  .next (issueStep fold (fun x => x.sideNow.dmf.kind == some .wr) (fun s p => s.issueDm fold p) s)
/-- A deep memory write under a byte mask is queued (R89). -/
def execDmWrm (fold : Nat) (s : State) : Host.Outcome State Fault Refusal :=
  .next (issueStep fold (fun x => x.sideNow.dmf.kind == some .wrm) (fun s p => s.issueDm fold p) s)

/-- At its RING slot the fold signals that its state is final; with no RING slot, at its arrival (R47, R269). -/
def execStateFinal (fold : Nat) (s : State) : Host.Outcome State Fault Refusal :=
  .next (issueStep fold (fun x => x.sideNow.ring) (fun s _ => s.issueRing fold) s)

/-- Whether a slot of the schedule carries PROBE. -/
def Fold.hasProbeSlot (x : Fold) : Bool := (List.range (x.seq.lastSlot + 1)).any (fun t => (x.sideAt t).probe)

/-- The probe latch at the barrier, where no slot carries PROBE (R47, R53 step 1). -/
def State.barrierProbe (s : State) (f : Nat) : State :=
  if (s.fold f).hasProbeSlot then s else s.latchProbes f

/-- The fold latches its probe list at a PROBE slot, or at the barrier when no slot carries PROBE (R47). -/
def execProbeLatch (fold : Nat) (s : State) : Host.Outcome State Fault Refusal :=
  .next (match (s.fold fold).pasture with
    | none => s
    | some p =>
      if s.running p ∧ ((s.fold fold).seq.arrived ∨ (s.fold fold).seq.ended) then s.barrierProbe fold
      else issueStep fold (fun x => x.sideNow.probe) (fun s _ => s.issueProbe fold) s)

/-- The fold copies its stall steps so far into STALL_MARK (R47). -/
def execStallCheck (fold : Nat) (s : State) : Host.Outcome State Fault Refusal :=
  .next (issueStep fold (fun x => x.sideNow.stallCheck) (fun s _ => s.issueStallCheck fold) s)

/-- The present slot of a fold in one step: granted scratchpad operations first, then the slot where nothing stalls it;
otherwise one stall step (R48, R59, R144, R155). -/
def State.foldStep (s : State) (f : Nat) : State :=
  match s.inSlot f with
  | none => s
  | some p =>
    let s := s.evaluate f p
    let c := s.stallCause f p
    if c = 0 then s.execSlot f p
    else
      let x := s.fold f
      let late := s.dmLate f p
      let full := s.dmFull f p
      let sp := c == 3 && !late && !full
      let order := sp && [false, true].any (fun b => x.spWaits b &&
        (s.padCandidates (pairOf f) (x.sideNow.sp b).spx x.seq.slot).isNone)
      let s := s.modFold f (fun x => { x with
        seq := { x.seq with cause := c, stallSteps := x.seq.stallSteps + 1 }
        dm := { x.dm with
          late := if late then satTo 16 (x.dm.late + 1) else x.dm.late
          full := if full then satTo 8 (x.dm.full + 1) else x.dm.full } })
      let s := if late then s.modRun p (fun r => { r with dmLate := r.dmLate + 1 }) else s
      if sp then
        s.modPair (pairOf f) (fun q =>
          if order then { q with orderSt := satTo 16 (q.orderSt + 1) } else { q with rowSt := satTo 16 (q.rowSt + 1) })
      else s

/-- Evaluate the slots of a pair's folds and grant, at each scratchpad, the row that comes next at the lower of the two
slots that still ask for it. -/
def State.grantStep (s : State) (q : Nat) : State :=
  let prep (s : State) (f : Nat) : State := match s.inSlot f with
    | some p => s.evaluate f p
    | none => s
  let s := prep (prep s (2 * q)) (2 * q + 1)
  (List.range 8).foldl (fun (s : State) k =>
    let slots := [2 * q, 2 * q + 1].filterMap (fun f =>
      if (s.inSlot f).isSome && [false, true].any (fun b => (s.fold f).spWaits b && ((s.fold f).sideNow.sp b).spx == k)
      then some (s.fold f).seq.slot else none)
    match slots.min? with
    | some t => s.grantPad q k t
    | none => s) s

/-- One step of the folds of a pair: each port performs what was granted in the step before, then the folds take their
step. -/
def State.pairStep (s : State) (q : Nat) : State :=
  let busy := (List.range 8).filter (fun k => (s.pair q).port.any (fun a => a.pad == k))
  let s := (List.range 8).foldl (fun s k => s.performPad q k) s
  let s := s.modPair q (fun x => { x with busy := busy, served := [] })
  let s := s.grantStep q
  (s.foldStep (2 * q)).foldStep (2 * q + 1)

end Sys2Proof.Machine
end

