-- ==== Sys2Proof/Machine/Flows.lean ====
section
/-!
DEFINITION. Flows: hardware queues, doorbells, the task table and its dependence counters, dispatch, the effects of a run,
and the exchange of the flow gateway at a barrier (R209–R239).
-/

namespace Sys2Proof.Machine

open Sys2Proof

/-! ### Queues (R210–R213) -/

def roleHbm : Nat := 1
def roleHostIn : Nat := 2
def roleHostOut : Nat := 3
def rolePortIn : Nat := 4
def rolePortOut : Nat := 5

/-- The roles whose entries lie in HBM. -/
def Queue.inHbm (q : Queue) : Bool := q.role == roleHbm || q.role == rolePortIn || q.role == rolePortOut

/-- (TAIL − HEAD) mod 2^32. -/
def Queue.count (q : Queue) : Nat := wrapSub 32 q.tail q.head
def Queue.cap (q : Queue) : Nat := 2 ^ q.depthLog2
def Queue.free (q : Queue) : Nat := q.cap - q.count
def Queue.entryBytes (q : Queue) : Nat := 64 * q.units
/-- The address of entry index `i` (R212). -/
def Queue.entryAddr (q : Queue) (i : Nat) : Nat := q.base + (i % q.cap) * q.entryBytes

/-- The pasture that holds a queue (R209). -/
def State.queueOwner (s : State) (q : Nat) : Option Nat := tget s.flow.owners none (q / 4)

/-- The time base now, as ENQ_TIME and TS hold it. -/
def State.ts (s : State) : Nat := s.time.ns % 2 ^ 32

/-- The bin of a waiting time in ns (R238). -/
def waitBin (ns : Nat) : Nat :=
  if ns < 1000 then 0 else if ns < 4000 then 1 else if ns < 16000 then 2 else if ns < 64000 then 3
  else if ns < 256000 then 4 else if ns < 1000000 then 5 else if ns < 4000000 then 6 else 7

/-- An entry enters a queue of HBM: its bytes with ENQ_TIME, TAIL and HIGH_WATER (R213, Table 8-2). -/
def State.pushEntry (s : State) (q : Nat) (bs : List Byte) : State :=
  let d := s.queue q
  let bs := bs.take 4 ++ leBytes 4 s.ts ++ bs.drop 8
  let s := { s with hbm := memWrite s.hbm (d.entryAddr d.tail) bs }
  s.modQueue q (fun d => { d with
    tail := wrapTo 32 (d.tail + 1), highWater := max d.highWater (d.count + 1), passed := d.passed + 1 })

/-- The oldest entry of a queue of HBM leaves it: HEAD and WAIT_HIST. -/
def State.popEntry (s : State) (q : Nat) : List Byte × State :=
  let d := s.queue q
  let bs := memRead s.hbm (d.entryAddr d.head) d.entryBytes
  let bin := waitBin (wrapSub 32 s.ts (fieldAt bs 4 4))
  (bs, s.modQueue q (fun d => { d with
    head := wrapTo 32 (d.head + 1), hist := d.hist.modify bin (fun n => satTo 32 (n + 1)) }))

/-! ### Tasks (R225–R231) -/

/-- The state codes of Table 8-5. -/
def TaskState.code : TaskState → Nat
  | .waiting => 0 | .ready => 1 | .running => 2 | .done => 3 | .parked => 4

def opMove : Nat := 1
def opMoveIn : Nat := 2
def opMoveOut : Nat := 3
def opNotify : Nat := 4
def opFence : Nat := 5

/-- A task that moves messages. -/
def Task.moves (t : Task) : Bool := t.op == opMove || t.op == opMoveIn || t.op == opMoveOut

/-- A READY task joins its pasture's ready list, or its overflow chain where the list is full (R235). -/
def State.makeReady (s : State) (t : Nat) : State :=
  let s := s.modTask t (fun x => { x with tstate := .ready })
  match (s.task t).owner with
  | none => s
  | some p => s.modPFlow p (fun w =>
      if w.ready.length < 256 then
        { w with ready := w.ready ++ [t], readyHigh := max w.readyHigh (w.ready.length + 1) }
      else { w with overflow := w.overflow ++ [t] })

/-- A bit of FLOW_PASTURE_STATUS that passes from 0 to 1 raises the pasture's vector (R239). -/
def State.setEarlySat (s : State) (p : Nat) : State :=
  if (s.pas p).flow.earlySat then s
  else (s.modPFlow p (fun w => { w with earlySat := true })).raiseVector (65 + p)
def State.setHostErr (s : State) (p : Nat) : State :=
  if (s.pas p).flow.hostErr then s
  else (s.modPFlow p (fun w => { w with hostErr := true })).raiseVector (65 + p)

/-- One decrement of a task's counter (R228). -/
def State.taskDec (s : State) (t : Nat) : State :=
  let x := s.task t
  match x.owner with
  | none => s
  | some p =>
    let stray := s.modPFlow p (fun w => { w with stray := satTo 16 (w.stray + 1) })
    match x.tstate with
    | .waiting =>
      let s := s.modTask t (fun x => { x with counter := x.counter - 1 })
      if x.counter ≤ 1 then s.makeReady t else s
    | .done => stray
    | _ =>
      if x.cyclic then
        let s := s.modTask t (fun x => { x with early := satTo 16 (x.early + 1) })
        if x.early = 0xFFFF then s.setEarlySat p else s
      else stray

/-- An event of a queue (R227). -/
def State.queueEvent (s : State) (q : Nat) : State :=
  let d := s.queue q
  if d.notifyEn then s.taskDec d.notifyTask else s

/-- Step 6 of R229. -/
def State.rearm (s : State) (t : Nat) : State :=
  let x := s.task t
  if x.cyclic then
    if x.rearm ≤ x.early then
      (s.modTask t (fun x => { x with early := x.early - x.rearm, counter := 0 })).makeReady t
    else s.modTask t (fun x => { x with counter := x.rearm - x.early, early := 0, tstate := .waiting })
  else s.modTask t (fun x => { x with tstate := .done })

/-- Step 7 of R229. -/
def State.tallyRun (s : State) (t moved ns engine : Nat) : State :=
  s.modTask t (fun x => { x with
    runs := wrapTo 64 (x.runs + 1), moved := wrapTo 64 (x.moved + moved), busyNs := wrapTo 64 (x.busyNs + ns),
    lastEngine := engine })

/-- Unpark a task: steps 6 and 7 of its run, then its source event, judged after the re-arm (R230). -/
def State.unpark (s : State) (t : Nat) : State :=
  let x := s.task t
  let s := s.modTask t (fun x => { x with hostParked := false })
  let s := (s.rearm t).tallyRun t x.parkMoved x.parkNs x.parkEngine
  s.queueEvent x.src

/-- The HEAD of a queue has advanced: every task parked on it as its sink is unparked, but for those a PCIe error parked
(R230), in ascending task order (DESIGN CHOICE, log 61). -/
def State.headAdvanced (s : State) (q : Nat) : State :=
  let parked := s.flow.tasks.filter (fun e => e.2.tstate == .parked && e.2.moves && e.2.dst == q && !e.2.hostParked)
  parked.foldl (fun s e => s.unpark e.1) s

/-! ### Doorbells (R215) -/

/-- The states in which a doorbell of a pasture's queue is taken. -/
def PState.doorbell : PState → Bool
  | .loaded | .running | .stepping | .frozen => true
  | _ => false

/-- Whether a doorbell value moves the index forward and keeps HEAD ≤ TAIL ≤ HEAD + 2^DEPTH_LOG2. -/
def Queue.doorbellOk (d : Queue) (v : Nat) : Bool :=
  if d.role = roleHostIn then
    let c := wrapSub 32 v d.head
    decide (d.count ≤ c) && decide (c ≤ d.cap)
  else if d.role = roleHostOut then decide (wrapSub 32 v d.head ≤ d.count)
  else false

/-- A doorbell write sets TAIL of a HOST_IN queue or HEAD of a HOST_OUT queue; every other write is ignored and counted
(R215). -/
def State.doorbell (s : State) (queue size value : Nat) : State :=
  let d := s.queue queue
  let held : Bool := match s.queueOwner queue with
    | some p => (s.pstate p).doorbell
    | none => false
  if size ≠ 8 ∨ value ≥ 2 ^ 32 ∨ ¬ held ∨ ¬ d.doorbellOk value then
    s.modQueue queue (fun d => { d with dbReject := satTo 16 (d.dbReject + 1) })
  else if d.role = roleHostIn then
    let s := s.modQueue queue (fun d => { d with
      tail := value, highWater := max d.highWater (wrapSub 32 value d.head) })
    if d.count = 0 ∧ value ≠ d.head then s.queueEvent queue else s
  else
    let s := s.modQueue queue (fun d => { d with head := value })
    if value = d.head then s else s.headAdvanced queue

/-! ### The take (R218, R219, R221) -/

/-- The address of a flow port's window. -/
def State.windowAddr (s : State) (p : Nat) (f : FlowPort) : Nat :=
  (tget (s.pas p).comp.dmRegions DmRegion.init f.region).base + f.window

def State.modFlowPort (s : State) (p : Nat) (f : FlowPort) (g : FlowPort → FlowPort) : State :=
  s.modPFlow p (fun w => { w with ports := w.ports.map (fun x => if x.port = f.port then g x else x) })

def State.portRole (s : State) (f : FlowPort) : Nat := (s.queue f.queue).role

/-- The flow ports of a role, in ascending port order. -/
def State.portsOf (s : State) (p role : Nat) : List FlowPort :=
  ((s.pas p).flow.ports.filter (fun f => s.portRole f == role)).mergeSort (fun a b => a.port ≤ b.port)

/-- A flow port whose counts differ by more than SLOTS (R221). -/
def State.portFault (s : State) (p : Nat) (f : FlowPort) (take : Bool) : State :=
  s.faultReported p { status := 0x0609, unit := f.port, slot := 0, index := 0, fields := 0, dir := take, valid := true,
                      ecycle := (s.pas p).stat.ecycle }

/-- The address of slot `m mod SLOTS` of a window. -/
def slotAddr (win slots entry m : Nat) : Nat := win + 64 + (m % slots) * entry

/-- Append messages RELEASED + i to the queue, `n` of them: a message already appended is passed over (R279), REPLAY with
OUT_MODE 1 drops it (R192); `false` where the queue has no room. -/
def State.takeMsgs (s : State) (p : Nat) (f : FlowPort) (win m : Nat) : Nat → State × Bool
  | 0 => (s, true)
  | n + 1 =>
    let d := s.queue f.queue
    let x := s.pas p
    let appended := ((x.flow.ports.find? (fun g => g.port == f.port)).map FlowPort.appended).getD 0
    let next := (s.modFlowPort p f (fun g => { g with appended := m + 1 }))
    if m < appended then s.takeMsgs p f win (m + 1) n
    else if x.stat.runMode = .replay ∧ x.run.outMode = 1 then next.takeMsgs p f win (m + 1) n
    else if d.free = 0 then (s, false)
    else
      let bs := memRead s.hbm (slotAddr win f.slots d.entryBytes m) d.entryBytes
      let bs := bs.take 8 ++ leBytes 8 (x.stat.ecycle - 1) ++ bs.drop 16
      let s := next.pushEntry f.queue bs
      let s := if d.count = 0 then s.queueEvent f.queue else s
      s.takeMsgs p f win (m + 1) n

/-- The take of one PORT_OUT port; `false` where it waits for room or has faulted the pasture. -/
def State.takePort (s : State) (p : Nat) (f : FlowPort) : State × Bool :=
  if s.pstate p = .faulted then (s, false)
  else
  let win := s.windowAddr p f
  let c := leNat (memRead s.hbm win 8)
  let r := leNat (memRead s.hbm (win + 8) 8)
  let n := wrapSub 64 c r
  if f.slots < n then (s.portFault p f true, false)
  else
    let (s, ok) := s.takeMsgs p f win r n
    if ok then ((if n = 0 then s else s.writeDesign p ((s.pas p).stat.ecycle - 1) (win + 8) (leBytes 8 c)), true) else (s, false)

/-- The take of every port, in turn: one without room waits alone, and the rest go on (R218, R219). `true` where all are made. -/
def State.takePorts (s : State) (p : Nat) : List FlowPort → State × Bool
  | [] => (s, true)
  | f :: r =>
    let (s, ok) := s.takePort p f
    let (s, rest) := s.takePorts p r
    (s, ok && rest)

/-- Whether the take of the present barrier may be made: every fold has arrived at a barrier that closes an ecycle, and the
exchange phase of R218 is reached. -/
def State.takeReady (s : State) (p : Nat) : Bool :=
  (match s.pstate p with
    | .running | .stepping | .recovering | .frozen => true
    | _ => false) &&
  s.dev.mode != .hold && s.allArrived p && !(s.pas p).run.taken && decide (0 < (s.pas p).stat.ecycle) &&
  s.dmOrdered p (s.pas p).stat.ecycle

/-- The take of the present barrier, as far as room allows; BP_WAIT stands while it waits, and a barrier that waits is
counted once (R219, Table 8-11). -/
def State.flowTake (s : State) (p : Nat) : State :=
  if s.takeReady p then
    let (s, ok) := s.takePorts p (s.portsOf p rolePortOut)
    if ok then (s.modRun p (fun r => { r with taken := true })).modPFlow p (fun w => { w with bpWait := false })
    else if s.pstate p = .faulted then s.modPFlow p (fun w => { w with bpWait := false })
    else s.modPFlow p (fun w => { w with
      bpWait := true, bpBarriers := if w.bpWait then w.bpBarriers else satTo 32 (w.bpBarriers + 1) })
  else s

/-- Once every fold has arrived, the gateway takes the committed messages (R219). -/
def execFlowTake (pasture : Nat) (s : State) : Host.Outcome State Fault Refusal := .next (s.flowTake pasture)

/-! ### The admission (R220–R224) -/

/-- Write an admitted entry into slot `m mod SLOTS`. -/
def State.admitEntry (s : State) (p : Nat) (f : FlowPort) (win m : Nat) (bs : List Byte) : State :=
  s.writeDesign p (s.pas p).stat.ecycle (slotAddr win f.slots bs.length m) bs

/-- Admit from the head of the port's queue, at most `n` messages: the window has a free slot and the head message is due.
Each admission enters the ingress log. Answers how many were admitted. -/
def State.admitLive (s : State) (p : Nat) (f : FlowPort) (win admitted taken : Nat) : Nat → State × Nat
  | 0 => (s, 0)
  | n + 1 =>
    let d := s.queue f.queue
    let b := (s.pas p).stat.ecycle
    let due := leNat (memRead s.hbm (d.entryAddr d.head + 8) 8)
    if d.count = 0 ∨ f.slots ≤ wrapSub 64 admitted taken ∨ (due ≠ 0 ∧ b < due) then (s, 0)
    else
      let (bs, s) := s.popEntry f.queue
      let s := s.admitEntry p f win admitted bs
      let s := s.logIngress p (fun k => { k with admits := k.admits ++ [(f.port, bs)] })
      let s := if due ≠ 0 ∧ due < b then
          s.modQueue f.queue (fun d => { d with lateAdmits := satTo 16 (d.lateAdmits + 1) })
        else s
      let s := s.headAdvanced f.queue
      let (s, k) := s.admitLive p f win (wrapTo 64 (admitted + 1)) taken n
      (s, k + 1)

/-- Admit the entries a log records for the port at this barrier. -/
def State.admitLogged (s : State) (p : Nat) (f : FlowPort) (win admitted : Nat) (es : List (List Byte)) : State :=
  (es.zipIdx).foldl (fun s e => s.admitEntry p f win (wrapTo 64 (admitted + e.2)) e.1) s

/-- The block that a run of blocks holds for an ecycle. -/
def blockAt (bs : List IngressBlock) (e : Nat) : Option IngressBlock := bs.find? (fun b => b.ecycle == e)

/-- The admission of one PORT_IN port at the release of barrier b: from the block of the ingress log that a replay follows,
from the REPLAY log, or from the queue; then ADMITTED is written. -/
def State.admitPort (s : State) (p : Nat) (f : FlowPort) : State :=
  if s.pstate p = .faulted then s
  else
    let x := s.pas p
    let b := x.stat.ecycle
    let win := s.windowAddr p f
    let a := leNat (memRead s.hbm win 8)
    let t := leNat (memRead s.hbm (win + 8) 8)
    if f.slots < wrapSub 64 a t then s.portFault p f false
    else
      let mine (k : IngressBlock) : List (List Byte) := (k.admits.filter (fun e => e.1 == f.port)).map Prod.snd
      let (s, k) := match blockAt x.ck.replayLog b with
        | some k => (s.admitLogged p f win a (mine k), (mine k).length)
        | none =>
          if x.replayRun then
            match blockAt x.ck.runLog b with
            | some k =>
              let s := s.admitLogged p f win a (mine k)
              (s.logIngress p (fun l => { l with admits := l.admits ++ (mine k).map (fun e => (f.port, e)) }),
                (mine k).length)
            | none => (s, 0)
          else s.admitLive p f win a t f.admitMax
      if k = 0 then s else s.writeDesign p (s.pas p).stat.ecycle win (leBytes 8 (wrapTo 64 (a + k)))

/-- The admission of every PORT_IN port, in port order. -/
def State.flowAdmit (s : State) (p : Nat) : State := (s.portsOf p rolePortIn).foldl (fun s f => s.admitPort p f) s

/-! ### Dispatch (R231, R235, R236) -/

/-- The pasture states in which tasks are dispatched. -/
def PState.dispatches : PState → Bool
  | .empty | .loading | .draining | .faulted => false
  | _ => true

/-- The pasture whose turn it is: the next after the one last served, with a ready task and this engine in its mask. -/
def State.nextServed (s : State) (engine : Nat) : Option Nat :=
  let cur := (s.engine engine).cur
  ((List.range 16).map (fun i => (cur + 1 + i) % 16)).find? (fun p =>
    let x := s.pas p
    x.stat.state.dispatches && (x.comp.engines == 0 || bitOf x.comp.engines engine) && !x.flow.ready.isEmpty)

/-- Messages a run moves (R225). -/
def State.runCount (s : State) (x : Task) : Nat :=
  if x.moves then min x.batch (min (s.queue x.src).count (s.queue x.dst).free) else 0

/-- An idle engine takes the head task of the next ready list in turn; the overflow chain fills the place (R235). Nothing
is dispatched in HOLD (R236). -/
def execTaskDispatch (engine : Nat) (s : State) : Host.Outcome State Fault Refusal :=
  .next (
    if (s.engine engine).run.isSome ∨ s.dev.mode = .hold then s
    else match s.nextServed engine with
      | none => s
      | some p =>
        match (s.pas p).flow.ready with
        | [] => s
        | t :: r =>
          let s := s.modPFlow p (fun w => match w.overflow with
            | [] => { w with ready := r }
            | o :: os => { w with ready := r ++ [o], overflow := os })
          let n := s.runCount (s.task t)
          (s.modTask t (fun x => { x with tstate := .running })).modEngine engine (fun e => { e with
            cur := p, run := some (t, n) }))

/-! ### The effects of a run (R229, R230) -/

/-- Move one entry of a run: the bytes of the source's entry `i` to the sink's next place. -/
def State.moveEntry (s : State) (x : Task) (p i : Nat) : State :=
  let src := s.queue x.src
  let dst := s.queue x.dst
  let raw := if src.inHbm then memRead s.hbm (src.entryAddr (wrapTo 32 (src.head + i))) src.entryBytes
    else flowCrypt (s.kFlow p) x.src (src.passed + i)
      (s.hostRead (src.entryAddr (wrapTo 32 (src.head + i))) src.entryBytes)
  if dst.inHbm then s.pushEntry x.dst raw
  else
    let s := s.hostWrite (dst.entryAddr dst.tail) (flowCrypt (s.kFlow p) x.dst dst.passed raw)
    s.modQueue x.dst (fun d => { d with
      tail := wrapTo 32 (d.tail + 1), highWater := max d.highWater (d.count + 1), passed := d.passed + 1 })

/-- Whether entry `i` of a run meets a PCIe error. -/
def State.entryBad (s : State) (x : Task) (i : Nat) : Bool :=
  let src := s.queue x.src
  let dst := s.queue x.dst
  (x.op == opMoveIn && s.hostBad (src.entryAddr (wrapTo 32 (src.head + i))) src.entryBytes) ||
  (x.op == opMoveOut && s.hostBad (dst.entryAddr (wrapTo 32 (dst.tail + i))) dst.entryBytes)

/-- Take `n` entries off the source: HEAD, and WAIT_HIST for a queue of HBM. -/
def State.advanceHead (s : State) (q n : Nat) : State :=
  if (s.queue q).inHbm then (List.range n).foldl (fun s _ => (s.popEntry q).2) s
  else s.modQueue q (fun d => { d with head := wrapTo 32 (d.head + n), passed := d.passed + n })

/-- A take that waits for room in a queue resumes (R229 step 2). -/
def State.resumeTake (s : State) (p q : Nat) : State :=
  if (s.pas p).flow.bpWait ∧ (s.portsOf p rolePortOut).any (fun f => f.queue == q) then s.flowTake p else s

/-- The effects of a run in the order of R229: `n` messages moved, `failed` where an entry met a PCIe error. A run that such an error
parks leaves its source event to the unparking, as a run parked by a full sink does (DESIGN CHOICE, log 61). -/
def State.runEffects (s : State) (p t n ns engine : Nat) (failed : Bool) : State :=
  let x := s.task t
  let before := (s.queue x.dst).count
  let s := if x.op = opNotify then s.raiseVector x.vector
    else (List.range n).foldl (fun s i => s.moveEntry x p i) s
  let s := if x.moves ∧ n ≠ 0 then ((s.advanceHead x.src n).headAdvanced x.src).resumeTake p x.src else s
  let s := if x.moves ∧ before = 0 ∧ n ≠ 0 then s.queueEvent x.dst else s
  let full := x.moves && decide ((s.queue x.dst).free = 0)
  let park := failed || full
  let s := if x.moves ∧ ¬ park ∧ (s.queue x.src).count ≠ 0 then s.queueEvent x.src else s
  let s := if park then
      (s.modTask t (fun y => { y with
        tstate := .parked, hostParked := failed, parkMoved := n, parkNs := ns, parkEngine := engine }))
    else s
  let s := if failed then s.logAer.setHostErr p else s
  let s := x.succs.foldl (fun s u => s.taskDec u) s
  if park then s else (s.rearm t).tallyRun t n ns engine

/-- SE_LOAD: the microseconds and the run (Table 8-9). -/
def Engine.finish (e : Engine) (ns : Nat) : Engine :=
  let rem := e.busyRemNs + ns
  { e with busyUs := wrapTo 32 (e.busyUs + rem / 1000), busyRemNs := rem % 1000, runs := wrapTo 16 (e.runs + 1),
           run := none }

/-- In DRAINING an engine finishes the message it is moving and nothing more: no further message, and no effect of the run on tasks
(R200). -/
def State.drainRun (s : State) (p t n engine ns : Nat) : State :=
  let x := s.task t
  let s := s.modEngine engine (fun e => e.finish ns)
  if x.moves ∧ n ≠ 0 ∧ ¬ s.entryBad x 0 then (s.moveEntry x p 0).advanceHead x.src 1 else s

/-- A run ends: its entries moved up to the one that met a PCIe error, and its effects applied as one group (R229, R230).
In HOLD the engine pauses, and a run that needs the host waits in D3hot (R236, R368). -/
def execTaskRunComplete (engine : Nat) (hostErrorAt : Option Nat) (ns : Nat) (s : State) :
    Host.Outcome State Fault Refusal :=
  .next (
    match (s.engine engine).run with
    | none => s
    | some (t, n) =>
      let x := s.task t
      match x.owner with
      | none => s.modEngine engine (fun e => e.finish ns)
      | some p =>
        let usesHost := x.op = opMoveIn ∨ x.op = opMoveOut
        if s.dev.mode = .hold ∨ (s.host.d3hot ∧ usesHost) then s
        else
          let n := min n (s.runCount x)
          if s.pstate p = .draining then s.drainRun p t n engine ns
          else
          let bad (i : Nat) : Bool := s.entryBad x i || (decide usesHost && hostErrorAt == some i)
          let ok := ((List.range n).find? bad).getD n
          (s.modEngine engine (fun e => e.finish ns)).runEffects p t ok ns engine (decide (ok < n)))

end Sys2Proof.Machine
end

