-- ==== Sys2Proof/Machine/Acq.lean ====
section
/-!
DEFINITION. Acquisition: the plan, the trigger sequencer, records and the landing, segments, wrap markers, and snapshots
(R240–R262).
-/

namespace Sys2Proof.Machine

open Sys2Proof

/-! ### The plan (Table 9-1) -/

def Acq.landingPa (a : Acq) : Nat := fieldAt a.plan 0 8
def Acq.records (a : Acq) : Nat := fieldAt a.plan 8 4
def Acq.segLen (a : Acq) : Nat := fieldAt a.plan 12 4
def Acq.postCount (a : Acq) : Nat := fieldAt a.plan 16 4
def Acq.flags (a : Acq) : Nat := fieldAt a.plan 20 4
def Acq.snapPa (a : Acq) : Nat := fieldAt a.plan 24 8
def Acq.snapSize (a : Acq) : Nat := fieldAt a.plan 32 8
def Acq.snapRegions (a : Acq) : Nat := fieldAt a.plan 40 2

def Acq.segWrap (a : Acq) : Bool := bitOf a.flags 0
def Acq.segEvent (a : Acq) : Bool := bitOf a.flags 1
def Acq.spanTrig (a : Acq) : Bool := bitOf a.flags 2
def Acq.snapMode (a : Acq) : Nat := bitsOf a.flags 3 2
def Acq.autoArm (a : Acq) : Bool := bitOf a.flags 5

/-- Records per segment, and segments (R251). -/
def Acq.segRecords (a : Acq) : Nat := if a.segLen = 0 then a.records else a.segLen
def Acq.segments (a : Acq) : Nat := if a.segLen = 0 then 1 else a.records / a.segLen

/-- Whether the engine captures. -/
def Acq.live (a : Acq) : Bool := a.state == .armed || a.state == .post

def AcqState.code : AcqState → Nat
  | .none => 0 | .idle => 1 | .armed => 2 | .post => 3 | .done => 4

/-- Bit 1-count of a number's low 64 bits. -/
def ones64 (x : Nat) : Nat := ((List.range 64).filter (fun i => bitOf x i)).length

/-! ### The event vector (R244, Table 9-3) -/

def Acq.word (ws : Tab Nat) (f : Nat) : Nat := tget ws 0 f

/-- Comparator `k` of the plan on a set of probe words. -/
def Acq.compHit (a : Acq) (ws : Tab Nat) (k : Nat) : Bool :=
  let o := 0x40 + 24 * k
  let w := Acq.word ws (fieldAt a.plan o 2)
  let d := (w ^^^ fieldAt a.plan (o + 8) 8) &&& fieldAt a.plan (o + 16) 8
  match fieldAt a.plan (o + 2) 1 with
  | 1 => d == 0
  | 2 => d != 0
  | _ => false

/-- The bit of edge detector `k`. -/
def Acq.edgeBit (a : Acq) (ws : Tab Nat) (k : Nat) : Bool :=
  let o := 0x340 + 4 * k
  bitOf (Acq.word ws (fieldAt a.plan o 2)) (fieldAt a.plan (o + 2) 1)

/-- Whether edge detector `k` fires; the first capture after arming and the one after a recovery detect no edge (DEDUCED, log 22). -/
def Acq.edgeFires (a : Acq) (c : Capture) (k : Nat) : Bool :=
  match a.prev with
  | none => false
  | some p =>
    if c.after then false
    else
      let old := a.edgeBit p k
      let new := a.edgeBit c.words k
      match fieldAt a.plan (0x340 + 4 * k + 3) 1 with
      | 1 => !old && new
      | 2 => old && !new
      | 3 => old != new
      | _ => false

/-- Tally `k` has reached its limit. -/
def Acq.tallyHit (a : Acq) (k : Nat) : Bool :=
  let lim := fieldAt a.plan (0x360 + 8 * k) 6
  decide (lim ≠ 0) && decide (lim ≤ a.tallies.getD k 0)

def Acq.eventVector (a : Acq) (c : Capture) : Nat :=
  let bit (i : Nat) : Bool :=
    if i < 32 then a.compHit c.words i
    else if i < 40 then a.edgeFires c (i - 32)
    else if i < 44 then a.tallyHit (i - 40)
    else if i = 44 then decide (c.asserts ≠ 0)
    else i == 45
  (List.range 46).foldl (fun n i => if bit i then n + 2 ^ i else n) 0

/-! ### Transitions (R245, Table 9-4) -/

structure Transition where
  all     : Nat
  any     : Nat
  next    : Nat
  actions : Nat
deriving DecidableEq, Repr

def Acq.transition (a : Acq) (st i : Nat) : Transition :=
  let o := 0x3A0 + 80 * st + 16 + 16 * i
  { all := fieldAt a.plan o 6, any := fieldAt a.plan (o + 6) 6, next := fieldAt a.plan (o + 12) 1,
    actions := fieldAt a.plan (o + 13) 2 }

def Transition.holds (t : Transition) (ev : Nat) : Bool :=
  bitOf t.actions 15 && (ev &&& t.all) == t.all && (t.any == 0 || (ev &&& t.any) != 0)

/-- The first valid transition of the present state whose condition holds. -/
def Acq.select (a : Acq) (ev : Nat) : Option Transition :=
  ((List.range 4).map (a.transition a.seqState)).find? (fun t => t.holds ev)

/-- Tally actions: a clear before the same transition's increment; a tally stops at 2^48 − 1. -/
def Acq.tallyActions (a : Acq) (t : Transition) : List Nat :=
  (a.tallies.zipIdx).map (fun e =>
    let n := if bitOf t.actions (5 + e.2) then 0 else e.1
    if bitOf t.actions (1 + e.2) then satTo 48 (n + 1) else n)

/-- STORE of a state. -/
def Acq.stores (a : Acq) (st : Nat) : Bool := bitOf (fieldAt a.plan (0x3A0 + 80 * st) 1) 0

/-! ### Measurements (R254) -/

def Acq.measType (a : Acq) (k : Nat) : Nat := bitsOf (fieldAt a.plan (0x380 + 2 * k) 2) 0 4
def Acq.measSrc (a : Acq) (k : Nat) : Nat := bitsOf (fieldAt a.plan (0x380 + 2 * k) 2) 4 5
def Acq.measOn (a : Acq) : Bool := (List.range 16).any (fun k => a.measType k != 0)

/-- The firing memory of detector `k` after a capture. -/
def Acq.edgeStep (a : Acq) (c : Capture) (k : Nat) : Option Nat × Nat × Nat :=
  let m := a.edgeMem.getD k (none, 0, 0)
  let run := if a.edgeBit c.words k then m.2.2 + 1 else 0
  if a.edgeFires c k then (some c.ecycle, (match m.1 with
    | some e => c.ecycle - e
    | none => 0), run)
  else (m.1, m.2.1, run)

/-- The 16 values of a capture, given the edge memory and the tallies after its actions. -/
def Acq.measure (a : Acq) (c : Capture) (mem : List (Option Nat × Nat × Nat)) (tallies : List Nat) : List Nat :=
  (List.range 16).map (fun k =>
    let src := a.measSrc k
    let m := mem.getD src (none, 0, 0)
    satTo 32 (match a.measType k with
      | 1 => c.timing.getD 0 0
      | 2 => match a.prevTs with
        | some t => wrapSub 32 c.ts t
        | none => 0
      | 3 => c.timing.getD 1 0
      | 4 => c.timing.getD 2 0
      | 5 => c.timing.getD 3 0
      | 6 => c.timing.getD 4 0
      | 7 => ones64 (Acq.word c.words (fieldAt a.plan (0x40 + 24 * src) 2) &&& fieldAt a.plan (0x40 + 24 * src + 16) 8)
      | 8 => m.2.2
      | 9 => m.2.1
      | 10 => tallies.getD src 0 % 2 ^ 32
      | 11 => a.dwell + 1
      | _ => 0))

/-! ### Records (R250–R252) -/

/-- The folds of a pasture that have a probe list. -/
def State.probeFolds (s : State) (p : Nat) : List Nat :=
  (s.pasFolds p).filter (fun f => !(s.fold f).store.probes.isEmpty)

/-- RS. -/
def State.recordSize (s : State) (p : Nat) : Nat :=
  let n := 32 + (if (s.acqOf p).measOn then 64 else 0) + 8 * (s.probeFolds p).length
  64 * ((n + 63) / 64)

/-- Write a record at the place of the next SEQ_NO. -/
def State.putRecord (s : State) (p : Nat) (bs : List Byte) : State :=
  let a := s.acqOf p
  let rs := s.recordSize p
  let slot := a.segment * a.segRecords + a.written % a.segRecords
  let s := { s with hbm := memWrite s.hbm (a.landingPa + rs * slot) (padTo rs bs) }
  s.modAcq p (fun a => { a with written := wrapTo 32 (a.written + 1) })

/-- The header of Table 9-7. -/
def State.recordHead (s : State) (p rtype flags seqState ts ecycle asserts wraps : Nat) : List Byte :=
  let a := s.acqOf p
  leBytes 1 rtype ++ leBytes 1 flags ++ leBytes 1 seqState ++ leBytes 1 (s.pas p).stat.spanIndex ++ leBytes 4 ts
    ++ leBytes 8 ecycle ++ leBytes 2 a.segment ++ leBytes 2 asserts ++ leBytes 4 a.written ++ leBytes 4 wraps
    ++ leBytes 4 0

/-- Write a sample record. -/
def State.putSample (s : State) (p : Nat) (h : HeldRec) (blaze post forced : Bool) : State :=
  let flags := b2n blaze + 2 * b2n post + 4 * b2n h.cap.after + 8 * b2n forced
  let head := s.recordHead p 1 flags h.seqState h.cap.ts h.cap.ecycle (satTo 16 h.cap.asserts) 0
  let meas := if (s.acqOf p).measOn then h.meas.flatMap (leBytes 4) else []
  s.putRecord p (head ++ meas ++ (s.probeFolds p).flatMap (fun f => leBytes 8 (Acq.word h.cap.words f)))

/-- Write a wrap marker (R252, R253). -/
def State.putMarker (s : State) (p : Nat) (c : Capture) : State :=
  let a := s.acqOf p
  if a.live then
    let s := s.putRecord p (s.recordHead p 2 0 a.seqState c.ts c.ecycle 0 (wrapTo 32 (a.wraps + 1)))
    s.modAcq p (fun a => { a with wraps := wrapTo 32 (a.wraps + 1) })
  else s

/-! ### States, trigger and segments (R246–R249) -/

/-- The engine's event vector (Table 11-11). -/
def State.acqVector (s : State) (p : Nat) : State := s.raiseVector (81 + p)

/-- Enter DONE. What is still held is not of this capture; a waiting ACQ_DISARM or ACQ_FORCE completes. -/
def State.acqDone (s : State) (p : Nat) : State :=
  let s := (s.modAcq p (fun a => { a with state := .done, disarm := false, force := false, waiting := [], held := [] })).acqVector p
  (s.finishAll 0x0502 p 0).finishAll 0x0503 p 0

/-- Arming (R248). -/
def Acq.arm (a : Acq) : Acq :=
  { a with
    state := .armed, triggered := false, forced := false, force := false, disarm := false, segment := 0, written := 0,
    trigSeq := 0xFFFFFFFF, seqState := 0, dwell := 0, tallies := [0, 0, 0, 0], post := 0, wraps := 0, waiting := [],
    held := [], prev := none, prevTs := none, edgeMem := List.replicate 8 (none, 0, 0), segDone := false }

/-- Arm the engine; snapshots may start again (R257). -/
def State.acqArm (s : State) (p : Nat) : State :=
  (s.modAcq p Acq.arm).modSnap p (fun n => { n with has := false, active := false, truncated := false, stop := false })

/-- The segment is complete (R249). -/
def State.segmentComplete (s : State) (p : Nat) : State :=
  let s := s.modAcq p (fun a => { a with segDone := true })
  let a := s.acqOf p
  let next (seg : Nat) : State := s.modAcq p (fun a => { a with
    state := .armed, segment := seg, seqState := 0, dwell := 0, written := 0, trigSeq := 0xFFFFFFFF,
    triggered := false, forced := false, post := 0 })
  if a.segLen = 0 then s.acqDone p
  else
    let more := decide (a.segment + 1 < a.segments)
    if more || a.segWrap then
      let s := next (if more then a.segment + 1 else 0)
      if a.segEvent then s.acqVector p else s
    else s.acqDone p

/-- The snapshot kept at the trigger of ecycle `e`: the latest whose ring is not after it; no more start (R257). -/
def Snap.atTrigger (n : Snap) (e : Nat) : Snap :=
  if n.active ∧ e < n.curEcy then { n with active := false, stop := true } else { n with stop := true }

/-- Land one evaluated capture: in ARMED where its state stores or it fires, in POST always; then judge the trigger and the
post-trigger count (R246 steps 3 and 5, R247). -/
def State.landSample (s : State) (p : Nat) (h : HeldRec) (fires forced : Bool) : State :=
  let a := s.acqOf p
  match a.state with
  | .armed =>
    if fires then
      let seq := a.written
      let s := s.putSample p h true false forced
      let s := s.modAcq p (fun a => { a with
        state := .post, triggered := true, forced := forced, trigSeq := seq, post := a.postCount })
      let s := s.modSnap p (fun n => n.atTrigger h.cap.ecycle)
      let s := s.finishAll 0x0503 p 0
      if a.postCount = 0 then s.segmentComplete p else s
    else if h.store then s.putSample p h false false false
    else s
  | .post =>
    let s := s.putSample p h false true false
    let s := s.modAcq p (fun a => { a with post := a.post - 1 })
    if a.post ≤ 1 then s.segmentComplete p else s
  | _ => s

/-- Evaluate a capture: the event vector, the transition, the measurements, the tallies and the next state (R246). -/
def Acq.evaluate (a : Acq) (c : Capture) : HeldRec × Acq :=
  let t := a.select (a.eventVector c)
  let tallies := match t with
    | some t => a.tallyActions t
    | none => a.tallies
  let mem := (List.range 8).map (fun k => a.edgeStep c k)
  let next := (t.map Transition.next).getD a.seqState
  let h : HeldRec := {
    cap := c, seqState := a.seqState, store := a.stores a.seqState,
    trigger := (t.map (fun t => bitOf t.actions 0)).getD false, meas := a.measure c mem tallies }
  (h, { a with
    tallies := tallies, edgeMem := mem, seqState := next, dwell := if next = a.seqState then a.dwell + 1 else 0,
    prev := some c.words, prevTs := some c.ts })

/-- Records held for the span's trigger land without one, as their capture ends (R255, R261). -/
def State.landHeld (s : State) (p : Nat) : State :=
  let hs := (s.acqOf p).held
  let s := s.modAcq p (fun a => { a with held := [] })
  hs.foldl (fun s h => if h.cap.wrap then s.putMarker p h.cap else s.landSample p h false false) s

/-- The engine takes its oldest waiting capture: a pending ACQ_DISARM ends capture, a pending ACQ_FORCE fires (R261). With
SPAN_TRIG the record is held until the span's trigger is known, and its own trigger goes with the arrival of barrier e + 2
(R255). A trigger counts only in ARMED. -/
def State.acqOne (s : State) (p : Nat) : State :=
  let a := s.acqOf p
  match a.waiting with
  | [] => s
  | c :: r =>
    let s := s.modAcq p (fun a => { a with waiting := r })
    if c.wrap then
      if a.held.isEmpty then s.putMarker p c
      else s.modAcq p (fun a => { a with held := a.held ++
        [{ cap := c, seqState := 0, store := false, trigger := false, meas := [] }] })
    else if a.disarm then 
      let s := s.landHeld p
      if (s.acqOf p).state = .done then s else s.acqDone p
    else
      let (h, b) := ({ a with waiting := r } : Acq).evaluate c
      let forced := a.force && a.state == .armed
      let s := s.modAcq p (fun _ => { b with force := false })
      let h := { h with trigger := (h.trigger && a.state == .armed) || forced }
      if a.spanTrig then
        let s := s.modAcq p (fun a => { a with held := a.held ++ [h], forced := a.forced || forced })
        if forced then s.finishAll 0x0503 p 0 else s
      else s.landSample p h h.trigger forced

/-- The captures that hold a place of R241. -/
def Acq.places (a : Acq) : Nat :=
  (a.waiting.filter (fun c => !c.wrap)).length + (a.held.filter (fun h => !h.cap.wrap)).length

/-- The engine evaluates and records every waiting capture. -/
def State.acqDrain (s : State) (p : Nat) : State :=
  (s.acqOf p).waiting.foldl (fun s _ => s.acqOne p) s

/-- The held records up to ecycle `e` land; the blaze stands on the record of ecycle `t` (R255). -/
def State.acqRelease (s : State) (p e : Nat) (t : Option Nat) : State :=
  let hs := (s.acqOf p).held
  let due (h : HeldRec) : Bool := h.cap.wrap || decide (h.cap.ecycle ≤ e)
  let go := hs.takeWhile due
  let s := s.modAcq p (fun a => { a with held := hs.drop go.length })
  go.foldl (fun s h =>
    if h.cap.wrap then s.putMarker p h.cap
    else s.landSample p h (some h.cap.ecycle == t) (s.acqOf p).forced) s

/-- The acquisition engine evaluates one capture (R246). -/
def execAcqCapture (pasture : Nat) (s : State) : Host.Outcome State Fault Refusal := .next (s.acqOne pasture)

/-- A wrap of the time base reaches the landings of the engines that capture, behind every capture made before it (R253). -/
def State.acqWrap (s : State) (p : Nat) : State :=
  if (s.acqOf p).live then
    let c : Capture := { ecycle := (s.pas p).stat.ecycle, ts := s.ts, words := [], asserts := 0, after := false,
                         timing := [], wrap := true }
    (s.modAcq p (fun a => { a with waiting := a.waiting ++ [c] })).acqDrain p
  else s

/-! ### The formats of rings and logs (R266, Tables 10-4 and 10-5) -/

/-- The bytes of a fold's record in a ring store buffer. -/
def ringRecord (r : FoldRing) : List Byte :=
  let bits (bp byte : Nat) : Byte :=
    BitVec.ofNat 8 ((List.range 8).foldl (fun n i =>
      if tget r.cells false (512 * bp + 8 * byte + i) then n + 2 ^ i else n) 0)
  let cells := (List.range 256).flatMap (fun bp => (List.range 56).map (fun b => bits bp b))
  let reads := r.reads.flatMap (fun d =>
    leBytes 2 d.slot ++ leBytes 1 d.group ++ leBytes 1 1 ++ leBytes 4 d.after ++ leBytes 8 d.word.toNat)
  padTo 16384 (cells ++ padTo 1024 reads)

/-- The service address of a scratchpad word in the plain window (R138). -/
def padServiceAddr (pair key : Nat) : Nat := 0x010000000000 + 0x80000 * pair + 2 * key

/-- An undo entry (Table 10-4). -/
def undoBytes : Undo → List Byte
  | .hbm a old => leBytes 6 a ++ [1, 0] ++ leBytes 8 old.toNat
  | .pad q k old => leBytes 6 (padServiceAddr q k) ++ [2, 0] ++ leBytes 8 old.toNat
  | .marker n e => leBytes 6 n ++ [3, 0] ++ leBytes 8 e

/-- A block of the ingress log (Table 10-5). -/
def ingressBytes (b : IngressBlock) : List Byte :=
  let admits := b.admits.flatMap (fun e =>
    leBytes 1 e.1 ++ leBytes 1 0 ++ leBytes 1 (e.2.length / 64) ++ leBytes 5 0 ++ e.2)
  let words := b.words.flatMap (fun w => leBytes 2 w.2.toNat ++ leBytes 1 w.1 ++ leBytes 1 0)
  let body := admits ++ words
  let len := 8 * ((24 + body.length + 7) / 8)
  padTo len (leBytes 8 b.ecycle ++ leBytes 4 len ++ leBytes 4 b.admits.length ++ leBytes 4 b.words.length
    ++ leBytes 1 (b2n b.ringPoint) ++ leBytes 3 0 ++ body)

/-! ### Snapshots (R257, R258) -/

/-- The address of a snapshot buffer. -/
def Acq.snapBuf (a : Acq) (b : Bool) : Nat := a.snapPa + (if b then a.snapSize else 0)

/-- The bytes of the memory copy: scratchpads, then the snapshot regions in region order. -/
def State.snapMemory (s : State) (p : Nat) : List Byte :=
  let x := (s.pas p).comp
  let pads := x.pairs.flatMap (fun q => (List.range 262144).flatMap (fun k => leBytes 2 ((s.pair q).word k).toNat))
  let regs := (numsWhere 16 (fun k => bitOf (s.acqOf p).snapRegions k)).flatMap (fun k =>
    let r := tget x.dmRegions DmRegion.init k
    memRead s.hbm r.base (4096 * r.pages))
  pads ++ regs

/-- Bytes of the ring store copy and of the memory copy. -/
def State.snapStoreLen (s : State) (p : Nat) : Nat := 16384 * (s.pasFolds p).length
def State.snapMemLen (s : State) (p : Nat) : Nat :=
  let x := (s.pas p).comp
  524288 * x.pairs.length + ((numsWhere 16 (fun k => bitOf (s.acqOf p).snapRegions k)).map (fun k =>
    4096 * (tget x.dmRegions DmRegion.init k).pages)).sum

/-- The snapshot being copied is stopped: its buffer is too small. -/
def State.snapTruncate (s : State) (p : Nat) : State :=
  s.modSnap p (fun n => { n with active := false, truncated := true })

/-- A snapshot of the ring at barrier `r` starts at its ring point, where the mode asks for one: in mode 2 at every ring point, in mode 1
at the first, whether or not its buffer was large enough (R257). -/
def State.snapStart (s : State) (p r : Nat) : State :=
  let a := s.acqOf p
  let n := s.snap p
  if a.state = .armed ∧ ¬ n.stop ∧ ¬ n.active ∧ ¬ (n.has ∧ n.ringEcy = r) ∧ (a.snapMode = 2 ∨ (a.snapMode = 1 ∧ ¬ n.has ∧ ¬ n.truncated)) then
    s.modSnap p (fun n => { n with active := true, curEcy := r, curB := n.has && !n.bufB, memDone := false })
  else s

/-- Whether ACQ may read the pasture's scratchpads (Table 5-3): RUNNING, STEPPING or FROZEN, and never in HOLD or RECOVER. -/
def State.acqReads (s : State) (p : Nat) : Bool :=
  ((s.pstate p).runs || s.pstate p == .frozen) && s.dev.mode != .hold && s.dev.mode != .recover

/-- The memory copy of the snapshot in progress is complete (R258). -/
def execSnapshotComplete (pasture : Nat) (s : State) : Host.Outcome State Fault Refusal :=
  let a := s.acqOf pasture
  let n := s.snap pasture
  let lead := s.snapStoreLen pasture
  .next (
    if n.active ∧ ¬ n.memDone ∧ s.acqReads pasture then
      if a.snapSize < lead + s.snapMemLen pasture then s.snapTruncate pasture
      else
        let s' := { s with hbm := memWrite s.hbm (a.snapBuf n.curB + lead) (s.snapMemory pasture) }
        s'.modSnap pasture (fun n => { n with memDone := true })
    else s)

/-- At the next ring point the undo entries of the snapshot's ring are copied, with its ring store and the ingress blocks
from its ecycle on; the snapshot is then complete (R258). -/
def State.snapClose (s : State) (p : Nat) : State :=
  let a := s.acqOf p
  let n := s.snap p
  if n.active then
    let x := s.pas p
    let store := (s.pasFolds p).flatMap (fun f => ringRecord (s.fold f).ringC)
    let undo := x.ck.undo.flatMap undoBytes
    let logs := (x.ck.log.filter (fun b => decide (n.curEcy ≤ b.ecycle))).flatMap ingressBytes
    let memEnd := s.snapStoreLen p + s.snapMemLen p
    let tail := undo ++ logs
    if a.snapSize < memEnd + tail.length then s.snapTruncate p
    else
      let base := a.snapBuf n.curB
      let s := { s with hbm := memWrite (memWrite s.hbm base store) (base + memEnd) tail }
      s.modSnap p (fun n => { n with
        has := true, bufB := n.curB, ringEcy := n.curEcy, keptLen := memEnd + tail.length, active := false })
  else s

/-- The block closed by a barrier goes to the complete snapshot while the landing records (R258). -/
def State.snapLog (s : State) (p : Nat) (b : IngressBlock) : State :=
  let a := s.acqOf p
  let n := s.snap p
  if n.has ∧ a.live ∧ n.ringEcy ≤ b.ecycle then
    let bs := ingressBytes b
    if a.snapSize < n.keptLen + bs.length then s.modSnap p (fun n => { n with has := false, truncated := true })
    else
      let s := { s with hbm := memWrite s.hbm (a.snapBuf n.bufB + n.keptLen) bs }
      s.modSnap p (fun n => { n with keptLen := n.keptLen + bs.length })
  else s

/-- A rollback to ring `r` abandons the copy of a later ring, whose place the replay takes again. -/
def State.snapAbandon (s : State) (p r : Nat) : State :=
  s.modSnap p (fun n => if n.active ∧ r < n.curEcy then { n with active := false } else n)

/-- SNAP_STATE (Table 9-12). -/
def Snap.code (n : Snap) : Nat := if n.active then 1 else if n.has then 2 else 0

end Sys2Proof.Machine
end

