-- ==== Sys2Proof/Machine/Stream.lean ====
section
/-!
DEFINITION. What a link puts on its lanes: blocks with their payloads, headers and lanes, the scrambler and PRBS31, the choice of the
next block at each block boundary, and the lanes of a port in training or test (R341, R342, R345–R348, R350, R359, R360).
-/

namespace Sys2Proof.Machine

open Sys2Proof

/-! ### Payloads and line bits -/

/-- The payload of a control block (Table 13-1). -/
def controlWord (ctype cseq body : Nat) : Nat :=
  let h := ctype * 2 ^ 40 + cseq * 2 ^ 32 + body % 2 ^ 32
  h * 2 ^ 16 + crc16 (beBytes 6 h)

/-- The payload of a data block: word k in bits [16k + 15:16k], words past the count zero (R344). -/
def dataWord (ws : List (BitVec 16)) : Nat := (ws.zipIdx).foldl (fun n e => n + e.1.toNat * 2 ^ (16 * e.2)) 0

/-- `n` bits, bit 0 first, through the self-synchronous scrambler x^58 + x^39 + 1 (R341): the line bits, and the last 58 of them with the
newest in bit 0. -/
def scramble : Nat → Nat → Nat → Nat × Nat
  | 0, st, _ => (0, st)
  | n + 1, st, w =>
    let b := (w + st / 2 ^ 38 + st / 2 ^ 57) % 2
    let r := scramble n ((2 * st + b) % 2 ^ 58) (w / 2)
    (b + 2 * r.1, r.2)

/-- The next `n` bits of PRBS31, x^31 + x^28 + 1 (PRESUMED, log 66), bit 0 first, and the generator after them. -/
def prbs31 : Nat → Nat → Nat × Nat
  | 0, st => (0, st)
  | n + 1, st =>
    let b := (st / 2 ^ 30 + st / 2 ^ 27) % 2
    let r := prbs31 n ((2 * st + b) % 2 ^ 31)
    (b + 2 * r.1, r.2)

/-- The generator that has just given 64 bits: the last 31 of them, the newest in bit 0. -/
def prbsSeed (w : Nat) : Nat := (List.range 31).foldl (fun n i => n + 2 ^ i * (w / 2 ^ (63 - i) % 2)) 0

/-- Bits in which two words of 64 differ. -/
def bitErrors (a b : Nat) : Nat := (List.range 64).foldl (fun n i => n + (a / 2 ^ i + b / 2 ^ i) % 2) 0

/-! ### Blocks on lanes -/

def portLanes (t : Nat) : List Nat := [2 * t, 2 * t + 1]

/-- One block on the line of a lane: its sync header and its payload, which the lane scrambles. -/
def State.putLane (s : State) (l header payload : Nat) : State :=
  let (line, scr) := scramble 64 (s.lane l).scr payload
  (s.modLane l (fun x => { x with scr := scr })).send (.block l header payload line)

/-- One block of the stream that a link, or a port in CAP, sends: block i goes on lane i mod n of its n lanes (R341). -/
def State.putBlock (s : State) (link header payload : Nat) : State :=
  let r := s.port link
  let n := if s.linkActive link then 2 ^ (r.bond + 1) else 2
  (s.modPort link (fun r => { r with txPos := r.txPos + 1, sinceSkip := r.sinceSkip + 1 })).putLane (2 * link + r.txPos % n) header payload

/-! ### The next block (R346) -/

/-- At most 128 sequenced blocks are unacknowledged (R347). -/
def sendWindow : Nat := 128

/-- The order in which waiting sequenced blocks are sent. -/
def sendRank (ctype : Nat) : Nat :=
  if ctype = ctFault then 0 else if ctype = ctRelease then 1 else if ctype = ctAssertCount then 2 else if ctype = ctArrive then 3
  else if ctype = ctUnload then 4 else if ctype = ctCredit then 5 else if ctTag < ctype ∧ ctype ≤ ctTag + 4 then 6
  else if ctype = ctCap then 7 else if ctype = ctJoin then 8 else 9

/-- The first waiting block of the first rank, with its place. -/
def firstWaiting (l : List SentBlock) : Option (Nat × SentBlock) :=
  (l.zipIdx).foldl (fun best e => match best with
    | none => some (e.2, e.1)
    | some b => if sendRank e.1.ctype < sendRank b.2.ctype then some (e.2, e.1) else best) none

/-- An ASSERT_COUNT takes with it the ARRIVE that it belongs to, the next one of its pasture. -/
def arriveOf (l : List SentBlock) (i : Nat) (b : SentBlock) : Option Nat :=
  if b.ctype = ctAssertCount then
    ((l.zipIdx).find? (fun e => decide (i < e.2) && e.1.ctype == ctArrive && e.1.body % 16 == b.body % 16)).map Prod.snd
  else none

/-- Put the next `k` of the blocks that hold a CSEQ on the line: the first as the present block, and what follows it directly, its data
blocks or the ARRIVE of an ASSERT_COUNT, at the next boundaries. -/
def State.putHeld (s : State) (link : Nat) : State :=
  let r := s.port link
  match r.sent.drop r.txd with
  | [] => s
  | b :: rest =>
    let follow := match rest with
      | a :: _ => if b.ctype = ctAssertCount ∧ a.ctype = ctArrive then [(2, controlWord a.ctype a.cseq a.body)] else []
      | [] => []
    (s.modPort link (fun r => { r with
      txd := r.txd + 1 + follow.length, line := b.data.map (fun d => (1, dataWord d.2)) ++ follow })).putBlock
      link 2 (controlWord b.ctype b.cseq b.body)

/-- The `i`-th waiting block takes the next CSEQ of its link and moves to the replay buffer. The time in an ECHO_REQ is that at which it
is sent (R355). -/
def State.assignSeq (s : State) (link i : Nat) : State :=
  let r := s.port link
  match r.wait[i]? with
  | none => s
  | some b =>
    let body := if b.ctype = ctCap ∧ b.body % 256 = 7 then 7 + 256 * (s.time.ns % 2 ^ 24) else b.body
    s.modPort link (fun r => { r with
      txSeq := (r.txSeq + 1) % 256
      wait := r.wait.eraseIdx i
      sent := r.sent ++ [{ b with cseq := r.txSeq, body := body }] })

/-- A CREDIT for a slot with credits unreturned, where no other block waits (R345). -/
def State.idleCredit (s : State) (link : Nat) : Option State :=
  match (s.port link).owed with
  | (key, n) :: _ =>
    some ((s.modPort link (fun q => { q with owed := tput q.owed 0 key 0 })).linkTx link ctCredit (key + 64 * n) [])
  | [] => none

/-- Send the first waiting block that the window has room for, or IDLE. -/
def State.putWaiting (s : State) (link : Nat) : State :=
  let r := s.port link
  match firstWaiting r.wait with
  | some (i, b) =>
    let a := arriveOf r.wait i b
    if sendWindow < r.sent.length + 1 + (if a.isSome then 1 else 0) then s.putBlock link 2 (controlWord ctIdle 0 0)
    else
      let s := s.assignSeq link i
      let s := match a with
        | some j => s.assignSeq link (j - 1)
        | none => s
      s.putHeld link
  | none => s.putBlock link 2 (controlWord ctIdle 0 0)

/-- The block of one boundary (R346): the rest of a group, then NAK, ACK, what is to be resent, what waits, a CREDIT, IDLE. ACK is due at
32 blocks accepted and one microsecond after the first of them (R347). In HOLD nothing new is sent (R359). -/
def State.putNext (s : State) (link : Nat) : State :=
  let r := s.port link
  match r.line with
  | (h, w) :: rest => (s.modPort link (fun r => { r with line := rest })).putBlock link h w
  | [] =>
    if r.nakDue then (s.modPort link (fun r => { r with nakDue := false })).putBlock link 2 (controlWord ctNak 0 r.rxSeq)
    else if 32 ≤ r.unacked ∨ (r.unacked ≠ 0 ∧ 1250 ≤ r.ackAge) then
      (s.modPort link (fun r => { r with unacked := 0, ackAge := 0 })).putBlock link 2 (controlWord ctAck 0 ((r.rxSeq + 255) % 256))
    else if r.txd < r.sent.length then s.putHeld link
    else if s.dev.mode = .hold then s.putBlock link 2 (controlWord ctIdle 0 0)
    else if r.wait.isEmpty then ((s.idleCredit link).getD s).putWaiting link
    else s.putWaiting link

/-! ### Block times -/

/-- A SKIP on every lane of the link at one stream position (R348). It is no block of the stream. -/
def State.putSkip (s : State) (link : Nat) (lanes : List Nat) : State :=
  lanes.foldl (fun s l => s.putLane l 2 (controlWord ctSkip 0 0)) (s.modPort link (fun r => { r with sinceSkip := 0 }))

/-- The lanes of a stream. -/
def State.streamLanes (s : State) (link : Nat) : List Nat :=
  if s.linkActive link then (s.linkPorts link).flatMap portLanes else portLanes link

/-- One block time of a stream: every lane takes a block, of which SKIP is one before 4,096 others have gone by. -/
def State.streamTime (s : State) (link : Nat) : State :=
  let lanes := s.streamLanes link
  if 4096 < (s.port link).sinceSkip + 2 * lanes.length then s.putSkip link lanes
  else lanes.foldl (fun s _ => s.putNext link) s

/-- The body of the TRAIN_MARK that a port sends: READY where its own scan has passed. -/
def State.markBody (s : State) (t : Nat) : Nat := b2n ((portLanes t).all (fun l => (s.lane l).passed || (s.lane l).state.code > 2))

/-- Send 64 bits of PRBS31 on a lane, with the header of a control block. -/
def State.putPrbs (s : State) (l : Nat) : State :=
  let (w, st) := prbs31 64 (s.lane l).prbsTx
  (s.modLane l (fun x => { x with prbsTx := st })).putLane l 2 w

/-- One block time of a lane that is in no stream (Table 13-5): PRBS31 in TRAIN, with a TRAIN_MARK every 1,024 blocks, and in TEST; IDLE in
LOCK. The line is in electrical idle in the other states, and in LOOP but for what is echoed (Table 13-6). -/
def State.laneTime (s : State) (t l : Nat) : State :=
  match (s.lane l).state with
  | .train => if (s.port t).txPos % 1024 = 1023 then s.putLane l 2 (controlWord 0x40 0 (s.markBody t)) else s.putPrbs l
  | .lock => s.putLane l 2 (controlWord ctIdle 0 0)
  | .test => s.putPrbs l
  | _ => s

/-- One block time of a port: that of its link at the link's lowest port, or of its lanes. -/
def State.blockTime (s : State) (t : Nat) : State :=
  if s.linkActive t then (if (s.port t).linkLow = t then s.streamTime t else s)
  else if s.portState t = .cap then s.streamTime t
  else
    let s := (portLanes t).foldl (fun s l => s.laneTime t l) s
    s.modPort t (fun r => { r with txPos := r.txPos + 1 })

/-- A lane sends 66 bits of 31.25 ps in 2.0625 ns (R338), in units of 3.125 ps: 660 to a block and 256 to a tick. -/
def blockUnits : Nat := 660
def tickUnits : Nat := 256

/-- The part of a port's tick that is its line: the time since blocks were accepted unacknowledged, and a block time where one is up. -/
def State.lineTick (s : State) (t : Nat) : State :=
  let s := s.modPort t (fun r => { r with
    ackAge := if r.unacked = 0 then 0 else r.ackAge + 1
    phase := (r.phase + tickUnits) % blockUnits })
  if (s.port t).phase < tickUnits then s.blockTime t else s

end Sys2Proof.Machine
end

