-- ==== Sys2Proof/Machine/Barrier.lean ====
section
/-!
DEFINITION. The cycle barrier: arrival, the assertion handover, the stops of run control, the waits of a release, the swap,
ring points, the tokens of a span, cycle-start events, the watchdog, the scrubber, and recovery (R50–R57, R112–R126,
R182–R197, R263–R286).
-/

namespace Sys2Proof.Machine

open Sys2Proof

/-! ### Recovery positions (Table 10-8 steps 1 and 8) -/

/-- How far a fold has come, as one rising number: at the barrier that starts ecycle e, in a slot of e, past its BARRIER
slot. -/
def State.foldPos (s : State) (p f : Nat) : Nat :=
  let e := (s.pas p).stat.ecycle
  let q := (s.fold f).seq
  if q.arrived then 4096 * (if s.allArrived p then e else e + 1)
  else if q.ended then 4096 * e + 2 + q.lastSlot
  else 4096 * e + 1 + q.slot

/-- The position a fold has to pass before recovery ends: past the slot of its stop, or its arrival. -/
def stopTarget (x : Nat × Nat × Bool) : Nat := if x.2.2 then 4096 * x.1 else 4096 * x.1 + 2 + x.2.1

/-- Every fold of a recovering pasture has reached its stop position. -/
def State.recoveryReached (s : State) (p : Nat) : Bool :=
  (s.pas p).ck.recovery.isSome && (s.pasFolds p).all (fun f =>
    match (s.fold f).stopAt with
    | some x => decide (stopTarget x ≤ s.foldPos p f)
    | none => true)

/-! ### Assertions (R79, R196, R279) -/

/-- The assertion events of the ecycle that closes. -/
def State.assertSum (s : State) (p : Nat) : Nat := ((s.pasFolds p).map (fun f => (s.fold f).latch.count)).sum

/-- The first assertion in ascending fold order. -/
def State.firstAssert (s : State) (p : Nat) : Option (Nat × Nat × Nat × Nat) :=
  (s.pasFolds p).findSome? (fun f => (s.fold f).latch.first.map (fun a => (f, a.1, a.2.1, a.2.2)))

/-- The pasture takes over the latches of the ecycle `e` that closes; an ecycle that a recovery replays is not counted a
second time. -/
def State.handover (s : State) (p e : Nat) : State :=
  if e < (s.pas p).ck.asrtNext then s
  else
    let n := s.assertSum p
    let s := s.modCk p (fun k => { k with asrtNext := e + 1 })
    let s := s.modSpan p (fun x => { x with memberAssert := satTo 32 (x.memberAssert + n) })
    let a := (s.pas p).assert
    let s := s.modPas p (fun x => { x with assert := { x.assert with count := satTo 32 (a.count + n) } })
    match a.valid, s.firstAssert p with
    | false, some (f, bp, slot, id) =>
      (s.modPas p (fun x => { x with assert := { x.assert with
        fold := f, bp := bp, slot := slot, id := id, valid := true, ecycle := e } })).pasEvent p pevAssert
    | _, _ => s

/-- Whether the assertions of the barrier satisfy ASSERT_ACTION; the root counts every member's. The count then starts
again (R190). -/
def State.assertStop (s : State) (p : Nat) : State :=
  let x := s.pas p
  let n := x.span.memberAssert
  let old := x.span.memberTotal
  let new := satTo 32 (old + n)
  let hit := match x.run.assertAction with
    | 1 => decide (0 < n)
    | 2 => decide (old < x.run.assertLimit) && decide (x.run.assertLimit ≤ new)
    | _ => false
  let s := s.modSpan p (fun y => { y with memberAssert := 0, memberTotal := new })
  if hit then s.modRun p (fun r => { r with stops := r.stops ++ [5] }) else s

/-! ### Stops (R183, R190, R191) -/

/-- The freeze causes that hold the present barrier. -/
def State.stopCauses (s : State) (p : Nat) : List Nat :=
  let x := s.pas p
  let b := x.stat.ecycle
  let m := x.stat.runMode
  (if (x.run.holdAt.map (fun h => decide (h ≤ b))).getD false then [1] else []) ++
  (if (m = .count ∨ m = .step) ∧ x.stat.target ≤ b then [2] else []) ++
  (if m = .replay ∧ (x.run.logEnd.map (fun h => decide (h ≤ b))).getD false then [3] else []) ++
  (if m = .toTrigger ∧ (s.acqOf p).segDone then [4] else []) ++
  x.run.stops

/-- Steps of the climb and of the descent of Table 4-7, by the level of the root: from the arrival to the root's decision, and D. -/
def Pasture.climbSteps (x : Pasture) : Nat := match x.comp.rootLevel with
  | 1 => 8
  | 2 => 12
  | _ => 20
def Pasture.descentSteps (x : Pasture) : Nat := match x.comp.rootLevel with
  | 1 => 5
  | 2 => 9
  | _ => 17

/-- Whether the release of the present barrier is decided: a stop that comes later holds the next one (R194). -/
def Pasture.committed (x : Pasture) : Bool := x.run.descent.isSome

/-- A release of the present barrier is on its way: decided, or its event is crossing into the root's island. -/
def Pasture.releasing (x : Pasture) : Bool := x.run.descent.isSome || x.run.cross.isSome

/-- Freeze a pasture that runs, at a barrier it has reached, where a stop applies; FREEZE_CAUSE is the highest, and ASSERT is set where
the assertions are among the causes (R191). A cycle-start event that has not committed then meets a held pasture (R194). -/
def State.judgeStops (s : State) (p : Nat) : State :=
  if (s.pstate p).runs then
    let s := if (s.pas p).stat.runMode = .toTrigger then s.acqDrain p else s
    match (s.stopCauses p).max? with
    | some c =>
      let asserts := (s.stopCauses p).contains 5
      let s := if (s.pas p).run.cross.isSome then s.modExt p (fun e => { e with heldEv := satTo 16 (e.heldEv + 1) }) else s
      let s := (s.freezeAt p c).modRun p (fun r => { r.unreleased with stops := [], holdAt := none })
      if asserts then s.pasEvent p pevAssert else s
    | none => s
  else s

/-! ### Waits of a release (R114, R218, R241, R258, R432) -/

/-- Every fold domain of a pasture is ON with nothing pending. -/
def State.foldsOn (s : State) (p : Nat) : Bool :=
  (s.pasFolds p).all (fun f => let d := s.domain f; d.state == .on && !d.waking && d.entry == .none)

/-- Every fold has arrived, and every member below in the device tree. -/
def State.barrierComplete (s : State) (p : Nat) : Bool :=
  s.allArrived p && !(s.pas p).comp.pairs.isEmpty &&
    (s.pas p).comp.children.all (fun c => (s.pas p).span.arrived.contains c)

/-- The barrier of the last ring point. -/
def PRing.lastRing (k : PRing) : Nat := if k.copying || k.kHeld then k.kEcycle else k.cEcycle

/-- The landing wait: the release would latch a capture and no place is free (R241). -/
def State.landingWait (s : State) (p : Nat) : Bool :=
  let x := s.pas p
  let a := s.acqOf p
  a.live && decide (4 ≤ a.places) && decide (0 < x.stat.ecycle) && decide (x.ck.capNext ≤ x.stat.ecycle - 1)

/-- The queue-space wait: the take of the barrier is not done (R219). -/
def State.spaceWait (s : State) (p : Nat) : Bool :=
  let x := s.pas p
  !x.run.taken && decide (0 < x.stat.ecycle) && !(s.portsOf p rolePortOut).isEmpty

/-- A host write asks for a ring that this device makes at the held barrier: in a span a ring complete but not announced must first be
released, and the ring point falls on a later barrier (DEDUCED, log 20). -/
def State.hostRingDue (s : State) (p : Nat) : Bool :=
  let x := s.pas p
  x.ck.hostReq && !(s.spanning p && x.ck.kHeld && !x.span.kComplete)

/-- The waits that this device decides: queue space, the exchange phase, the landing, waking folds, a ring copied for a
host write at the held barrier (R272), HOLD, and a recovery about to end. -/
def State.localWait (s : State) (p : Nat) : Bool :=
  let x := s.pas p
  s.spaceWait p || s.landingWait p || !s.foldsOn p || s.dev.mode == .hold || s.recoveryReached p ||
  (!x.flow.ports.isEmpty && !s.dmOrdered p x.stat.ecycle) ||
  (x.ck.copying && x.ck.kEcycle == x.stat.ecycle) || s.hostRingDue p

/-- Those of them that R114 lists, in which the watchdog holds its count (R123). -/
def State.listedWait (s : State) (p : Nat) : Bool :=
  let x := s.pas p
  s.spaceWait p || s.landingWait p || (x.ck.copying && x.ck.kEcycle == x.stat.ecycle) || s.hostRingDue p

/-! ### Ring points (R268, R271, R274) -/

/-- Causes of a ring point: 0 the log of a replay marks it, 1 interval, 2 time, 3 scratchpad undo, 4 HBM undo, 5 a
member's request, 6 a host write that could not have its ring at the barrier where it was made. -/
def State.ringOwnCause (s : State) (p : Nat) : Option Nat :=
  let x := s.pas p
  let b := x.stat.ecycle
  match x.ck.plan with
  | none => none
  | some g =>
    if b = 0 ∨ x.ck.lastRing = b then none
    else match blockAt x.ck.replayLog b with
      | some k => if k.ringPoint then some 0 else none
      | none =>
        if x.ck.hostReq then some 6
        else if g.interval ≤ b - x.ck.lastRing then some 1
        else if 120000 ≤ x.ck.runTicks then some 2
        else if x.ck.spUndo.any (fun e => decide (12000 ≤ e.2)) then some 3
        else if 96000 ≤ x.ck.dmUndo then some 4
        else none

/-- The root's cause, with the requests of the members. -/
def State.ringCause (s : State) (p : Nat) : Option Nat :=
  let x := s.pas p
  match s.ringOwnCause p with
  | some c => some c
  | none => if x.span.ringReq ∧ x.ck.plan.isSome ∧ x.stat.ecycle ≠ 0 ∧ x.ck.lastRing ≠ x.stat.ecycle then some 5 else none

/-- Whether the ring of the present barrier would be made now. Where the previous ring is still being copied the barrier waits (R268).
In a span a ring point whose previous ring is complete here and not yet announced is left to a later barrier, since the reports of
completion come only in arrivals (R271; DEDUCED, log 20). -/
def State.ringNow (s : State) (p : Nat) : Option Nat :=
  let x := s.pas p
  match s.ringCause p with
  | none => none
  | some c => if s.spanning p ∧ x.ck.kHeld ∧ ¬ x.span.kComplete then none else some c

/-- The ring of the present barrier is made already: ring 0 at barrier 0 (R182), the ring a rollback restored, or that of a host write
(R272). -/
def State.ringMade (s : State) (p : Nat) : Bool := s.ringsOn p && (s.pas p).ck.lastRing == (s.pas p).stat.ecycle

/-- The ring-copy wait and the snapshot's share of the landing wait at a ring point (R258, R268). -/
def State.ringWait (s : State) (p : Nat) : Bool :=
  (s.ringNow p).isSome && ((s.pas p).ck.copying || ((s.snap p).active && !(s.snap p).memDone))

/-- In EXTCLK a barrier releases on a latched event, and in a replay without one (R195, R282). -/
def State.eventWait (s : State) (p : Nat) : Bool :=
  let x := s.pas p
  x.stat.runMode == .extclk && !x.ext.latched && (match x.ck.recovery with
    | some r => decide (r.released ≤ x.stat.ecycle)
    | none => true)

/-- A stop that came while the barrier is complete holds it, unless its release is decided. It is the root's: a member below it stays RUNNING at
a barrier that the root holds, which R183 and the span rules leave open (DESIGN CHOICE, log 20). -/
def State.stopNow (s : State) (p : Nat) : State :=
  if s.barrierComplete p ∧ ¬ (s.pas p).committed then s.judgeStops p else s

/-- Every fold and member has arrived and no wait is pending but that for a cycle-start event. -/
def State.barrierReady (s : State) (p : Nat) : Bool :=
  s.running p && s.barrierComplete p && !s.localWait p && !s.ringWait p

/-- Ready (R194): the arrivals have also climbed to the root, and no event has been taken for this barrier. -/
def State.ready (s : State) (p : Nat) : Bool :=
  s.barrierReady p && decide ((s.pas p).climbSteps < (s.pas p).run.climb) && !(s.pas p).releasing

/-- PASTURE_READY (R194). -/
def State.pastureReady (s : State) (p : Nat) : Bool :=
  s.barrierReady p && decide ((s.pas p).climbSteps < (s.pas p).run.climb) && (s.pas p).stat.runMode == .extclk &&
    s.pstate p == .running

/-- ACQ_STATUS.WAITING: the release waits for this engine now (Table 9-10). -/
def State.acqWaiting (s : State) (p : Nat) : Bool :=
  s.running p && s.barrierComplete p &&
    (s.landingWait p || ((s.ringNow p).isSome && (s.snap p).active && !(s.snap p).memDone))

/-! ### The release (R53, R114, R182) -/

/-- Read records of the reads outstanding at barrier `b` whose word has returned (R150, R266). -/
def Fold.readRecords (x : Fold) (b : Nat) : List ReadRec :=
  x.dm.queue.filterMap (fun r => match r.kind, r.word with
    | .rd, some w => some { slot := r.dueSlot, group := r.group, after := r.dueEcy - b, word := w }
    | _, _ => none)

/-- The state entries of a cell table. -/
def Fold.stateCells (x : Fold) (t : Tab Bool) : Tab Bool := t.filter (fun e => tget x.store.smap false e.1)

/-- The fold's record of a ring at barrier `b`, taken at the barrier before the swap: the shadows are the next values (R53, R269), with the
reads outstanding. -/
def Fold.ringOf (x : Fold) (b : Nat) : FoldRing := { cells := x.stateCells x.nrf.nxt, reads := x.readRecords b }

/-- The swap of one fold: the probe latch where no slot carried PROBE, current := next for the state entries, at a ring
point the shadows; then slot 0 of the next ecycle. -/
def Fold.swap (x : Fold) (b : Nat) (ring : Bool) : Fold :=
  let x := if b ≠ 0 ∧ ¬ x.hasProbeSlot then { x with probeLatch := x.probeValue } else x
  let cur := (x.store.smap).foldl (fun t e => if e.2 then tput t false e.1 (tget x.nrf.nxt false e.1) else t) x.nrf.cur
  let shd := if ring then x.stateCells cur else x.nrf.shd
  { x with
    nrf := { x.nrf with cur := cur, shd := shd }
    latch := AssertLatch.init
    seq := { x.seq with
      slot := 0, arrived := false, ended := false, stateFinal := false, cause := 0, stallSteps := 0, busPrev := 0,
      bpOut := 0, delivered := [], wr0 := [], wr1 := [], nx0 := [], ev0 := [], done := [], issued := [], spDue := [], prepared := false } }

/-- Open ring K at barrier `b`: the snapshot of the ring before is closed, the marker stands before every entry of the
new ring, and every fold's record is taken (R263, R270, R273). -/
def State.openRing (s : State) (p b : Nat) : State :=
  let s := s.snapClose p
  let s := s.modCk p (fun k =>
    let n := wrapTo 16 (k.currentNo + 1)
    { k with
      undo := k.undo ++ [.marker n b], spUndo := [], dmUndo := 0, runTicks := 0, copying := true, kHeld := false,
      kEcycle := b, currentNo := n, hostReq := false })
  (s.pasFolds p).foldl (fun s f => s.modFold f (fun y => { y with ringK := y.ringOf b })) s

/-- In a REPLAY from the pasture's own log no part of the log is released before LOG_END (R275). -/
def Pasture.keepsLog (x : Pasture) : Bool :=
  x.run.ownLog && x.stat.runMode == .replay && (x.run.logEnd.map (fun h => decide (x.stat.ecycle < h))).getD false

/-- The words of blocks before ring `r` that no ecycle before it takes: those past COUNT × (r − LOG) of each fabric-to-fold channel,
where LOG is the ecycle that takes the log's first words. They stay in the log, which holds every word a fold will take (R103, R274;
DEDUCED, log 34). -/
def Pasture.carryWords (x : Pasture) (gone : List IngressBlock) (ecycles : Nat) : List (Nat × BitVec 16) :=
  let words := gone.flatMap IngressBlock.words
  x.chans.flatMap (fun c =>
    if c.srcKind = .edge then (words.filter (fun w => w.1 == c.srcId)).drop (c.count * ecycles) else [])

/-- The ingress log from ring `r` on. While the block of `r` is not open, the words that came since stand in the block before it. -/
def Pasture.logFromRing (x : Pasture) (r : Nat) : List IngressBlock :=
  let k := x.ck
  let gone := k.log.filter (fun b => decide (b.ecycle < r))
  let carry := x.carryWords gone (r - k.logFrom)
  match k.log.filter (fun b => decide (r ≤ b.ecycle)) with
  | b :: l => { b with words := carry ++ b.words } :: l
  | [] => match gone.getLast? with
    | some b => [{ b with admits := [], words := carry }]
    | none => []

/-- The ingress log before ring `r` is released (R270). -/
def State.trimLog (s : State) (p r : Nat) : State :=
  s.modPas p (fun x => { x with ck := { x.ck with
    log := x.logFromRing r, logFrom := max r x.ck.logFrom
    logBase := x.ck.logBase + ((x.ck.log.filter (fun b => decide (b.ecycle < r))).map (fun b => (ingressBytes b).length)).sum } })

/-- The ingress block of the ecycle that starts (R274, R275); words that came before it, after ring `b` was made for a host write, are
its first. -/
def State.openBlock (s : State) (p b : Nat) (ring : Bool) : State :=
  if s.ringsOn p then
    let s := s.modCk p (fun k =>
      if (blockAt k.replayLog b).isSome then k
      else if k.log.any (fun x => x.ecycle == b) then
        { k with log := k.log.map (fun x => if x.ecycle = b then { x with ringPoint := x.ringPoint || ring } else x) }
      else { k with log := k.log ++ [{ ecycle := b, ringPoint := ring, admits := [], words := [] }] })
    let k := (s.pas p).ck
    if k.cEcycle = b ∧ k.logFrom = b ∧ k.log.any (fun x => decide (x.ecycle < b)) then s.trimLog p b else s
  else s

/-- The capture that the release of barrier e + 1 latches; each ecycle is captured at most once (R240, R242). Called after
the swap, with what the ecycle left. -/
def State.capture (s : State) (p e asserts stallMax : Nat) : State :=
  let x := s.pas p
  if e < x.ck.capNext then s
  else
    let r := x.run
    let c : Capture := {
      ecycle := e, ts := s.ts, words := (s.probeFolds p).map (fun f => (f, (s.fold f).probeLatch)), asserts := asserts,
      after := x.ck.afterRec, timing := [r.ecySteps, stallMax, r.waitSteps, r.flowSteps, r.dmLate], wrap := false }
    let s := if (s.acqOf p).live then s.modAcq p (fun a => { a with waiting := a.waiting ++ [c] }) else s
    s.modCk p (fun k => { k with capNext := e + 1, afterRec := false })

/-- K becomes ring C: C's buffer, the undo entries before K's marker and the ingress log before K are released; in a REPLAY
from the pasture's own log the log stays (R270, R275). -/
def State.promote (s : State) (p : Nat) : State :=
  let x := s.pas p
  let isMark (u : Undo) : Bool := match u with
    | .marker _ e => e == x.ck.kEcycle
    | _ => false
  let undo := x.ck.undo.dropWhile (fun u => !isMark u)
  let s := s.modCk p (fun k => { k with
    cEcycle := k.kEcycle, completeNo := k.currentNo, copying := false, kHeld := false, bufB := !k.bufB
    undo := undo, undoBase := k.undoBase + (k.undo.length - undo.length) })
  let s := if x.keepsLog then s else s.trimLog p x.ck.kEcycle
  (s.pasFolds p).foldl (fun s f => s.modFold f (fun y => { y with ringC := y.ringK, ringK := FoldRing.init })) s

/-- Early rings are counted and entered in the decision log (R268). -/
def State.countRing (s : State) (p cause : Nat) : State :=
  if 2 ≤ cause then
    (s.modCk p (fun k => { k with early := satTo 16 (k.early + 1) })).logDecision "early ring" p cause
  else s

/-- The release of the present barrier: a ring announced complete at the release before becomes C, a new ring point opens K,
the block of the ecycle opens, admissions are made, every fold swaps, and the capture is handed to the engine. `ring` says
that the barrier is a ring point, whose ring may be made already, `trig` that the span's trigger stands for capture b − 2. -/
def State.releaseBarrier (s : State) (p : Nat) (ring kAnnounced trig : Bool) : State :=
  let b := (s.pas p).stat.ecycle
  let s := if (s.pas p).span.kComplete ∧ (s.pas p).ck.kHeld then s.promote p else s
  let s := s.modSpan p (fun x => { x with
    kComplete := kAnnounced, arrived := [], arriveSent := false, ringReq := false,
    ringDone := if ring then [] else x.ringDone, trig := none })
  let asserts := s.assertSum p
  let stallMax := ((s.pasFolds p).map (fun f => (s.fold f).seq.stallSteps)).foldl max 0
  let closed := (s.pas p).ck.log.find? (fun k => b != 0 && k.ecycle == b - 1)
  let s : State := match closed with
    | some k => s.snapLog p k
    | none => s
  let s := if ring ∧ ¬ s.ringMade p then s.openRing p b else s
  let s := s.openBlock p b ring
  let s := s.flowAdmit p
  if s.pstate p = .faulted then s
  else
    let s := (s.pasFolds p).foldl (fun s f => s.modFold f (fun x => x.swap b ring)) s
    let s := if b = 0 then s else s.capture p (b - 1) asserts stallMax
    let s := if (s.acqOf p).spanTrig ∧ 2 ≤ b then s.acqRelease p (b - 2) (if trig then some (b - 2) else none) else s
    let s := if ring then s.snapStart p b else s
    let s := s.modCk p (fun k => { k with
      replayLog := k.replayLog.filter (fun x => decide (b < x.ecycle) || !x.words.isEmpty)
      runLog := k.runLog.filter (fun x => decide (b < x.ecycle) || !x.words.isEmpty) })
    let guard := if s.spanning p then 4 else 0
    let s := s.modRun p (fun r => { r.unreleased with
      taken := false, ecySteps := 0, waitSteps := 0, flowSteps := 0, dmLate := 0, climb := 0, guard := guard })
    let s := s.modExt p (fun x => { x with readyFor := none })
    let s := s.modWdog p (fun w => { w with counter := 0, fresh := true })
    if s.pstate p = .loaded then s.setPState p .running else s

/-- RELEASE's body (Table 13-2). -/
def releaseBody (p b : Nat) (ring kAnnounced trig : Bool) (number : Nat) : Nat :=
  packFields [(0, 4, p), (4, 8, b), (12, 1, b2n ring), (13, 1, b2n kAnnounced), (14, 1, b2n trig), (16, 16, number)]

/-- Whether the engine's own trigger stands for capture b − 2; a trigger takes effect only in ARMED (R246, R255). -/
def State.ownTrig (s : State) (p b : Nat) : Bool :=
  let a := s.acqOf p
  a.spanTrig && a.state == .armed && decide (2 ≤ b) &&
    a.held.any (fun h => h.cap.ecycle == b - 2 && h.trigger && !h.cap.wrap)

/-- A RELEASE goes to every child (R117). -/
def State.releaseDown (s : State) (p body : Nat) : State :=
  (s.pas p).comp.children.foldl (fun s c => s.linkTx (s.port c).linkLow ctRelease body []) s

/-- The root releases its barrier: it decides the ring point, the announcement of K and the span's trigger, and sends them
down (R116, R255, R268, R271). -/
def State.rootRelease (s : State) (p : Nat) : State :=
  let s := if (s.acqOf p).spanTrig then s.acqDrain p else s
  let x := s.pas p
  let b := x.stat.ecycle
  let cause := s.ringNow p
  let ring := cause.isSome || s.ringMade p
  let k := s.spanning p && x.ck.kHeld && !x.span.kComplete && x.comp.children.all (fun c => x.span.ringDone.contains c)
  let trig := s.ownTrig p b || x.span.trig.isSome
  let s := match cause with
    | some c => s.countRing p c
    | none => s
  let s := s.releaseBarrier p ring k trig
  if s.pstate p = .faulted then s else s.releaseDown p (releaseBody p b ring k trig (s.pas p).ck.currentNo)

/-- A member performs the RELEASE it has taken, and has sent it down already. At a ring point it waits for the snapshot it still copies
(R258). -/
def State.memberRelease (s : State) (p : Nat) : State :=
  match (s.pas p).run.relTok with
  | some body =>
    if bitOf body 12 ∧ ¬ s.ringMade p ∧ (s.snap p).active ∧ ¬ (s.snap p).memDone then s
    else s.releaseBarrier p (bitOf body 12) (bitOf body 13) (bitOf body 14)
  | none => s

/-- The root releases a barrier once every fold has arrived and no wait is pending (R114), a latched event being used up; a member once
its parent's RELEASE has come. -/
def State.tryRelease (s : State) (p : Nat) : State :=
  if s.isRoot p then
    if s.barrierReady p && (!s.eventWait p || (s.pas p).committed) then
      let s := if (s.pas p).releasing then s else s.modExt p (fun x => { x with latched := false })
      s.rootRelease p
    else s
  else if s.running p || s.pstate p == .loaded then (if s.dev.mode = .hold then s else s.memberRelease p)
  else s

/-- One step of a barrier through the phases of Table 4-7: the climb, the decision, and the descent, at whose end it releases. A
latched event costs its crossing again, as in the example of R195 (DEDUCED, log 40). The guard of a span counts down after it
(R118). -/
def State.barrierStep (s : State) (p : Nat) : State :=
  let s := s.modRun p (fun r => { r with
    climb := if s.barrierComplete p then min 64 (r.climb + 1) else 0, guard := r.guard - 1 })
  match (s.pas p).run.descent with
  | some 0 => s.tryRelease p
  | some (n + 1) => s.modRun p (fun r => { r with descent := some n })
  | none =>
    if s.isRoot p && s.ready p && !s.eventWait p then
      if (s.pas p).ext.latched then
        (s.modExt p (fun x => { x with latched := false })).modRun p (fun r => { r with cross := some 3, event := 2 })
      else s.modRun p (fun r => { r with descent := some ((s.pas p).descentSteps + 2) })
    else s

/-- A step of the root's own clock for an event on its way into the root's island: at the end of its crossing it commits the release
(R98, R194). -/
def State.crossStep (s : State) (p : Nat) : State :=
  match (s.pas p).run.cross with
  | none => s
  | some n =>
    if n ≤ 1 then s.modRun p (fun r => { r with cross := none, descent := some ((s.pas p).descentSteps + 2) })
    else s.modRun p (fun r => { r with cross := some (n - 1) })

/-- The release of a pasture's barrier. -/
def execBarrierRelease (pasture : Nat) (s : State) : Host.Outcome State Fault Refusal := .next (s.tryRelease pasture)

/-! ### Arrival (R113, R116, R117) -/

/-- ARRIVE's body, with K's number where a ring matter is reported (Table 13-2). -/
def arriveBody (p b : Nat) (req done asrt trig : Bool) (number : Nat) : Nat :=
  packFields [(0, 4, p), (4, 8, b), (12, 1, b2n req), (13, 1, b2n done), (14, 1, b2n asrt), (15, 1, b2n trig),
    (16, 16, number)]

/-- A member below the root sends its arrival once its folds and its children have arrived, the arrivals have climbed to its package node
(Table 4-7) and its own waits are over (DEDUCED, log 20). An ASSERT_COUNT goes directly before an ARRIVE that bears ASSERT. -/
def State.sendArrive (s : State) (p : Nat) : State :=
  match (s.pas p).comp.parent with
  | none => s
  | some up =>
    if (s.pas p).span.arriveSent ∨ ¬ s.barrierComplete p ∨ (s.pas p).run.climb ≤ (s.pas p).climbSteps ∨ s.localWait p ∨
        (s.pas p).stat.join ≠ 2 ∨ (s.pas p).span.choosing ∨ ¬ ((s.pstate p).evaluates ∨ s.pstate p = .loaded) ∨ ¬ s.linkActive up then s
    else
      let s := if (s.acqOf p).spanTrig then s.acqDrain p else s
      let x := s.pas p
      let b := x.stat.ecycle
      let n := x.span.memberAssert
      let done := x.ck.kHeld && !x.span.kComplete && x.comp.children.all (fun c => x.span.ringDone.contains c)
      let req := (s.ringOwnCause p).isSome || x.span.ringReq
      let trig := s.ownTrig p b || x.span.trig.isSome
      let low := (s.port up).linkLow
      let s := if n = 0 then s else s.linkTx low ctAssertCount (p + 16 * (n % 2 ^ 21)) []
      let s := s.linkTx low ctArrive (arriveBody p b req done (decide (n ≠ 0)) trig x.ck.currentNo) []
      s.modSpan p (fun y => { y with
        arriveSent := true, memberAssert := 0, memberTotal := satTo 32 (y.memberTotal + n) })

/-- What follows when a barrier may have become complete: the root judges the assertions and the stops, a member sends its
arrival. -/
def State.barrierReached (s : State) (p : Nat) : State :=
  if s.barrierComplete p then
    if s.isRoot p then
      if s.pstate p = .recovering then s else (s.assertStop p).judgeStops p
    else s.sendArrive p
  else s

/-- Every fold has arrived: the ecycle closes (R184, R196). -/
def State.closeEcycle (s : State) (p : Nat) : State :=
  let e := (s.pas p).stat.ecycle
  let s := s.handover p e
  let s := s.modStat p (fun t => { t with ecycle := wrapTo 64 (e + 1) })
  let s := s.modRun p (fun r => { r with
    taken := (s.portsOf p rolePortOut).isEmpty, waitSteps := 0, climb := 0, descent := none })
  s.barrierReached p

/-- The fold's BARRIER slot has completed and it arrives (R113). With no PROBE slot its probe latch is taken at the swap,
and with no RING slot its state is final now (R47). -/
def State.arrive (s : State) (f p : Nat) : State :=
  let s := s.modSeq f (fun q => { q with arrived := true, ended := false, stateFinal := true, cause := 0 })
  if s.allArrived p then s.closeEcycle p else s

/-- A fold arrives at the barrier (R113). -/
def execBarrierArrival (fold : Nat) (s : State) : Host.Outcome State Fault Refusal :=
  let x := s.fold fold
  .next (match x.pasture with
    | some p => if x.seq.ended ∧ ¬ x.seq.arrived ∧ s.running p then s.arrive fold p else s
    | none => s)

/-! ### Control faults and recovery (R276–R281) -/

/-- Undo entries after the marker of ring `r`, and those up to and with it. -/
def undoSplit (u : List Undo) (r : Nat) : List Undo × List Undo :=
  let isMark (x : Undo) : Bool := match x with
    | .marker _ e => e == r
    | _ => false
  let kept := u.takeWhile (fun x => !isMark x) ++ (u.dropWhile (fun x => !isMark x)).take 1
  (u.drop kept.length, kept)

/-- Apply one undo entry. -/
def State.applyUndo (s : State) : Undo → State
  | .hbm a old => { s with hbm := memWrite s.hbm a (leBytes 8 old.toNat) }
  | .pad q k old => s.modPair q (fun x => x.setWord k old)
  | .marker _ _ => s

/-- A fold restored to ring `r` (step 6): current, next and shadow cells of the state entries from the record, read records
armed, every fold at barrier r. -/
def Fold.restore (x : Fold) (r : Nat) (rg : FoldRing) : Fold :=
  let put (t : Tab Bool) : Tab Bool :=
    x.store.smap.foldl (fun t e => if e.2 then tput t false e.1 (tget rg.cells false e.1) else t) t
  { x with
    nrf := { cur := put x.nrf.cur, nxt := put x.nrf.nxt, shd := put x.nrf.shd }
    latch := AssertLatch.init
    dm := { x.dm with queue := rg.reads.map (fun d => {
      kind := .rd, ecycle := r, addr := 0, dueSlot := d.slot, dueEcy := r + d.after, group := d.group, data := 0,
      mask := 0, word := some d.word, acc := false }) }
    seq := { FoldSeq.init with lastSlot := x.seq.lastSlot, stallMark := x.seq.stallMark, arrived := true, stateFinal := true,
                               waking := x.seq.waking }
    ringC := rg
    ringK := FoldRing.init }

/-- A cycle-start event whose release a rollback takes back is not lost: a new one is an overrun, the latched one is latched again, or
both go where a further one has been latched since (R195). -/
def State.returnEvent (s : State) (p : Nat) : State :=
  let x := s.pas p
  if ¬ x.releasing ∨ x.stat.runMode ≠ .extclk then s
  else if x.run.event = 2 ∧ ¬ x.ext.latched then s.modExt p (fun e => { e with latched := true })
  else if x.run.event = 0 then s
  else
    let s := if x.run.event = 1 then
        (s.modExt p (fun e => { e with overruns := satTo 16 (e.overruns + 1) })).pasEvent p pevOverrun
      else s
    let stop (s : State) : State := s.modRun p (fun r => { r with stops := r.stops ++ [6] })
    if x.run.event = 1 ∧ x.run.ovrPolicy = 0 then stop s
    else if x.ext.latched then stop (s.modExt p (fun e => { e with latched := false, dropped := satTo 8 (e.dropped + 2) }))
    else s.modExt p (fun e => { e with latched := true })

/-- Steps 3, 4 and 6 of Table 10-8: the ring is K where it is complete, in a span on every member (`useK`), else C; the undo entries after
its marker are applied from the newest to the oldest and discarded; state, ECYCLE and the ring count go back to it. -/
def State.rollback (s : State) (p : Nat) (useK : Bool) : State :=
  let s := s.returnEvent p
  let s := if (s.pas p).ck.kHeld ∧ useK then s.promote p else s
  let k := (s.pas p).ck
  let r := k.cEcycle
  let (gone, kept) := undoSplit k.undo r
  let s := gone.reverse.foldl (fun s u => s.applyUndo u) s
  let s := (s.pasFolds p).foldl (fun s f => s.modFold f (fun x => x.restore r x.ringC)) s
  let s := s.modCk p (fun k => { k with
    undo := kept, spUndo := [], dmUndo := 0, runTicks := 0, copying := false, kHeld := false, currentNo := k.completeNo,
    kEcycle := r, hostReq := false })
  let s := s.modSpan p (fun x => { x with
    arrived := [], arriveSent := false, ringReq := false, ringDone := [], trig := none, kComplete := false,
    memberAssert := 0, choosing := false, repFrom := [], repAll := true })
  let s := s.modRun p (fun q => { q.unreleased with
    taken := true, ecySteps := 0, waitSteps := 0, flowSteps := 0, dmLate := 0, climb := 64, guard := 0 })
  let s := s.modPFlow p (fun w => { w with bpWait := false })
  (s.snapAbandon p r).modStat p (fun t => { t with ecycle := r })

/-- Step 2 of Table 10-8: deep memory writes issued are performed; fold-to-fold channels, link buffers and their credits,
and words toward the fabric not yet taken are emptied; paths and fold-side FIFOs from the fabric are emptied, their words
being logged. -/
def State.quiesce (s : State) (p : Nat) : State :=
  let s := s.dmFlush p
  let s := (s.pas p).comp.pairs.foldl (fun s q => s.modPair q (fun x => { x with port := [] })) s
  let s := s.modPas p (fun x => { x with chans := x.chans.map (fun c =>
    { c with srcFifo := if c.srcKind = .edge then c.srcFifo else [], path := [], dstFifo := [] }) })
  let s := s.modRun p (fun r => { r with sendQ := [], sendNew := [] })
  (s.pas p).comp.linkPorts.foldl (fun s t =>
    let low := (s.port t).linkLow
    let keys := (List.range 16).map (fun i => 16 * (t - low) + i)
    s.modPort low (fun q => { q with
      rxWords := keys.foldl tdel q.rxWords, credits := keys.foldl tdel q.credits, owed := keys.foldl tdel q.owed })) s

/-- Words sent on a fold-to-fabric channel count from the ring's ecycle (R279). -/
def State.resend (s : State) (p r : Nat) : State :=
  s.modPas p (fun x => { x with chans := x.chans.map (fun c => { c with sent := c.count * r }) })

/-- The inputs that the log serves again: the blocks from ring `r` on (step 7). -/
def State.replayFrom (s : State) (p r : Nat) : State :=
  s.modPas p (fun x => { x with ck := { x.ck with replayLog := x.logFromRing r } })

/-- Step 1: the stop position of every fold. -/
def State.recordStops (s : State) (p : Nat) : State :=
  let all := s.allArrived p
  let e := (s.pas p).stat.ecycle
  let stop (x : Fold) : Nat × Nat × Bool :=
    if x.seq.arrived then (if all then e else e + 1, 0, true) else (e, x.seq.slot, false)
  (s.pasFolds p).foldl (fun s f => s.modFold f (fun x => { x with stopAt := some (stop x) })) s

/-- The rewrite of step 5: every slot with a double-bit error is written again from the image copy, so no error of that slot stays. -/
def FoldEcc.rewriteBad (c : FoldEcc) : FoldEcc :=
  { c with errs := c.errs.filter (fun e => !(c.errs.any (fun d => d.1 == e.1 && d.2.2))) }
def State.rewriteStores (s : State) (p : Nat) : State :=
  (s.pasFolds p).foldl (fun s f => s.modFold f (fun x => { x with ecc := x.ecc.rewriteBad })) s

/-- Steps 3 to 7: roll back, rewrite, and arm the log. -/
def State.restoreRing (s : State) (p : Nat) (useK : Bool) : State :=
  let s := s.rollback p useK
  let r := (s.pas p).stat.ecycle
  let s := ((s.rewriteStores p).resend p r).replayFrom p r
  let s := s.modCk p (fun k => { k with afterRec := true })
  s.sendArrive p

/-- Step 3 in a span: the reports that K is complete go up the tree, each as an ARRIVE with RING_DONE and K's number for the barrier of
ring C, and the root's choice comes down as a RELEASE with K_COMPLETE, K's number or C's, for that barrier (DESIGN CHOICE, log 20: R278
and Table 10-9 give the exchange, and no other block carries a ring number). Every link of the tree must be ACTIVE (R284). -/
def State.chooseStep (s : State) (p : Nat) : State :=
  let x := s.pas p
  if ¬ x.span.choosing ∨ ¬ x.comp.children.all (fun c => x.span.repFrom.contains c) ∨
      ¬ (s.treePorts p).all (fun t => s.linkActive t) ∨ s.dev.mode = .hold then s
  else
    let done := x.ck.kHeld && x.span.repAll
    let number := if done then x.ck.currentNo else x.ck.completeNo
    match x.comp.parent with
    | none => (s.releaseDown p (releaseBody p x.ck.cEcycle false done false number)).restoreRing p done
    | some up =>
      if x.span.arriveSent then s
      else (s.linkTx (s.port up).linkLow ctArrive (arriveBody p x.ck.cEcycle false done false false number) []).modSpan p
        (fun y => { y with arriveSent := true })

/-- A report of a child while the ring is chosen; a token sent before the fault is discarded. -/
def State.reportIn (s : State) (p child body : Nat) : State :=
  let x := s.pas p
  if bitsOf body 4 8 ≠ x.ck.cEcycle % 256 then s
  else
    (s.modSpan p (fun y => { y with
      repFrom := if y.repFrom.contains child then y.repFrom else y.repFrom ++ [child]
      repAll := y.repAll && bitOf body 13 })).chooseStep p

/-- The choice of the root while the ring is chosen; a token sent before the fault is discarded. -/
def State.choiceIn (s : State) (p body : Nat) : State :=
  let x := s.pas p
  if ¬ x.span.arriveSent ∨ bitsOf body 4 8 ≠ x.ck.cEcycle % 256 then s
  else (s.releaseDown p body).restoreRing p (bitOf body 13)

/-- Step 1: a pasture that is not yet recovering keeps its stop positions and the state to return to. -/
def State.stopPasture (s : State) (p status faults : Nat) : State :=
  let x := s.pas p
  let e := x.stat.ecycle
  match x.ck.recovery with
  | some r => s.modCk p (fun k => { k with recovery := some { r with status := status, faults := faults } })
  | none =>
    let rel := if s.allArrived p then e else e + 1
    (s.recordStops p).modCk p (fun k => { k with recovery := some {
      faultEcy := e, released := rel, back := x.stat.state, backCause := x.stat.freezeCause, status := status,
      faults := faults } })

/-- Steps 1 and 2 at HOLD entry (R285): what is in flight is completed or dropped, and a ring copy abandoned. -/
def State.holdStop (s : State) (p : Nat) : State :=
  let n := ((s.pas p).ck.recovery.map Recovery.faults).getD 0
  ((s.stopPasture p 0x0701 n).quiesce p).modCk p (fun k => { k with
    copying := false, currentNo := if k.copying then k.completeNo else k.currentNo })

/-- Steps 1 and 2, then the choice of the ring: a pasture that is not yet recovering keeps its stop positions and the state to return to.
On one device the ring is chosen, and the pasture rolled back, at once. `faults` counts the faults of the window (R281). -/
def State.beginRecovery (s : State) (p status faults : Nat) : State :=
  let s := (s.stopPasture p status faults).setPState p .recovering
  let s := s.quiesce p
  if s.spanning p then
    (s.modSpan p (fun y => { y with choosing := true, repFrom := [], repAll := true, arriveSent := false })).chooseStep p
  else s.restoreRing p true

/-- A fault token to every neighbour in the device tree but the one it came from (R125, R276). -/
def State.sendFault (s : State) (p status : Nat) (fromPort : Option Nat) : State :=
  if s.spanning p then
    ((s.treePorts p).filter (fun t => some t != fromPort)).foldl
      (fun s t => s.linkTx (s.port t).linkLow ctFault (p + 16 * status) []) s
  else s

/-- Whether a fault waits until the mode allows it (R30). -/
def State.faultWaits (s : State) : Bool := s.dev.mode == .hold || s.dev.mode == .recover

/-- A control fault of a pasture (R23): recovery with rings, the third within one window ending in FAULTED (R281); FAULTED
without. In HOLD and RECOVER it waits until the mode allows it (R30). -/
def State.controlFault (s : State) (p status : Nat) (fromPort : Option Nat) : State :=
  match s.pstate p with
  | .loaded | .running | .stepping | .frozen | .recovering =>
    if s.faultWaits then
      s.modDev (fun d => { d with holdFaults := d.holdFaults ++ [(p, status)] })
    else if s.ringsOn p then
      let k := (s.pas p).ck
      let n := (k.recovery.map (fun r => r.faults + 1)).getD 1
      let s := s.modCk p (fun k => { k with attempts := if k.recovery.isSome then min 3 (k.attempts + 1) else 1 })
      if 3 ≤ n then s.faultPas p 0x060C fromPort
      else ((s.noteFault p status).sendFault p status fromPort).beginRecovery p status n
    else s.faultPas p status fromPort
  | _ => s

/-- The causes of a rollback that is no fault of Table 10-6: a supply event and a retention loss (R285, R286). -/
def dipStatus (status : Nat) : Bool := status == 0x0701 || status == 0x060D

/-- The rollback of a pasture with rings for a supply event or a retention loss, of this device or told by a token; it is a recovery of
its own (R285, R286, R289), and no fault of the window that R281 counts (DEDUCED, log 31). Without rings a loss is a fault. -/
def State.dipFault (s : State) (p status : Nat) (fromPort : Option Nat) : State :=
  match s.pstate p with
  | .loaded | .running | .stepping | .frozen | .recovering =>
    if s.faultWaits then s.modDev (fun d => { d with holdFaults := d.holdFaults ++ [(p, status)] })
    else if s.ringsOn p then
      let again := s.pstate p == .recovering
      let n := ((s.pas p).ck.recovery.map Recovery.faults).getD 0
      let s := s.modCk p (fun k => { k with attempts := if again then min 3 (k.attempts + 1) else 1 })
      ((s.noteFault p status).sendFault p status fromPort).beginRecovery p status n
    else s.faultPas p status fromPort
  | _ => s

/-- A pasture keeps its state with LAST_STATUS SUPPLY_EVENT. -/
def State.markSupply (s : State) (p : Nat) : State := (s.setLastStatus p 0x0701).pasEvent p pevSupply

/-- Faults that waited out HOLD or RECOVER (R30). -/
def State.settleFaults (s : State) : State :=
  let l := s.dev.holdFaults
  l.foldl (fun s e => if dipStatus e.2 then s.dipFault e.1 e.2 none else s.controlFault e.1 e.2 none)
    (s.modDev (fun d => { d with holdFaults := [] }))

/-- RECOVER ends when every pasture with rings has resumed (Table 1-8). -/
def State.leaveRecover (s : State) : State :=
  if s.dev.mode = .recover ∧ ¬ s.anyPas (fun t => t == .recovering) then
    (s.setMode (if s.anyPas PState.runs then .emulate else .service)).settleFaults
  else s

/-- The bound of an interruption in ns: 2 ms for a supply event or retention loss, else R284. -/
def recoveryBound (status : Nat) (spans : Bool) : Nat :=
  if status = 0x0701 ∨ status = 0x060D then 2000000 else if spans then 600000 else 250000

/-- Step 8: the pasture takes back its state with its pending stop; the registers of R289 follow. -/
def State.endRecovery (s : State) (p ns : Nat) (r : Recovery) : State :=
  let met := decide (ns ≤ recoveryBound r.status (s.spanning p))
  let s := (s.modCk p (fun k => { k with
    recovery := none, boundMet := met, durationNs := satTo 32 ns,
    recoveries := satTo 8 (k.recoveries + 1) })).raiseVector (65 + p)
  let s := (s.pasFolds p).foldl (fun s f => s.modFold f (fun x => { x with stopAt := none })) s
  let s := s.setPState p r.back
  let s := if r.back = .frozen then s.modStat p (fun t => { t with freezeCause := r.backCause }) else s
  let s := if r.back = .loaded ∧ (s.pas p).run.holdAt.isSome then s.freezeAt p 1 else s
  let s := if (s.pstate p).runs then s else s.modRun p (fun q => { q with holdAt := none })
  let s := s.pasEvent p pevRecovered
  let s := s.leaveRecover
  if s.allArrived p then s.barrierReached p else s

/-- Recovery ends once every fold has reached its stop position (Table 10-8 step 8). -/
def execRecoveryComplete (pasture durationNs : Nat) (s : State) : Host.Outcome State Fault Refusal :=
  .next (match (s.pas pasture).ck.recovery with
    | some r =>
      if s.pstate pasture = .recovering ∧ s.recoveryReached pasture then s.endRecovery pasture durationNs r else s
    | none => s)

/-- An image copy word has failed its check: FAULTED with 0x0603 and its report (R57, R277). Met in step 5 of a recovery it
comes before step 6, so F is that of the fault being recovered. -/
def State.imageCopyFault (s : State) (f slot : Nat) : State :=
  match (s.fold f).pasture with
  | none => s
  | some p =>
    let k := (s.pas p).ck
    let e := if s.pstate p = .recovering then k.faultEcy else (s.pas p).stat.ecycle
    (s.faultReported p { status := 0x0603, unit := f, slot := slot, index := 0, fields := 0, dir := false,
                         valid := true, ecycle := e }).modCk p (fun c => { c with
      faultEcy := if s.pstate p = .recovering then e else c.faultEcy })

/-- A double-bit error of a store word. -/
def State.storeDbe (s : State) (f slot : Nat) (bp : Option Nat) (byScrub : Bool) : State :=
  let s := s.modFold f (fun x => { x with ecc := x.ecc.note slot bp true byScrub })
  match (s.fold f).pasture with
  | some p => s.controlFault p 0x0601 none
  | none => s

/-- A single-bit error in a store word: each fetch of the slot finds it, corrects it and counts it, until the scrubber has rewritten
the word (R56). -/
def State.storeSbe (s : State) (f slot : Nat) (bp : Option Nat) : State :=
  s.modFold f (fun x => { x with ecc := { x.ecc with
    errs := if x.ecc.errs.contains (slot, bp, false) then x.ecc.errs else x.ecc.errs ++ [(slot, bp, false)] } })

/-- The pairs under a node of the bellwether tree (R16, R112). -/
def nodeCovers : TreeNode → Nat → Bool
  | .pair n, q => q == n
  | .row d r, q => dieOfPair q == d && q % 64 / 8 == r
  | .die d, q => dieOfPair q == d
  | .package, _ => true

/-- The root level from which a node carries tokens of a pasture: a pair or row node of any pasture that lies under it, a die or package
node of those whose root is at it or above. -/
def nodeLevel : TreeNode → Nat
  | .pair _ | .row _ _ => 1
  | .die _ => 2
  | .package => 3

/-- The pastures that use a node's segment of the tree (Table 1-4). -/
def State.treeUsers (s : State) (n : TreeNode) : List Nat :=
  numsWhere 16 (fun p => let x := s.pas p
    decide (nodeLevel n ≤ x.comp.rootLevel) && x.comp.pairs.any (nodeCovers n))

/-- A detected control fault (R276, R277), or a single-bit error that is corrected. -/
def execControlFault (src : FaultSource) (s : State) : Host.Outcome State Fault Refusal :=
  .next (match src with
    | .storeDbe f slot bp byScrub => s.storeDbe f slot bp byScrub
    | .storeSbe f slot bp => s.storeSbe f slot bp
    | .seqParity f => match (s.fold f).pasture with
      | some p => s.controlFault p 0x0602 none
      | none => s
    | .treeParity n => (s.treeUsers n).foldl (fun s p => s.controlFault p 0x0606 none) s
    | .barrierParity p => s.controlFault p 0x0606 none
    | .linkControl p => s.controlFault p 0x060A none
    | .serviceParity p => s.controlFault p 0x060B none
    | .imageCopy f slot => s.imageCopyFault f slot)

/-! ### Rings (R269–R272) -/

/-- Whether ring K's copy may be complete: no read issued before its ring point is still without its word. -/
def State.ringReadsDone (s : State) (p : Nat) : Bool :=
  (s.pasFolds p).all (fun f => (s.fold f).dm.queue.all (fun r =>
    !(r.kind == .rd && r.word.isNone && decide (r.ecycle < (s.pas p).ck.kEcycle))))

/-- A host write makes the held barrier a ring point, copied at once while the pasture stays held (R272): as soon as the ring before is
complete, and its snapshot's memory copy done (R258, R268). The state that the ring holds is that at which its ecycle begins: the next
values. -/
def State.hostRing (s : State) (p : Nat) : State :=
  let x := s.pas p
  let b := x.stat.ecycle
  if ¬ s.hostRingDue p ∨ ¬ s.allArrived p ∨ (s.spanning p ∧ x.stat.state.runs) then s
  else if s.ringMade p then s.modCk p (fun k => { k with hostReq := false })
  else if x.ck.copying ∨ ((s.snap p).active ∧ ¬ (s.snap p).memDone) then s
  else
    let s := if x.ck.kHeld then s.promote p else s
    ((s.countRing p 6).openRing p b).snapStart p b

/-- A DIAG write has reached the memory of a pasture held at a barrier (R272). -/
def State.hostWrote (s : State) (p : Nat) : State :=
  match s.pstate p with
  | .loaded | .frozen => if s.ringsOn p then (s.modCk p (fun k => { k with hostReq := true })).hostRing p else s
  | _ => s

/-- Ring K is complete: it becomes C at once on one device; in a span C is released after the root's announcement
(R270, R271). A ring that a host write waits for is then made. -/
def State.ringComplete (s : State) (p : Nat) : State :=
  if (s.pas p).ck.copying ∧ s.ringReadsDone p ∧ s.dev.mode ≠ .hold then
    (if s.spanning p then s.modCk p (fun k => { k with copying := false, kHeld := true })
    else s.promote p).hostRing p
  else s

/-- Every fold record and outstanding read record of ring K is written (R269). In HOLD the copy stands still or is abandoned (R285). -/
def execRingComplete (pasture : Nat) (s : State) : Host.Outcome State Fault Refusal := .next (s.ringComplete pasture)

/-! ### Cycle-start events (R194, R195) -/

/-- An overrun of a pasture in EXTCLK. -/
def State.overrun (s : State) (p : Nat) : State :=
  let x := s.pas p
  let s := (s.modExt p (fun e => { e with overruns := satTo 16 (e.overruns + 1) })).pasEvent p pevOverrun
  let stop (s : State) : State := s.modRun p (fun r => { r with stops := r.stops ++ [6] })
  if x.run.ovrPolicy = 0 then
    (stop s).stopNow p
  else if x.ext.latched then
    (stop (s.modExt p (fun e => { e with latched := false, dropped := satTo 8 (e.dropped + 2) }))).stopNow p
  else s.modExt p (fun e => { e with latched := true })

/-- A cycle-start event for one pasture: it is taken for the ready barrier, whose release follows its crossing of 3 steps, is an
overrun, or meets a held pasture. -/
def State.cycStart (s : State) (p : Nat) : State :=
  match s.pstate p with
  | .running | .recovering =>
    if (s.pas p).stat.runMode = .extclk then
      if s.pstate p = .running ∧ s.ready p ∧ ¬ (s.pas p).ext.latched ∧ s.isRoot p then
        let slack := (s.pas p).ext.readyFor.getD 0
        (s.modExt p (fun e => { e with slackMin := min e.slackMin (satTo 16 slack) })).modRun p (fun r => { r with
          cross := some 3, event := 1 })
      else s.overrun p
    else s
  | .loaded | .frozen => s.modExt p (fun e => { e with heldEv := satTo 16 (e.heldEv + 1) })
  | _ => s

/-- A rising edge on CYC_START of an edge port, for the pastures whose last RUN EXTCLK named it (R194). -/
def State.cycEdge (s : State) (port : Nat) : State :=
  let ps := numsWhere 16 (fun p => (s.pas p).run.extPort == some port && (s.pas p).comp.edgePorts.contains port &&
    s.isRoot p)
  ps.foldl (fun s p => s.cycStart p) s

def execCycStart (port : Nat) (s : State) : Host.Outcome State Fault Refusal := .next (s.cycEdge port)

/-! ### The watchdog (R123–R126) -/

/-- The period in steps (Table 4-11). -/
def PWdog.period (w : PWdog) : Nat := 2 ^ (max 16 (min 36 w.periodLog2))

/-- STATE of FOLD_STATUS (Table 2-6). -/
def State.foldState (s : State) (f : Nat) : Nat :=
  let x := s.fold f
  if ¬ s.pairEnabled (pairOf f) ∨ (s.domain f).state ≠ .on then 0
  else match x.pasture with
    | none => 1
    | some p => match s.pstate p with
      | .empty | .loading | .draining => 1
      | .loaded => 4
      | .frozen => 5
      | .faulted => 6
      | _ => if x.seq.arrived then 4 else if x.seq.cause ≠ 0 then 3 else 2

/-- What a stalled fold waits on first (R110): the cause, the endpoint, the channel. -/
structure Wait where
  cause   : Nat
  ep      : Nat
  scratch : Bool
  chan    : Option Nat
deriving DecidableEq, Repr

def State.waitOf (s : State) (f p : Nat) : Option Wait :=
  let x := s.fold f
  let w := x.sideNow
  let rcv (k : Bool) : Wait := { cause := 1, ep := (w.rcv k).ep, scratch := false, chan := (s.pas p).chanInto f (w.rcv k).ep }
  let snd (k : Bool) : Wait := { cause := 2, ep := (w.snd k).ep, scratch := false, chan := (s.pas p).chanFrom f (w.snd k).ep }
  if x.seq.arrived ∨ x.seq.ended then none
  else if s.rcvStalls f p false then some (rcv false)
  else if s.rcvStalls f p true then some (rcv true)
  else if s.dmLate f p || s.dmFull f p then some { cause := 3, ep := 0, scratch := false, chan := none }
  else if x.spWaits false then some { cause := 3, ep := w.spa.spx, scratch := true, chan := none }
  else if x.spWaits true then some { cause := 3, ep := w.spb.spx, scratch := true, chan := none }
  else if s.sndStalls f p false then some (snd false)
  else if s.sndStalls f p true then some (snd true)
  else none

/-- A wait on an edge-port endpoint. -/
def State.waitEdge (s : State) (p : Nat) (w : Wait) : Bool :=
  match w.chan with
  | some c =>
    let ch := (s.pas p).chan c
    if w.cause = 1 then ch.srcKind == .edge else ch.dstKind == .edge
  | none => false

/-- The report on a fold (Tables 4-12 and 4-13). -/
def State.deadlockReport (s : State) (p f : Nat) (w : Option Wait) : State :=
  let peerFold (g id : Nat) (d : PWdog) : PWdog :=
    { d with peerKind := 0, peerId := id, peerSlot := (s.fold g).seq.slot, peerState := s.foldState g }
  let noPeer (d : PWdog) : PWdog := { d with peerKind := 7, peerId := 0, peerSlot := 0x3FF, peerState := 0 }
  s.modWdog p (fun d =>
    let d := { d with
      dlFold := f, dlSlot := (s.fold f).seq.slot, dlCause := (w.map Wait.cause).getD 0, dlEp := (w.map Wait.ep).getD 0,
      dlScratch := (w.map Wait.scratch).getD false }
    match w with
    | none => noPeer d
    | some v =>
      if v.scratch then peerFold (otherFold f) (8 * otherFold f) d
      else match v.chan with
        | none => noPeer d
        | some c =>
          let ch := (s.pas p).chan c
          let (k, id) := if v.cause = 1 then (ch.srcKind, ch.srcId) else (ch.dstKind, ch.dstId)
          if k = .fold then peerFold (id / 8) id d
          else { d with peerKind := k.code, peerId := id, peerSlot := 0x3FF, peerState := 0 })

/-- The report that a device fills when the schedule deadlock of another member faults the pasture (R125): on its own first waiting
fold, else its first fold. -/
def State.ownReport (s : State) (p : Nat) : State :=
  let folds := s.pasFolds p
  match folds.findSome? (fun f => (s.waitOf f p).map (fun w => (f, w))), folds with
  | some (f, w), _ => s.deadlockReport p f (some w)
  | none, f :: _ => s.deadlockReport p f none
  | none, [] => s

/-- The watchdog of a pasture reaches its period (Table 4-10); the pasture's event vector is raised in every case. -/
def State.watchdogExpire (s : State) (p : Nat) : State :=
  let folds := s.pasFolds p
  let waits := folds.filterMap (fun f => (s.waitOf f p).map (fun w => (f, w)))
  match waits.find? (fun e => s.waitEdge p e.2) with
  | some (f, w) =>
    let s := (s.deadlockReport p f (some w)).modWdog p (fun d => { d with extWait := true, counter := 0 })
    (s.raiseVector (65 + p)).pasEvent p pevExtWait
  | none => match waits with
    | (f, w) :: _ =>
      ((s.deadlockReport p f (some w)).raiseVector (65 + p)).faultPas p 0x0605 none
    | [] => match folds with
      | [] => s
      | f :: _ => (((s.deadlockReport p f none).modWdog p (fun d => { d with counter := 0 })).raiseVector (65 + p)).controlFault p 0x0606 none

/-- The watchdog expires (R124). -/
def execWatchdogExpiry (pasture : Nat) (s : State) : Host.Outcome State Fault Refusal :=
  let w := (s.pas pasture).wdog
  .next (
    if (s.pstate pasture).evaluates ∧ s.dev.mode ≠ .hold ∧ w.enable ∧ w.period ≤ w.counter then s.watchdogExpire pasture
    else s)

/-- The watchdog counts a step and expires where it reaches its period. It holds during a wait of R114 at a complete barrier, and on a member
whose ARRIVE is sent, since the waits of its root are not told to it (R123, R124, DEDUCED, log 20); a step in which it was cleared is
not counted. -/
def State.watchdogTick (s : State) (p : Nat) : State :=
  let x := s.pas p
  let waits := s.barrierComplete p &&
    ((!s.isRoot p && x.span.arriveSent) || s.listedWait p || s.ringWait p || (s.eventWait p && !x.releasing))
  if x.wdog.fresh then s.modWdog p (fun d => { d with fresh := false })
  else if s.running p && x.wdog.enable && !waits then
    let s := s.modWdog p (fun d => { d with counter := d.counter + 1 })
    if x.wdog.period ≤ x.wdog.counter + 1 then s.watchdogExpire p else s
  else s

/-! ### The scrubber (R55–R57) -/

/-- The two barrier steps in which slots 0 and 1 are fetched, the last two of the descent (R50, R115; DESIGN CHOICE, log 60). -/
def State.prefetching (s : State) (f : Nat) : Bool :=
  (s.fold f).seq.arrived && match (s.fold f).pasture with
  | some p => s.running p && ((s.pas p).run.descent == some 0 || (s.pas p).run.descent == some 1)
  | none => false

/-- A fetch-free step of a fold: a stall step, a barrier step but those of the prefetch, or any step of a fold that is not running (R55).
A fold that is disabled, or whose domain is not ON, takes no step. -/
def State.fetchFree (s : State) (f : Nat) : Bool :=
  s.pairEnabled (pairOf f) && (s.domain f).state == .on && !s.prefetching f &&
  match s.inSlot f with
  | none => true
  | some p => s.stallCause f p != 0

/-- The scrubber reads one slot index, all 256 instruction stores and the side word: each error is counted; one bit waits for its rewrite,
two bits in a word are a control fault. -/
def execScrubRead (fold : Nat) (found : List StoreErr) (s : State) : Host.Outcome State Fault Refusal :=
  let slot := (s.fold fold).ecc.scrubIdx
  .next (
    if ¬ s.fetchFree fold then s
    else
      let s := s.modFold fold (fun y => { y with ecc := { y.ecc with scrubIdx := (slot + 1) % 1024 } })
      let s := found.foldl (fun s e => s.modFold fold (fun y => { y with ecc := y.ecc.note slot e.bp e.double true })) s
      match found.any StoreErr.double, (s.fold fold).pasture with
      | true, some p => s.controlFault p 0x0601 none
      | _, _ => s)

/-- In a fetch-free step the scrubber rewrites the oldest single-bit error from the image copy; a copy word that fails its
check stops the rewrite and faults the pasture (R57). -/
def execScrubRewrite (fold : Nat) (copyGood : Bool) (s : State) : Host.Outcome State Fault Refusal :=
  let x := s.fold fold
  .next (
    match x.ecc.errs.find? (fun e => !e.2.2), x.pasture with
    | some e, some p =>
      if s.fetchFree fold ∧ s.pstate p ≠ .loading then
        if copyGood then s.modFold fold (fun y => { y with ecc := { y.ecc with errs := y.ecc.errs.erase e } })
        else s.imageCopyFault fold e.1
      else s
    | _, _ => s)

/-! ### Clearing the assertion record -/

/-- Writing 1 to VALID clears VALID and A_COUNT (R196). -/
def State.clearAssert (s : State) (p : Nat) : State :=
  (s.modPas p (fun x => { x with assert := { x.assert with valid := false, count := 0 } })).modSpan p
    (fun x => { x with memberTotal := 0 })

end Sys2Proof.Machine
end

