-- ==== Sys2Proof/Machine/Reset.lean ====
section
/-!
DEFINITION. Wipes and the device reset: what every reset clears and keeps, the failure records of a start, and the reset
sources that come from outside (R424, R448–R456, R462).
-/

namespace Sys2Proof.Machine

open Sys2Proof

/-! ### Sources and codes (Tables 18-1 and 18-6) -/

def srcPor : Nat := 0
def srcBod : Nat := 1
def srcPin : Nat := 2
def srcWdog : Nat := 3
def srcSwreq : Nat := 4
def srcDbgreq : Nat := 5
def srcClkfail : Nat := 6
def srcLockup : Nat := 7
def srcTherm : Nat := 8

/-- A failure record: [3:0] stage, [11:4] code, [15:12] DETAIL (Table 18-9). -/
def failRecord (stage code detail : Nat) : Nat := stage % 16 + 16 * (code % 256) + 4096 * (detail % 16)

/-- FAIL0 to FAIL2 shift by one and FAIL_COUNT saturates at 3; where neither slot verifies it becomes 3 at once (R457). -/
def BootRecord.fail (b : BootRecord) (code detail : Nat) : BootRecord :=
  { b with
    fail0 := failRecord b.stage code detail, fail1 := b.fail0, fail2 := b.fail1
    failCount := if code = 0x10 then 3 else min 3 (b.failCount + 1) }

/-- What a new start begins with: the fields of Table 18-9 that are not sticky. SLOT keeps its value until stage 2. -/
def BootRecord.restart (b : BootRecord) (kind : Nat) : BootRecord :=
  { b with stage := 1, inMinimal := false, startKind := kind, fallback := false, hbmOk := 0, hbmFail := 0 }

/-! ### Wipes (Table 16-8) -/

/-- A table with every record changed; records that become the default leave it. -/
def tmap {α : Type} [DecidableEq α] (t : Tab α) (d : α) (f : α → α) : Tab α :=
  t.filterMap (fun e => if f e.2 = d then none else some (e.1, f e.2))

/-- The cells of a fold that a wipe zeroes. -/
def Fold.wipeCells (x : Fold) : Fold :=
  { x with store := FoldStore.init, nrf := Nrf.init, ringC := FoldRing.init, ringK := FoldRing.init }

/-- Every SRAM outside the control complex, all HBM, the decision log of H1 among it, and the user flash partition. Registers
keep their values; every pasture is EMPTY (R28). -/
def State.wipeUnits (s : State) : State :=
  { s with
    folds := tmap s.folds Fold.init Fold.wipeCells
    pairs := tmap s.pairs Pair.init (fun q => { q with pads := [] })
    hbm := []
    ports := tmap s.ports LinkPort.init (fun e => { e with rxWords := [], wait := [], sent := [], txd := 0, line := [], group := [] })
    edge := { s.edge with flash := [], flashOwner := none }
    dev := { s.dev with log := [] }
    trace := { s.trace with landing := [] } }

/-- Every session ends and every ring's binding with it. -/
def State.endSessions (s : State) : State :=
  s.modHost (fun h => { h with
    sessions := [], rings := tmap h.rings CmdRing.init (fun r => { r with bound := none }) })

/-- The PCIe function after a reset of the device: the link went down, and nothing of the rings or vectors is left. Host
memory is the host's. -/
def HostSide.down (h : HostSide) : HostSide := { HostSide.init with mem := h.mem, badRanges := h.badRanges }

/-- The tally of the start that begins. -/
def Dev.restart (d : Dev) (b : BootRecord) (full : Bool) : Dev :=
  { Dev.init with cause := d.cause, boot := b, warned := d.warned, fullAttempt := full }

/-- Power after a reset: the folds of disabled pairs are OFF for the life of the device (R3). -/
def Pwr.fresh (i : Ident) : Pwr :=
  { Pwr.init with
    domains := (foldsOf i.absent).foldl (fun t f => tput t Domain.init f { Domain.init with state := .off }) [] }

/-- Everything a device reset does to the units (R449): wiped, every session ended, every pasture EMPTY, every lane DOWN,
the time base FREE, every bank latch clear, and every register at its reset value. -/
def State.resetUnits (s : State) : State :=
  { s with
    host := s.host.down, folds := [], pairs := [], hbm := [], pastures := [], mregions := [], mstatus := [],
    flow := FlowSide.init, acq := [], snaps := [], noc := Noc.init, lanes := [], ports := [], time := TimeBase.init,
    eth := [], edge := { Edge.init with tap := s.edge.tap }, pwr := Pwr.fresh s.ident, trace := Trace.init }

/-- A device reset of a source, with the failure (code, DETAIL) it records if it ends a start in progress (R448, R456). The
mode becomes BOOT and a start waits for its beginning. -/
def State.deviceReset (s : State) (src : Nat) (failure : Option (Nat × Nat)) : State :=
  let d := s.dev
  let b := match failure with
    | some (c, x) => if d.mode = Mode.boot ∧ d.booting then d.boot.fail c x else d.boot
    | none => d.boot
  let cause := { d.cause with cause := d.cause.cause ||| 2 ^ src, last := src }
  let s := s.resetUnits
  { s with dev := { (Dev.restart d (b.restart 0) false) with cause := cause } }

/-- Loss of VDD_AON (R449): only POR stays in RESET_CAUSE; BOOT_RECORD, the counter and the test access port are as new. -/
def State.powerOn (s : State) : State :=
  let s := s.resetUnits
  { s with dev := Dev.init, edge := Edge.init }

/-! ### Sources from outside -/

/-- VDD_AON falls below its level, or rises first (Table 18-1). -/
def execPor (s : State) : Host.Outcome State Fault Refusal := .next s.powerOn

/-- Whether a domain is ON. -/
def State.domainOn (s : State) (d : Nat) : Bool := (s.domain d).state == .on

def railDetail : Rail → Nat
  | .core => 0 | .sram => 1 | .lane => 2 | .hbm => 3

/-- Domain indices (Table 17-1). -/
def domFabric (die : Nat) : Nat := 512 + die
def domHbm (h : Nat) : Nat := 516 + h
def domQuad (q : Nat) : Nat := 522 + q
def domRegion (r : Nat) : Nat := 586 + r
def domBank (b : Nat) : Nat := 602 + b
def domCc : Nat := 626
def domAon : Nat := 627

/-- Whether the monitor of a rail acts (Table 18-3): VDD_SRAM and VDD_LANE while a domain they feed is ON, the HBM rails
while a stack is ON or in RET. In OFF only VDD_AON is supplied. -/
def State.railWatched (s : State) : Rail → Bool
  | .core => s.dev.mode != .off
  | .sram => s.dev.mode != .off && ((List.range 516).any (fun d => s.domainOn d) || s.domainOn domCc)
  | .lane => s.dev.mode != .off && (List.range 64).any (fun q => s.domainOn (domQuad q))
  | .hbm => s.dev.mode != .off && (List.range 6).any (fun h => (s.domain (domHbm h)).state != .off)

/-- A supply monitor of Table 18-3 takes the device to reset. -/
def execBod (rail : Rail) (s : State) : Host.Outcome State Fault Refusal :=
  .next (if s.railWatched rail then s.deviceReset srcBod (some (0x63, railDetail rail)) else s)

/-- RESET_N low for a time (R450): under 1 µs it is ignored, from 5 µs it is taken, and between the two the outcome is a
free value (DESIGN CHOICE, log 6). -/
def execResetN (lowNs : Nat) (s : State) : Host.Outcome State Fault Refusal :=
  .next (
    if lowNs < 1000 then s
    else if 5000 ≤ lowNs then s.deviceReset srcPin none
    else
      let (x, s) := s.draw 1
      if x = 1 then s.deviceReset srcPin none else s)

/-- Life-cycle codes (Table 16-5). -/
def lcBlank : Nat := 0
def lcProvisioned : Nat := 1
def lcField : Nat := 2
def lcReturn : Nat := 3
def lcEnded : Nat := 4

/-- The authorised diagnostic window is open in BLANK and RETURN (Table 16-7). -/
def State.diagOpen (s : State) : Bool := s.fuses.lcState == lcBlank || s.fuses.lcState == lcReturn

/-- A reset request through the diagnostic window (Table 18-1). -/
def execDbgreq (s : State) : Host.Outcome State Fault Refusal :=
  .next (if s.diagOpen ∧ s.dev.mode ≠ .off then s.deviceReset srcDbgreq none else s)

/-- Whether a clock island runs, so that its monitor judges it (R453): islands 0–601 are the domains of the same index; in
a start the clocks of stage 3 are not there before it. -/
def State.islandRuns (s : State) (i : Nat) : Bool :=
  if s.dev.mode = .off then i == 606
  else if i < 602 then
    (s.dev.mode != .boot || decide (3 ≤ s.dev.boot.stage)) && s.domainOn i && (decide (512 ≤ i) || s.pairEnabled (pairOf i))
  else if i = 602 then s.domainOn domCc
  else true

/-- A clock monitor raises CLKFAIL: the island is recorded and the device resets (R453). -/
def execClkfail (island : Nat) (s : State) : Host.Outcome State Fault Refusal :=
  .next (
    if s.islandRuns island then
      let s := s.modDev (fun d => { d with boot := { d.boot with clkIsland := island } })
      s.deviceReset srcClkfail (some (0x20, island % 16))
    else s)

/-- A stage overruns its bound: a WDOG reset, recorded as STAGE_TIMEOUT (R455). -/
def execBootWatchdog (s : State) : Host.Outcome State Fault Refusal :=
  .next (
    if s.dev.mode = .boot ∧ s.dev.booting ∧ s.dev.boot.stage < 10 then
      s.deviceReset srcWdog (some (0x50, s.dev.boot.stage))
    else s)

/-! ### Routers and the domains of registers -/

/-- The pair at a router, the router of a pair (R16). -/
def routerPair (r : Nat) : Nat :=
  let x := r % 16
  let y := r / 16
  64 * (x / 8 + 2 * (y / 8)) + 8 * (y % 8) + x % 8
def pairRouter (p : Nat) : Nat :=
  16 * ((p % 64) / 8 + 8 * (p / 128)) + (p % 8) + 8 * ((p / 64) % 2)

/-- The stack at a router's X port (Table 12-2). -/
def routerStack (r : Nat) : Option Nat :=
  let x := r % 16
  let y := r / 16
  if y = 0 then
    if x < 4 then some 0 else if x < 8 then some 1 else if 10 ≤ x ∧ x < 14 then some 2 else none
  else if y = 15 then
    if 2 ≤ x ∧ x < 6 then some 3 else if 8 ≤ x ∧ x < 12 then some 4 else if 12 ≤ x then some 5 else none
  else none

/-- The routers with an X port, in the order of Table 12-2. -/
def xRouters : List Nat :=
  [0, 1, 2, 3, 4, 5, 6, 7, 10, 11, 12, 13, 242, 243, 244, 245, 248, 249, 250, 251, 252, 253, 254, 255,
   16 * 3 + 3, 16 * 3 + 11, 16 * 11 + 3, 16 * 11 + 11]

/-- The compute die of a router (R15, R316). -/
def routerDie (r : Nat) : Nat := r % 16 / 8 + 2 * (r / 16 / 8)

/-- The domain a register lies in, where the domain decides what a read returns (R315, R331): folds; scratchpads, routers and
their regulators in the die fabrics; lanes and ports; regions and banks. -/
def regDomain (reg i : Nat) : Option Nat :=
  if reg ≤ 0x0005 then some i
  else if reg ≤ 0x0104 then some (domFabric (dieOfPair i))
  else if reg = 0x0501 then some (domFabric (dieOfPair (routerPair i)))
  else if reg = 0x0502 then
    if i / 4 < 256 then some (domFabric (dieOfPair (routerPair (i / 4))))
    else if i / 4 < 284 then some (domFabric (dieOfPair (routerPair (xRouters.getD (i / 4 - 256) 0))))
    else none
  else if reg = 0x0601 ∨ reg = 0x0602 then some (domQuad (i / 4))
  else if reg = 0x0603 ∨ reg = 0x0604 then some (domQuad (i / 2))
  else if reg = 0x0701 then some (domRegion i)
  else if reg = 0x0702 then some (domBank i)
  else none

end Sys2Proof.Machine
end

