-- ==== Sys2Proof/Machine/Power.lean ====
section
/-!
DEFINITION. Power domains, the choice of a state, entries and wakes, retention loss, the fall-back ladder, and the step
clocks under their limits (R428–R444, R480).
-/

namespace Sys2Proof.Machine

open Sys2Proof

/-! ### Domains (Table 17-1) -/

/-- Kinds of domain. -/
inductive DomKind where
  | fold | fabric | hbm | quad | region | bank | cc | aon
deriving DecidableEq, Repr

def domKind (d : Nat) : DomKind :=
  if d < 512 then .fold else if d < 516 then .fabric else if d < 522 then .hbm else if d < 586 then .quad
  else if d < 602 then .region else if d < 626 then .bank else if d = 626 then .cc else .aon

/-- Regions that use the pins of an I/O bank (R401). -/
def bankRegions (b : Nat) : List Nat :=
  let j := b % 12
  let r := 8 * (b / 12) + 2 * (j / 3)
  if j % 3 = 0 then [r] else if j % 3 = 1 then [r, r + 1] else [r + 1]

/-- Pastures 0–15 that are not EMPTY. -/
def State.livePastures (s : State) : List Nat := numsWhere 16 (fun p => s.pstate p != .empty)

/-- Whether an allocation lies at least partly in a stack. -/
def Alloc.inStack (a : Alloc) (h : Nat) : Bool :=
  decide (a.base < Config.stackBytes * (h + 1)) && decide (Config.stackBytes * h < a.base + a.size)

/-- Pastures with an allocation in a stack. -/
def State.stackPastures (s : State) (h : Nat) : List Nat :=
  s.livePastures.filter (fun p => (s.pas p).comp.allocs.any (fun a => a.inStack h))

/-- The pasture that a load in progress or a claim ties to a domain. -/
def State.domPastures (s : State) (d : Nat) : List Nat :=
  match domKind d with
  | .fold => (s.fold d).pasture.toList
  | .hbm => s.stackPastures (d - 516)
  | .quad => s.livePastures.filter (fun p => (s.pas p).comp.linkPorts.any (fun t => t / 2 == d - 522))
  | .region => (s.region (d - 586)).owner.toList
  | .bank => (bankRegions (d - 602)).filterMap (fun r => (s.region r).owner)
  | _ => []

/-- A pasture that may have its folds and memory at rest (Table 17-2). -/
def PState.rests : PState → Bool
  | .loaded | .frozen | .faulted => true
  | _ => false

/-- Lanes of a quad. -/
def quadLanes (q : Nat) : List Nat := [4 * q, 4 * q + 1, 4 * q + 2, 4 * q + 3]

def LaneState.quiet : LaneState → Bool
  | .down | .refused | .detect => true
  | _ => false

def LaneState.trains : LaneState → Bool
  | .train | .lock | .cap => true
  | _ => false

/-- Whether a transaction holds the drain of a domain open (R329): a request on its way or accepted and not yet answered, to a stack or to a
fold's half of its port F (the scratchpads have no half); or one that a stack's controller issued, whose SNP_ACK is awaited. -/
def State.inFlight (s : State) (d : Nat) : Bool :=
  s.noc.txns.any (fun t =>
    let r := 16 * bitsOf t.word0 4 4 + bitsOf t.word0 0 4
    let port := bitsOf t.word0 8 2
    let a := bitsOf t.word1 0 48
    !t.answered && !s.noc.waiting.any (fun x => x.pkt.word0 == t.word0) && match domKind d with
    | .hbm => port == 1 && routerStack r == some (d - 516)
    | .fold => port == 0 && r == pairRouter (d / 2) && decide (a / 2 ^ 32 < 0x100) &&
        (let g := Config.regOf r 0 a
         (t.opc != 0x06 && t.opc != 0x07) || regDomain g.1 g.2 == some d)
    | _ => false) ||
  (domKind d == .hbm && s.noc.invWait.any (fun e => e.ctl == 0x50 + (d - 516)))

/-- Idleness (Table 17-2). -/
def State.domIdle (s : State) (d : Nat) : Bool :=
  match domKind d with
  | .fold => (s.domPastures d).all (fun p => (s.pstate p).rests) && !s.inFlight d
  | .hbm => decide (518 ≤ d) && (s.domPastures d).all (fun p => (s.pstate p).rests) && !s.inFlight d
  | .quad => (quadLanes (d - 522)).all (fun l => (s.lane l).state.quiet)
  | .region => (s.region (d - 586)).state == .unconfigured
  | .bank => (bankRegions (d - 602)).all (fun r => (s.region r).state == .unconfigured)
  | _ => false

/-- A known event that makes T_next 0: a READY or RUNNING task whose source or sink queue lies in the stack. -/
def State.domEventNow (s : State) (d : Nat) : Bool :=
  match domKind d with
  | .hbm => s.flow.tasks.any (fun e =>
      let t := e.2
      t.owner.isSome && (t.tstate == .ready || t.tstate == .running) && t.moves &&
        [t.src, t.dst].any (fun q => (s.queue q).inHbm && (s.queue q).base / Config.stackBytes == d - 516))
  | _ => false

/-- RET and OFF under the per-domain scheme (Table 17-1): folds RET where a pasture holds them, OFF where none does. -/
def State.mayRet (s : State) (d : Nat) : Bool :=
  match domKind d with
  | .fold => (s.fold d).pasture.isSome
  | .hbm => decide (518 ≤ d)
  | .quad => true
  | _ => false
def State.mayOff (s : State) (d : Nat) : Bool :=
  match domKind d with
  | .fold => (s.fold d).pasture.isNone
  | .quad | .region | .bank => true
  | _ => false

/-! ### Refusers (Table 17-4) -/

/-- An engine whose run touches the domain. -/
def State.busyEngine (s : State) (d : Nat) : Option Nat :=
  match domKind d with
  | .hbm => (List.range Config.numEngines).find? (fun e =>
      match (s.engine e).run with
      | some (t, _) => (s.task t).moves && [(s.task t).src, (s.task t).dst].any (fun q =>
          (s.queue q).inHbm && (s.queue q).base / Config.stackBytes == d - 516)
      | none => false)
  | .cc => (List.range Config.numEngines).find? (fun e => (s.engine e).run.isSome)
  | _ => none

/-- The first refusal condition a domain meets. -/
def State.refuser (s : State) (d : Nat) : Option Nat :=
  let ps := s.domPastures d
  match s.busyEngine d with
  | some e => some (0x1000 + e)
  | none =>
    if domKind d = .quad ∧ (quadLanes (d - 522)).any (fun l => (s.lane l).state.trains) then some (0x2000 + (d - 522))
    else match ps.find? (fun p => !((s.acqOf p).waiting.isEmpty) || (s.snap p).active) with
      | some p => some (0x3000 + p)
      | none =>
        if s.dev.restarting then some 0x5000
        else if s.dev.mode = .hold then some 0x6000
        else match ps.find? (fun p => (s.pas p).ck.copying || s.pstate p == .recovering) with
          | some p =>
            some (0x7000 + (if domKind d = .fold then dieOfFold d else ((s.pas p).comp.pairs.head?.map dieOfPair).getD 0))
          | none => match ps.find? (fun p => s.pstate p == .loading || s.pstate p == .draining) with
            | some p => some (0x8000 + p)
            | none => none

/-- A refusal: tallied and the refuser recorded (R438). -/
def Domain.refuse (d : Domain) (code : Nat) : Domain :=
  { d with entry := .none, refuser := code, refused := satTo 16 (d.refused + 1) }

/-! ### Entries and wakes (R434–R436) -/

/-- What a commit does inside the domain. -/
def State.commitUnit (s : State) (d : Nat) (target : PowerState) : State :=
  match domKind d, target with
  | .fold, .off => s.modFold d (fun x => { Fold.init with pasture := x.pasture })
  | .quad, .off => (quadLanes (d - 522)).foldl (fun s l => s.modLane l (fun x => { Lane.init with
      state := x.state, shErrs := x.shErrs, retrains := x.retrains })) s
  | .bank, .off => s.modBank (d - 602) (fun b => { b with latched := true })
  | _, _ => s

/-- The commit of an entry: the state changes and the entry is tallied; RET_LOST is cleared by an entry into RET (R439). -/
def State.commitEntry (s : State) (d : Nat) (target : PowerState) (wakeAfter : Bool) : State :=
  let s := s.commitUnit d target
  s.modDomain d (fun x => { x with
    state := target, entry := .none, waking := wakeAfter, dipped := false
    retLost := x.retLost && target != .ret
    retEntries := if target = .ret then satTo 16 (x.retEntries + 1) else x.retEntries
    offEntries := if target = .off then satTo 16 (x.offEntries + 1) else x.offEntries })

/-- Begin an entry: a domain that meets a refuser stays; a domain in RET bound for OFF is already isolated; another one
closes its port and drains. -/
def State.beginEntry (s : State) (d : Nat) (target : PowerState) : State :=
  let x := s.domain d
  if x.state = target ∨ x.state = .off ∨ x.waking ∨ x.entry ≠ .none then s
  else match s.refuser d with
    | some c => s.modDomain d (fun y => y.refuse c)
    | none =>
      if x.state = .ret then s.commitEntry d target false
      else s.modDomain d (fun y => { y with entry := .draining target false })

/-- A wake demand (R432, R436): during an entry the wake follows it; a domain that is ON needs none. A disabled fold stays
OFF (R3), and what MINIMAL never starts stays OFF (R458). -/
def State.demandWake (s : State) (d : Nat) : State :=
  let x := s.domain d
  if domKind d = .fold ∧ ¬ s.pairEnabled (pairOf d) then s
  else if s.dev.mode = .minimal ∧ d < 626 then s
  else match x.entry with
    | .draining t _ => s.modDomain d (fun y => { y with entry := .draining t true })
    | .none => if x.state = .on then s else s.modDomain d (fun y => { y with waking := true })

def State.demandWakes (s : State) (l : List Nat) : State := l.foldl (fun s d => s.demandWake d) s

/-- Domains that a pasture's folds, memory, edge regions, their banks and link ports lie in. -/
def State.pasDomains (s : State) (p : Nat) : List Nat :=
  let c := (s.pas p).comp
  s.pasFolds p ++ (numsWhere 6 (fun h => c.allocs.any (fun a => a.inStack h))).map domHbm
    ++ c.regions.map domRegion ++ (numsWhere Config.numBanks (fun b => (bankRegions b).any (fun r => c.regions.contains r))).map domBank
    ++ (c.linkPorts.map (fun t => domQuad (t / 2))).dedup

/-- Entries that have not reached their commit are refused when HOLD or a control-complex restart begins (R437). -/
def State.refuseEntries (s : State) (code : Nat) : State :=
  (s.pwr.domains.map Prod.fst).foldl (fun s d =>
    if (s.domain d).entry = .none then s else s.modDomain d (fun x => x.refuse code)) s

/-- The per-domain choice for T_next in µs (R431). -/
def State.chosen (s : State) (d t : Nat) : PowerState :=
  if 20000 ≤ t ∧ s.mayOff d then .off else if 50 ≤ t ∧ s.mayRet d then .ret else .on

def PowerState.code : PowerState → Nat
  | .on => 0 | .ret => 1 | .off => 2

/-- Whether the device is up, so that firmware decides anything. -/
def State.up (s : State) : Bool := s.dev.mode != .off && s.dev.mode != .boot

/-- The device judges a domain under the per-domain scheme: an idle one is placed by T_next, with a DETECT poll at most
1 ms away; one that is not idle stays ON. The ladder replaces this choice (R441). -/
def execDomainDecision (domain tNextUs : Nat) (s : State) : Host.Outcome State Fault Refusal :=
  .next (
    if ¬ s.up ∨ s.pwr.ladder ≠ 7 ∨ s.dev.mode = .minimal then s
    else if domKind domain = .fold ∧ ¬ s.pairEnabled (pairOf domain) then s
    else if ¬ s.domIdle domain then s.demandWake domain
    else
      let detects : Bool := domKind domain == .quad && (quadLanes (domain - 522)).any (fun l => (s.lane l).state == .detect)
      let t := if s.domEventNow domain then 0 else if detects then min tNextUs 1000 else tNextUs
      let c := s.chosen domain t
      let s := s.modDomain domain (fun x => { x with tNextUs := satTo 32 t })
      let s := s.logDecision "power choice" domain (c.code + 4 * t)
      match c with
      | .on => s.demandWake domain
      | c => s.beginEntry domain c)

/-- The drain of a closing domain ends and the entry commits; in a span of service traffic to it the drain has not ended. -/
def execDrainComplete (domain : Nat) (s : State) : Host.Outcome State Fault Refusal :=
  .next (match (s.domain domain).entry with
    | .draining target wakeAfter => if s.inFlight domain then s else s.commitEntry domain target wakeAfter
    | .none => s)

/-- A drain past 5 µs aborts the entry and names the initiator that held it open (R330, R438). -/
def execDrainTimeout (domain init : Nat) (s : State) : Host.Outcome State Fault Refusal :=
  .next (match (s.domain domain).entry with
    | .draining _ _ => s.modDomain domain (fun x => { x with
        entry := .none, refuser := 0x4000 + init, aborted := satTo 16 (x.aborted + 1) })
    | .none => s)

/-! ### Retention loss (R439, R286) -/

/-- The stores of a fold that woke with RET_LOST are rewritten from the image copy, and its whole pasture recovers; without rings it is
FAULTED (R286). NRF cells that are not state entries, import windows among them, keep what they held: R54 and R286 name no value for them
(DESIGN CHOICE, log 62). -/
def State.loseFold (s : State) (f : Nat) : State :=
  let s := s.modFold f (fun x => { x with ecc := { x.ecc with errs := [] } })
  match (s.fold f).pasture with
  | some p => s.dipFault p 0x060D none
  | none => s

/-- What the device does about a domain that woke with RET_LOST. -/
def State.retentionLost (s : State) (d : Nat) : State :=
  let s := s.modDomain d (fun x => { x with retLost := true })
  match domKind d with
  | .fold => s.loseFold d
  | .hbm =>
    if d < 518 then s.deviceReset srcBod none
    else (s.stackPastures (d - 516)).foldl (fun s p => s.faultPas p 0x060D none) s
  | .quad => (quadLanes (d - 522)).foldl (fun s l => s.modLane l (fun x => { Lane.init with
      state := x.state, shErrs := x.shErrs, retrains := x.retrains })) s
  | .cc => s.deviceReset srcBod none
  | _ => s

/-- Leaving RET or OFF, the scrubber of a fold begins a full pass at index 0 (R55). -/
def Fold.startPass (x : Fold) : Fold := { x with ecc := { x.ecc with scrubIdx := 0 } }

/-- A waking domain is ON again with its ports open; a dip of its retention supply is then dealt with (R435, R439). -/
def execWakeComplete (domain : Nat) (s : State) : Host.Outcome State Fault Refusal :=
  let x := s.domain domain
  .next (
    if x.waking then
      let s := s.modDomain domain (fun y => { y with state := .on, waking := false, dipped := false })
      let s := if domKind domain = .fold ∧ x.state ≠ .on then s.modFold domain Fold.startPass else s
      if x.state = .ret ∧ x.dipped then s.retentionLost domain else s
    else s)

/-- The retention supply of a domain in RET falls below 0.55 V: its monitor latches the loss, which the wake acts on. -/
def execRetLost (domain : Nat) (s : State) : Host.Outcome State Fault Refusal :=
  .next (if (s.domain domain).state = .ret then s.modDomain domain (fun x => { x with dipped := true }) else s)

/-! ### Step clocks (R443, R444, R480) -/

/-- The lowest and highest operating points, their spacing, and a value rounded up to a point. -/
def minMhz : Nat := 500
def maxMhz : Nat := 1250
def pointUp (mhz : Nat) : Nat := min maxMhz (max minMhz ((mhz + 49) / 50 * 50))

/-- A pasture the die carries. -/
def State.dieHas (s : State) (d : Nat) (f : PState → Bool) : Bool :=
  s.pastures.any (fun e => f e.2.stat.state && e.2.comp.pairs.any (fun q => dieOfPair q == d))

/-- The point that the limits of Table 17-6 permit, with the code of the limit that decides it. -/
def State.diePoint (s : State) (d : Nat) : Nat × Nat :=
  let c := s.dieClk d
  let eff := if s.dieHas d PState.evaluates then maxMhz else minMhz
  let low := min c.thermCap eff
  let recovering := s.dieHas d (fun t => t == .recovering)
  let (m, lim) :=
    if recovering then (maxMhz, if low < maxMhz then 4 else 0)
    else if low = maxMhz then (maxMhz, 0)
    else (low, if c.thermCap ≤ eff then 5 else 6)
  let (m, lim) := if m < pointUp c.floor ∧ c.floor ≠ 0 then (pointUp c.floor, 3) else (m, lim)
  let (m, lim) := if c.powCap < m then (c.powCap, 2) else (m, lim)
  if c.hot ∧ (minMhz < m ∨ lim ≠ 0) then (minMhz, 1) else (m, lim)

/-- Bring a die toward its point: downward the frequency changes first and the lower voltage is written after it; upward the
higher voltage is written and the frequency waits for it (R480). Every change of point is logged. -/
def State.settleDie (s : State) (d : Nat) : State :=
  let c := s.dieClk d
  let (m, lim) := s.diePoint d
  let s := if c.limiter = lim then s else s.modDie d (fun x => { x with limiter := lim })
  if m < c.mhz then
    ((s.modDie d (fun x => { x with mhz := m, target := none, tries := 0 })).send (.voltage d m)).logDecision "step clock" d m
  else if m = c.mhz then
    if c.target.isSome then s.modDie d (fun x => { x with target := none, tries := 0 }) else s
  else if c.target = some m then s
  else (s.modDie d (fun x => { x with target := some m, tries := 0 })).send (.voltage d m)

/-- Every compute die. -/
def State.settleClocks (s : State) : State := if s.up then (List.range 4).foldl (fun s d => s.settleDie d) s else s

/-- 25 µs after the write of a higher voltage the frequency changes. A write that is not acknowledged is made again twice;
then the die keeps its point and the failure is logged. In HOLD the change waits. -/
def execVoltageSettle (die : Nat) (acked : Bool) (s : State) : Host.Outcome State Fault Refusal :=
  let c := s.dieClk die
  .next (match c.target with
    | some m =>
      if s.dev.mode = .hold ∨ 3 ≤ c.tries then s
      else if acked then
        (s.modDie die (fun x => { x with mhz := m, target := none, tries := 0 })).logDecision "step clock" die m
      else if c.tries < 2 then (s.modDie die (fun x => { x with tries := x.tries + 1 })).send (.voltage die m)
      else (s.modDie die (fun x => { x with tries := 3 })).logDecision "voltage write failed" die m
    | none => s)

/-! ### The fall-back ladder (R441, R442) -/

/-- Whether the control complex and every domain the step RUN keeps is to be ON. -/
def State.runDomains (s : State) : List Nat :=
  if s.dev.mode = .minimal then [domCc]
  else (s.pwr.domains.map Prod.fst).filter (fun d => domKind d != .fold || s.pairEnabled (pairOf d))

/-- IDLE and DEEP SLEEP stop every drover core that runs (R471). -/
def State.stopCores (s : State) (cause : Nat) : State :=
  let run := numsWhere Config.numCores (fun c => !(s.encoder c).gap)
  let s := run.foldl (fun s c => s.traceGap c cause) s
  s.modPwr (fun w => { w with stopped := w.stopped ++ run })

/-- The cores a ladder step stopped go on. -/
def State.wakeCores (s : State) : State :=
  let s := s.pwr.stopped.foldl (fun s c => s.traceWake c ((s.encoder c).nextAddr.getD (s.encoder c).ref)) s
  s.modPwr (fun w => { w with stopped := [] })

/-- A leaving event returns the device to step RUN. -/
def State.ladderToRun (s : State) : State :=
  let s := s.wakeCores.modPwr (fun w => { w with ladder := 0 })
  s.demandWakes s.runDomains

/-- Which events leave which step (Table 17-5). -/
def ladderLeaves (step : Nat) : LadderEvent → Bool
  | .w0Access => step == 1 || step == 3
  | .doorbell => step == 1 || step == 2 || step == 3
  | .wakePin => step == 1 || step == 2 || step == 3
  | .deviceEvent => step == 1
  | .thermal => step == 2

def State.ladderEvent (s : State) (e : LadderEvent) : State :=
  if ladderLeaves s.pwr.ladder e then s.ladderToRun else s

/-- A leaving event of the present step; a DEVICE_EVENTS bit is one where a bit is set. -/
def execLadderLeave (e : LadderEvent) (s : State) : Host.Outcome State Fault Refusal :=
  .next (if ¬ s.up ∨ (e = .deviceEvent ∧ s.dev.events = 0) then s else s.ladderEvent e)

/-- Whether a pasture that is not EMPTY keeps a domain ON in every step but OFF: its edge regions, banks and lane quads, and
what else it holds but folds and stacks. -/
def State.keptOn (s : State) (d : Nat) : Bool := !(s.domPastures d).isEmpty

/-- Where SLEEP and DEEP SLEEP place a domain (Table 17-5); `none`: it stays. -/
def State.sleepPlace (s : State) (step d : Nat) : Option PowerState :=
  if s.dev.mode = .minimal ∧ d < 626 then none
  else match domKind d with
    | .fold => if (s.fold d).pasture.isSome then some .ret else some .off
    | .hbm => some .ret
    | .quad | .region | .bank => if s.keptOn d then none else some .off
    | .cc => if step = 3 then some .ret else none
    | _ => none

/-- Place the domains of a ladder step below OFF, or return to the per-domain choice (step 7). -/
def State.enterLadder (s : State) (step : Nat) : State :=
  let s := s.modPwr (fun w => { w with ladder := step })
  let s := if step = 1 then s.stopCores 1 else if step = 3 then s.stopCores 2 else s.wakeCores
  if step = 0 ∨ step = 1 then s.demandWakes s.runDomains
  else if step = 2 ∨ step = 3 then
    (List.range Config.numDomains).foldl (fun s d => match s.sleepPlace step d with
      | some t => s.beginEntry d t
      | none => s) s
  else s

/-- Ladder step OFF: only AON and the WAKE pin stay alive; every session and pasture ends (R441). RESET_CAUSE and the boot
records stay, and so does the count of mode changes. The change of mode raises vector 0 while the function is still there (R26). -/
def State.ladderOff (s : State) : State :=
  let d := s.dev
  let s := ((s.raiseVector 0).resetUnits).modPwr (fun w => { w with ladder := 4 })
  { s with dev := { Dev.init with
      cause := d.cause, boot := d.boot, warned := d.warned, mode := .off, prevMode := d.mode,
      modeChanges := wrapTo 16 (d.modeChanges + 1) } }

/-! ### Temperature and power limits -/

/-- A die passes below its floor by a junction or cap limit. -/
def State.countOverride (s : State) (die before : Nat) : State :=
  let c := s.dieClk die
  if c.floor ≠ 0 ∧ pointUp c.floor ≤ before ∧ c.mhz < pointUp c.floor then
    s.modPwr (fun w => { w with overrides := satTo 16 (w.overrides + 1) })
  else s

/-- A throttling step (R444). -/
def State.throttled (s : State) : State := (s.devEvent evThermal).ladderEvent .thermal

/-- The junction temperature of a die, an edge die (4, 5) or a stack (6–11). -/
def State.setTj (s : State) (die tj : Nat) : State :=
  if die < 4 then s.modDie die (fun c => { c with tj := tj, hot := c.hot && decide (105 ≤ tj) })
  else if die < 6 then s.modPwr (fun w => { w with tjEdge := tput w.tjEdge 0 (die - 4) tj })
  else s.modPwr (fun w => { w with tjHbm := tput w.tjHbm 0 (die - 6) tj })

/-- A thermal step: above 95 °C one point down, at or below 93 °C one point up (Table 17-6). -/
def execThermalStep (die tj : Nat) (s : State) : Host.Outcome State Fault Refusal :=
  .next (
    if ¬ s.up then s
    else
      let s := s.setTj die tj
      if 4 ≤ die then s
      else
        let before := (s.dieClk die).mhz
        if 95 < tj then
          let s := (s.modDie die (fun c => { c with
            thermCap := if minMhz < c.mhz then max minMhz (min c.thermCap c.mhz - 50) else c.thermCap })).settleDie die
          if (s.dieClk die).mhz < before then
            (s.modPwr (fun w => { w with throttle := satTo 16 (w.throttle + 1) })).throttled
          else s
        else if tj ≤ 93 then
          (s.modDie die (fun c => { c with thermCap := min maxMhz (c.thermCap + 50) })).settleDie die
        else s.settleDie die)

/-- TJ at or above 105 °C: the die goes to 0.50 GHz at once. -/
def execJunctionLimit (die tj : Nat) (s : State) : Host.Outcome State Fault Refusal :=
  .next (
    if ¬ s.up then s
    else
      let hit := decide (die < 4) && !(s.dieClk die).hot && decide (105 ≤ tj)
      let s := s.setTj die tj
      if hit then
        let before := (s.dieClk die).mhz
        let s := s.modPwr (fun w => { w with junction := satTo 16 (w.junction + 1) })
        let s := (s.modDie die (fun c => { c with hot := true, thermCap := minMhz })).settleDie die
        (s.countOverride die before).throttled
      else s)

/-- TJ still at or above 105 °C after 10 ms: a THERM reset. -/
def execThermTimeout (die tj : Nat) (s : State) : Host.Outcome State Fault Refusal :=
  let was : Bool := if die < 4 then (s.dieClk die).hot else decide (105 ≤ tget s.pwr.tjEdge 0 (die - 4))
  .next (if die < 6 ∧ was ∧ 105 ≤ tj ∧ s.dev.mode ≠ .off then s.deviceReset srcTherm (some (0x62, die)) else s)

/-- The 1 ms average of input power against the cap: above it the die drawing most steps down; below 97 % every die steps up
(R444). -/
def execPowerCapStep (watts die : Nat) (s : State) : Host.Outcome State Fault Refusal :=
  .next (
    if ¬ s.up then s
    else
      let s := s.modPwr (fun w => { w with watts := watts })
      let cap := s.pwr.cap
      let allLow (s : State) : Bool := (List.range 4).all (fun d => decide ((s.dieClk d).mhz ≤ minMhz))
      let s :=
        if cap = 0 then s
        else if cap < watts then
          let before := (s.dieClk die).mhz
          if before ≤ minMhz then s
          else
            let s := (s.modDie die (fun c => { c with powCap := max minMhz (min c.powCap c.mhz - 50) })).settleDie die
            let s := s.modPwr (fun w => { w with capSteps := satTo 16 (w.capSteps + 1) })
            (s.countOverride die before).throttled
        else if 100 * watts < 97 * cap then
          (List.range 4).foldl (fun s d => (s.modDie d (fun c => { c with powCap := min maxMhz (c.powCap + 50) })).settleDie d) s
        else s
      let unmet := cap != 0 && decide (cap < watts) && allLow s
      s.modPwr (fun w => { w with capUnmet := unmet }))

/-- A regulator alert is read and logged (R480). -/
def execPmbAlert (die statusWord : Nat) (s : State) : Host.Outcome State Fault Refusal :=
  .next (if s.up then (s.logDecision "regulator alert" die statusWord).throttled else s)

end Sys2Proof.Machine
end

