-- ==== Sys2Proof/Machine/EdgeConfig.lean ====
section
/-!
DEFINITION. The edge configuration section (Tables 15-1 to 15-7): its fields, the checks of stage 11 (R394), and the wires of
a region with their drivers.
-/

namespace Sys2Proof.Machine

open Sys2Proof

/-! ### Section fields (Table 15-3) -/

/-- Bytes before the frames, flash contents apart. -/
def edgeHeadLen : Nat := 384
def edgeFrameLen : Nat := 1572864

def edgeVccoA (h : List Byte) : Nat := fieldAt h 2 1
def edgeVccoS (h : List Byte) : Nat := fieldAt h 3 1
def edgeGclk (h : List Byte) (n : Nat) : Nat := fieldAt h (4 + 2 * n) 2
def edgeFclk (h : List Byte) : Nat := fieldAt h 8 1
def edgeProbePins (h : List Byte) : Nat := fieldAt h 9 1
def edgeFlash (h : List Byte) : Bool := bitOf (fieldAt h 18 1) 0
def edgeFlashLen (h : List Byte) : Nat := fieldAt h 20 4
def edgePin (h : List Byte) (n : Nat) : Nat := fieldAt h (64 + 4 * n) 4

/-- Tile records by 128·column + row: 96 bytes each, in column order; a tile of zeros is not listed. -/
def edgeTiles (bs : List Byte) (i : Nat) : Nat → Tab Nat
  | 0 => []
  | n + 1 =>
    let v := leNat (bs.take 96)
    let r := edgeTiles (bs.drop 96) (i + 1) n
    if v = 0 then r else (i, v) :: r

/-- The tile records of a section. -/
def sectionTiles (bs : List Byte) : Tab Nat := edgeTiles (bs.drop (edgeHeadLen + edgeFlashLen bs)) 0 16384

/-! ### Tile fields (Table 15-1) -/

def tileLutSel (t k : Nat) : Nat := bitsOf t (64 + 6 * k) 6
def tileFf (t k : Nat) : Nat := bitsOf t (100 + 16 * k) 16
def ffUsed (f : Nat) : Bool := bitOf f 1
def ffClk (f : Nat) : Nat := bitsOf f 2 7
def ffCe (f : Nat) : Nat := bitsOf f 9 6
def ffCeUse (f : Nat) : Bool := bitOf f 15
def tileMode (t : Nat) : Nat := bitsOf t 132 4
def tileDrv (t j : Nat) : Nat := bitsOf t (140 + 8 * j) 8
def drvEn (d : Nat) : Bool := bitOf d 7
def drvSrc (d : Nat) : Nat := bitsOf d 0 7
def tileTermSel (t : Nat) : Nat := bitsOf t 652 6
def tileTermEn (t : Nat) : Bool := bitOf t 658

/-- The origin tile of the wire that tap or driver point `j` of tile (c, r) reaches; `none` where it would lie outside the
region (R385). -/
def wireOrigin (c r j : Nat) : Option (Nat × Nat) :=
  let k := j / 16
  let i := j % 16
  if i < 4 then (if k ≤ c then some (c - k, r) else none)
  else if i < 8 then (if k ≤ r then some (c, r - k) else none)
  else if i < 12 then (if c + k < 128 then some (c + k, r) else none)
  else if r + k < 128 then some (c, r + k) else none

/-- Position of a region in its die's grid (R383), and its neighbours to the west, east, north and south. -/
def regionAt (r : Nat) (dx dy : Int) : Option Nat :=
  let x : Int := (r % 2 : Nat) + dx
  let y : Int := ((r % 8) / 2 : Nat) + dy
  if 0 ≤ x ∧ x < 2 ∧ 0 ≤ y ∧ y < 4 then some (8 * (r / 8) + 2 * y.toNat + x.toNat) else none

/-- The side of a link terminal (Table 15-2); rows rise to the north. -/
def linkSide (c r : Nat) : Option (Int × Int) :=
  if c = 0 ∧ 80 ≤ r then some (-1, 0)
  else if c = 127 ∧ 80 ≤ r then some (1, 0)
  else if r = 127 ∧ 16 ≤ c ∧ c < 80 then some (0, 1)
  else if r = 0 ∧ 16 ≤ c ∧ c < 80 then some (0, -1)
  else none

/-- Terminal outputs and inputs (Table 15-2). -/
def hasTermOut (c r : Nat) : Bool :=
  (c == 0 && decide (r < 78)) || (c == 1 && decide (r < 78)) || (linkSide c r).isSome || (c == 126 && decide (r < 73)) ||
    (c == 125 && decide (r < 64)) || (c == 124 && (decide (r < 32) || r == 64 || r == 65))
def hasTermIn (c r : Nat) : Bool :=
  (c == 0 && decide (r < 78)) || (linkSide c r).isSome || (c == 126 && decide (r < 73)) || (c == 124 && decide (r < 32))

/-- Whether a tap whose number is `j` may be used at a tile. -/
def tapOk (c r j : Nat) : Bool := (wireOrigin c r j).isSome

/-- Bit offsets of a tile whose field breaks a rule of R384 to R389. -/
def tileFaults (region c r t : Nat) : List Nat :=
  let ffBad (k : Nat) : Bool :=
    let f := tileFf t k
    if ffUsed f then
      (decide (80 ≤ ffClk f) && ffClk f != 127) || (decide (16 ≤ ffClk f) && decide (ffClk f < 80) && !tapOk c r (ffClk f - 16)) ||
        (ffCeUse f && !tapOk c r (ffCe f))
    else f != 0
  let drvBad (j : Nat) : Bool :=
    let d := tileDrv t j
    decide (69 < drvSrc d) || (drvEn d && (!tapOk c r j || (drvSrc d == 69 && !hasTermIn c r) ||
      (decide (5 ≤ drvSrc d) && decide (drvSrc d < 69) && !tapOk c r (drvSrc d - 5))))
  let linkBad : Bool := match linkSide c r with
    | some (x, y) => (regionAt region x y).isNone
    | none => false
  ((List.range 6).filter (fun k => !tapOk c r (tileLutSel t k))).map (fun k => 64 + 6 * k)
    ++ ((List.range 2).filter ffBad).map (fun k => 100 + 16 * k)
    ++ (if 1 < tileMode t then [132] else []) ++ (if bitsOf t 136 4 = 0 then [] else [136])
    ++ ((List.range 64).filter drvBad).map (fun j => 140 + 8 * j)
    ++ (if tileTermEn t && (!tapOk c r (tileTermSel t)) then [652] else [])
    ++ (if tileTermEn t && (!hasTermOut c r || linkBad) then [658] else [])
    ++ (if bitsOf t 659 109 = 0 then [] else [659])

/-! ### Pins and banks (R401, R402, Table 15-6) -/

/-- The bank of a region pin and whether it is the region's shared bank. -/
def pinShared (region n : Nat) : Bool := if region % 2 = 0 then decide (52 ≤ n) else decide (n < 26)
def wholeBank (region : Nat) : Nat :=
  12 * (region / 8) + 3 * ((region % 8) / 2) + (if region % 2 = 0 then 0 else 2)
def sharedBank (region : Nat) : Nat := 12 * (region / 8) + 3 * ((region % 8) / 2) + 1

/-- Whether a VCCO code admits a standard. -/
def stdOk (vcco std : Nat) : Bool :=
  match std with
  | 0 => true
  | 1 => decide (vcco ≤ 4)
  | 2 => vcco == 3 || vcco == 2 || vcco == 1
  | 3 => decide (vcco ≤ 2)
  | 4 => decide (vcco ≤ 3)
  | _ => false

def vccoCodeOk (v : Nat) : Bool := decide (v ≤ 4) || v == 7

/-- Whether a pin record keeps Table 15-4 and the standards of its bank; `drives` says that the pin's output enable is
driven, which LVDS admits at 2.5 V alone. -/
def pinOk (h : List Byte) (region n : Nat) (drives : Bool) : Bool :=
  let w := edgePin h n
  let std := bitsOf w 0 4
  let v := if pinShared region n then edgeVccoS h else edgeVccoA h
  let mate := edgePin h (if n % 2 = 0 then n + 1 else n - 1)
  decide (std ≤ 4) && (std == 1 || (bitsOf w 4 2 == 0 && !bitOf w 6)) &&
    (!bitOf w 9 || (std == 4 && bitOf mate 9 && bitsOf mate 0 4 == 4)) && (!bitOf w 10 || std == 4) && bitsOf w 11 21 == 0 &&
    stdOk v std && (std != 4 || v == 3 || !drives)

/-! ### Checks of the section's head (Table 15-3, Table 15-7) -/

/-- Byte offsets, among the hard-block bytes, outside their range. -/
def hardFaults (h : List Byte) (region : Nat) : List Nat :=
  let zeroFrom (k : Nat) : List Nat := ((List.range 40).filter (fun i => decide (k ≤ i) && h.getD (24 + i) 0 != 0)).map (24 + ·)
  if region = 1 ∨ region = 3 ∨ region = 9 ∨ region = 11 then
    (if fieldAt h 24 2 < 16 then [24] else []) ++ zeroFrom 2
  else if region = 5 ∨ region = 13 then (if 2 < fieldAt h 24 1 then [24] else []) ++ zeroFrom 1
  else if region = 7 ∨ region = 15 then
    (if 3 < fieldAt h 24 1 then [24] else []) ++ (if fieldAt h 25 1 < 5 then [25] else []) ++ zeroFrom 2
  else zeroFrom 0

/-- A global-line source (offset 4 or 6): a known kind, a clock-capable pin or an oscillator of the die; another kind names neither
(R389, R391; DEDUCED, log 41). -/
def gclkOk (v region : Nat) : Bool :=
  let kind := bitsOf v 0 4
  let n := bitsOf v 4 4
  decide (kind ≤ 5) && bitsOf v 8 8 == 0 && (kind == 1 || kind == 2 || n == 0) && (kind != 1 || decide (n < 4)) && (kind != 2 || (decide (n < 4) && n / 2 == region / 8))

/-- Byte offsets of the head's fields that break a rule, in section order. -/
def headFaults (h : List Byte) (region : Nat) (tiles : Tab Nat) : List Nat :=
  let at_ (o : Nat) (ok : Bool) : List Nat := if ok then [] else [o]
  at_ 0 (fieldAt h 0 2 == 1) ++ at_ 2 (vccoCodeOk (edgeVccoA h)) ++ at_ 3 (vccoCodeOk (edgeVccoS h))
    ++ at_ 4 (gclkOk (edgeGclk h 0) region) ++ at_ 6 (gclkOk (edgeGclk h 1) region)
    ++ at_ 8 (decide (edgeFclk h < 16) || edgeFclk h == 0xFF)
    ++ ((List.range 8).filter (fun j => let b := fieldAt h (10 + j) 1; decide (64 ≤ b) && b != 0xFF)).map (10 + ·)
    ++ at_ 18 (decide (fieldAt h 18 1 < 2)) ++ at_ 19 (fieldAt h 19 1 == 0)
    ++ at_ 20 (decide (edgeFlashLen h ≤ 524288) && edgeFlashLen h % 256 == 0 && (edgeFlash h || edgeFlashLen h == 0))
    ++ hardFaults h region
    ++ ((List.range 78).filter (fun n => !pinOk h region n (tileTermEn (tget tiles 0 (128 + n))))).map (fun n => 64 + 4 * n)
    ++ at_ 376 (zeroAt h 376 8)

/-- The first EDGE_CONFIG failure of a section: tile (where one applies) and byte offset of the field. -/
def edgeFault (h : List Byte) (region : Nat) (tiles : Tab Nat) : Option (Option (Nat × Nat) × Nat) :=
  match headFaults h region tiles with
  | o :: _ => some (none, o)
  | [] => tiles.findSome? (fun e =>
      match tileFaults region (e.1 / 128) (e.1 % 128) e.2 with
      | b :: _ => some (some (e.1 / 128, e.1 % 128), edgeHeadLen + edgeFlashLen h + 96 * e.1 + b / 8)
      | [] => none)

/-! ### Drivers of wires (R394 step 3) -/

/-- The wires that a tile's enabled driver points drive, as one number 2048·column + 16·row + index of the origin. -/
def tileDrives (c r t : Nat) : List Nat :=
  (List.range 64).filterMap (fun j =>
    if drvEn (tileDrv t j) then (wireOrigin c r j).map (fun o => 2048 * o.1 + 16 * o.2 + j % 16) else none)

/-- The first number that stands twice in a rising list. -/
def firstTwice : List Nat → Option Nat
  | a :: b :: r => if a = b then some a else firstTwice (b :: r)
  | _ => none

/-- The wire with two drivers that has the lowest column, row and index. -/
def multiDriver (tiles : Tab Nat) : Option (Nat × Nat × Nat) :=
  (firstTwice ((tiles.flatMap (fun e => tileDrives (e.1 / 128) (e.1 % 128) e.2)).mergeSort (· ≤ ·))).map
    (fun w => (w / 2048, (w / 16) % 128, w % 16))

/-- Flip-flops clocked from taps (R390). -/
def localFfCount (tiles : Tab Nat) : Nat :=
  (tiles.map (fun e => ((List.range 2).filter (fun k =>
    let f := tileFf e.2 k
    ffUsed f && decide (16 ≤ ffClk f) && decide (ffClk f < 80))).length)).sum

end Sys2Proof.Machine
end

