-- ==== Sys2Proof/Machine/Edge.lean ====
section
/-!
DEFINITION. Edge regions from load to unload, their release, the words of their ports, the supplies of the I/O banks and the
test access port (R383–R409, R440).
-/

namespace Sys2Proof.Machine

open Sys2Proof

/-! ### VCCO (R404) -/

/-- Nominal VCCO in mV of a declared code. -/
def vccoMv : Nat → Option Nat
  | 0 => some 1200
  | 1 => some 1500
  | 2 => some 1800
  | 3 => some 2500
  | 4 => some 3300
  | _ => none

/-- Whether a voltage lies within ±5 % of a declared value; where nothing is declared, of one of the five values (DESIGN CHOICE, log 23). -/
def vccoGood (decl mv : Nat) : Bool :=
  let near (n : Nat) : Bool := decide (95 * n ≤ 100 * mv) && decide (100 * mv ≤ 105 * n)
  match vccoMv decl with
  | some n => near n
  | none => (List.range 5).any (fun c => ((vccoMv c).map near).getD false)

/-- The declaration in force of a bank: that of a region which declares a value (R401). -/
def Bank.redeclare (b : Bank) : Bank :=
  let d := ((b.declBy.map Prod.snd).find? (fun v => v != 7)).getD 7
  { b with decl := d, ok := b.mv != 0 && vccoGood d b.mv }

/-- Whether a region that uses the bank drives its pins. -/
def State.bankDriven (s : State) (b : Nat) : Bool := (bankRegions b).any (fun r => (s.region r).driving)

/-- VCCO leaves its good band: after a pin has driven, the outputs latch at high impedance (R404). -/
def execVccoLoss (bank mv : Nat) (s : State) : Host.Outcome State Fault Refusal :=
  let b := s.bank bank
  .next (
    if vccoGood b.decl mv then s
    else
      let drop := b.ok && s.bankDriven bank
      s.modBank bank (fun x => { x with
        mv := mv, ok := false, latched := x.latched || drop, drops := if drop then satTo 16 (x.drops + 1) else x.drops }))

/-- VCCO comes within ±5 % of its declared value. -/
def execVccoGood (bank mv : Nat) (s : State) : Host.Outcome State Fault Refusal :=
  .next (if vccoGood (s.bank bank).decl mv then s.modBank bank (fun x => { x with mv := mv, ok := true }) else s)

/-! ### Configuration and wipe of a region (R395, R200) -/

/-- Whether a line's source toggles without the outside: an oscillator or the interface clock. -/
def gclkSelf (v : Nat) : Bool := bitsOf v 0 4 == 2 || bitsOf v 0 4 == 3 || bitsOf v 0 4 == 4

/-- The flip-flops whose INIT is 1, and the LUT RAMs with what they hold at first (Table 15-1). -/
def initFfs (tiles : Tab Nat) : Tab Bool :=
  tiles.flatMap (fun e => ((List.range 2).filter (fun k => bitOf (tileFf e.2 k) 0)).map (fun k => (2 * e.1 + k, true)))
def initRams (tiles : Tab Nat) : Tab Nat :=
  (tiles.filter (fun e => tileMode e.2 == 1 && bitsOf e.2 0 64 != 0)).map (fun e => (e.1, bitsOf e.2 0 64))

/-- The write of a region's configuration: HELD, its lines from oscillators and the interface clock toggling (R389), its flip-flops at
INIT (R395). -/
def State.configureRegion (s : State) (r p : Nat) (sec : List Byte) : State :=
  let h := sec.take edgeHeadLen
  let tiles := sectionTiles sec
  let s := s.modRegion r (fun x => { x with
    state := .held, owner := some p, localFfs := localFfCount tiles, gclk0 := gclkSelf (edgeGclk h 0),
    gclk1 := gclkSelf (edgeGclk h 1), flash := edgeFlash h, head := h, tiles := tiles, ffs := initFfs tiles, rams := initRams tiles })
  if edgeFlash h then
    s.modEdge (fun e => { e with flash := memWrite [] 0 ((sec.drop edgeHeadLen).take (edgeFlashLen h)) })
  else s

/-- The claims of a region at stage 9: owner, probe pins, the flash partition and the declarations of its banks (R393). -/
def State.claimRegion (s : State) (r p : Nat) (h : List Byte) : State :=
  let s := s.modRegion r (fun x => { x with state := .loading, owner := some p })
  let pins := (numsWhere 8 (fun j => bitOf (edgeProbePins h) j)).map (fun j => 8 * (r / 8) + j)
  let s := s.modEdge (fun e => { e with
    probePins := pins.foldl (fun t q => tput t none q (some r)) e.probePins
    flashOwner := if edgeFlash h then some r else e.flashOwner })
  let decl (s : State) (b v : Nat) : State := s.modBank b (fun x => { x with declBy := tins r v (tdel x.declBy r) }.redeclare)
  decl (decl s (wholeBank r) (edgeVccoA h)) (sharedBank r) (edgeVccoS h)

/-- A region returns to UNCONFIGURED with its pins at their strap pull, its claims ended and its flash contents erased. -/
def State.wipeRegion (s : State) (r : Nat) : State :=
  let undecl (s : State) (b : Nat) : State := s.modBank b (fun x => { x with declBy := tdel x.declBy r }.redeclare)
  let s := undecl (undecl s (wholeBank r)) (sharedBank r)
  s.modEdge (fun e => { e with
    regions := tdel e.regions r
    probePins := e.probePins.filter (fun x => x.2 != some r)
    flash := if e.flashOwner = some r then [] else e.flash
    flashOwner := if e.flashOwner = some r then none else e.flashOwner })

/-! ### Release (R397) -/

/-- Whether global line `g` of a region's die toggles for that region: a line of another pasture's region reads 0. -/
def State.lineToggles (s : State) (r g : Nat) : Bool :=
  let src := s.region (8 * (r / 8) + g / 2)
  (if g % 2 = 0 then src.gclk0 else src.gclk1) && src.owner == (s.region r).owner

/-- The release point of a region: its pins drive, the flip-flops on taps and, from the third edge on, those on toggling lines are freed, and
the edge port passes words, or waits for its clock. The command completes with the port freed (DEDUCED, log 68). -/
def State.releaseRegion (s : State) (r : Nat) : State :=
  let f := edgeFclk (s.region r).head
  let lines := numsWhere 16 (fun g => s.lineToggles r g)
  let ready := decide (f < 16) && s.lineToggles r f
  s.modRegion r (fun x => { x with
    state := .released, driving := true, freed := lines ++ [16], guard := lines.map (fun g => (g, 3)), epFreed := ready,
    epWait := decide (f < 16) && !ready })

/-- A region that is not RELEASED waits; in a released one the line's flip-flops are freed, and the port whose clock it is. -/
def Region.lineStarts (x : Region) (g : Nat) : Region :=
  if x.state = .released then
    let mine := x.epWait && edgeFclk x.head == g
    { x with
      freed := if x.freed.contains g then x.freed else x.freed ++ [g]
      epWait := x.epWait && !mine, epFreed := x.epFreed || mine }
  else x

/-- Line `g` of a die starts, sourced by region `src`: GCLKn_RUN, and the regions of the same pasture. -/
def State.lineStart (s : State) (src g : Nat) : State :=
  let s := s.modRegion src (fun x => if g % 2 = 0 then { x with gclk0 := true } else { x with gclk1 := true })
  let own := (s.region src).owner
  (numsWhere 8 (fun i => (s.region (8 * (src / 8) + i)).owner == own)).foldl (fun s i =>
    s.modRegion (8 * (src / 8) + i) (fun x => x.lineStarts g)) s

/-- Whether the source that a region's configuration names for one of its two lines may start: a pin from HELD on, its own
terminal once it is released (R389). -/
def Region.mayStart (x : Region) (g : Nat) : Bool :=
  match bitsOf (edgeGclk x.head (g % 2)) 0 4 with
  | 1 => x.state == .held || x.state == .released
  | 5 => x.state == .released
  | _ => false

/-- A global clock line starts toggling (R397). -/
def execGlobalLineStart (region line : Nat) (s : State) : Host.Outcome State Fault Refusal :=
  .next (if line / 2 = region % 8 ∧ (s.region region).mayStart line then s.lineStart region line else s)

/-- The fabric clock of a released edge port starts (R397). -/
def execEpFclkStart (port : Nat) (s : State) : Host.Outcome State Fault Refusal :=
  let x := s.region port
  let g := edgeFclk x.head
  let src := 8 * (port / 8) + g / 2
  .next (
    if x.state = .released ∧ x.epWait ∧ g < 16 ∧ (s.region src).owner = x.owner ∧ (s.region src).mayStart g then
      s.lineStart src g
    else s)

/-! ### Edge port words (R400) -/

/-- The pasture that holds an edge port whose region is released with its clock freed, where neither HOLD nor DRAINING holds
the port back. -/
def State.edgePas (s : State) (port : Nat) : Option Nat :=
  let x := s.region port
  if x.state = .released ∧ x.epFreed ∧ s.dev.mode ≠ .hold then
    (List.range 16).find? (fun p => (s.pas p).comp.edgePorts.contains port && s.pstate p != .empty && s.pstate p != .draining)
  else none

/-- The channels of the map at an edge-port endpoint. -/
def Pasture.edgeIn (x : Pasture) (e : Nat) : Option Nat := x.chans.findIdx? (fun c => c.srcKind == .edge && c.srcId == e)
def Pasture.edgeOut (x : Pasture) (e : Nat) : Option Nat := x.chans.findIdx? (fun c => c.dstKind == .edge && c.dstId == e)

/-- IN_READY of a channel. -/
def State.inReady (s : State) (port chan : Nat) : Option (Nat × Nat) :=
  match s.edgePas port with
  | none => none
  | some p =>
    let x := s.pas p
    match x.edgeIn (4 * port + chan) with
    | none => none
    | some c => if x.replayRun ∨ fifoCap ≤ (x.chan c).srcFifo.length then none else some (p, c)

/-- The fabric hands over a word where IN_READY is 1; otherwise the fabric keeps it. -/
def execEdgePortWordIn (port chan : Nat) (word : BitVec 16) (s : State) : Host.Outcome State Fault Refusal :=
  .next (match s.inReady port chan with
    | some (p, c) => s.modChan p c (fun h => { h with srcFifo := h.srcFifo ++ [word] })
    | none => s)

/-- OUT_VALID of a channel, with its oldest word. -/
def State.outValid (s : State) (port chan : Nat) : Option (Nat × Nat × BitVec 16) :=
  match s.edgePas port with
  | none => none
  | some p =>
    let x := s.pas p
    match x.edgeOut (4 * port + chan) with
    | none => none
    | some c => match (x.chan c).dstFifo with
      | [] => none
      | w :: _ => if x.replayRun ∧ x.run.outMode = 1 then none else some (p, c, w)

/-- The fabric takes a word where OUT_VALID is 1; it counts as delivered (Table 10-1). -/
def execEdgePortWordOut (port chan : Nat) (s : State) : Host.Outcome State Fault Refusal :=
  .next (match s.outValid port chan with
    | some (p, c, w) =>
      (s.modChan p c (fun h => { h with dstFifo := h.dstFifo.tail, delivered := h.delivered + 1 })).send (.fabricWord port chan w)
    | none => s)

/-! ### Test access port (R408) -/

/-- Whether a pasture holds an edge region, so that every instruction but IDCODE acts as BYPASS. -/
def State.tapBypassed (s : State) : Bool := s.edge.regions.any (fun e => e.2.owner.isSome)

def State.tapSelect (s : State) (code : Nat) : State := s.modEdge (fun e => { e with tap := { e.tap with instr := code } })

/-- BYPASS. -/
def State.tapBypass (s : State) (code : Nat) : State := (s.tapSelect code).send (.tap 0xFF [])

/-- The boundary cells of user pins 0–1,247 whose bank's VCCO is good, and of the probe pins after them. -/
def State.tapPins (s : State) (cells : List Nat) : List Nat :=
  cells.filter (fun n => decide (1248 ≤ n) || (s.bank (n / 52)).ok)

/-- IDCODE (Table 20-7). -/
def State.idcode (s : State) : Nat :=
  match s.ident.part, s.ident.stepping with
  | .x512, .a1 => 0x16512D4F
  | .x512, .b0 => 0x26512D4F
  | .x448, .a1 => 0x16448D4F
  | .x448, .b0 => 0x26448D4F

/-- EXTEST drives the boundary cells onto pins of banks whose VCCO is good. -/
def execExtest (pins : List Nat) (s : State) : Host.Outcome State Fault Refusal :=
  .next (
    if s.tapBypassed then s.tapBypass 0x00
    else
      let s := s.modEdge (fun e => { e with tap := { instr := 0x00, boundary := pins } })
      s.send (.tap 0x00 (s.tapPins pins)))

/-- IDCODE selects the identity. -/
def execIdcode (s : State) : Host.Outcome State Fault Refusal :=
  .next ((s.tapSelect 0x01).send (.tap 0x01 [s.idcode]))

/-- SAMPLE/PRELOAD loads the boundary register. -/
def execSamplePreload (cells : List Nat) (s : State) : Host.Outcome State Fault Refusal :=
  .next (
    if s.tapBypassed then s.tapBypass 0x02
    else (s.modEdge (fun e => { e with tap := { instr := 0x02, boundary := cells } })).send (.tap 0x02 cells))

/-- CLAMP holds the pins at their boundary values with bypass selected. -/
def execClamp (s : State) : Host.Outcome State Fault Refusal :=
  .next (if s.tapBypassed then s.tapBypass 0x03
    else (s.tapSelect 0x03).send (.tap 0x03 (s.tapPins s.edge.tap.boundary)))

/-- HIGHZ places the outputs in high impedance. -/
def execHighz (s : State) : Host.Outcome State Fault Refusal :=
  .next (if s.tapBypassed then s.tapBypass 0x04 else (s.tapSelect 0x04).send (.tap 0x04 []))

/-- BYPASS: code 0xFF and every code that is no other instruction's. -/
def execBypass (code : Nat) (s : State) : Host.Outcome State Fault Refusal :=
  .next (if code < 5 then s else s.tapBypass code)

end Sys2Proof.Machine
end

