-- ==== Sys2Proof/Machine/Command.lean ====
section
/-!
DEFINITION. The taking of a command packet: the intake checks that follow the packet's own (Table 11-9, checks 4 to 10), the
waits of R295, R307 and R308, refusals with their DETAIL (R306), and completions. Each command is a card: what its packet
must be, and what it does. Cards stand with the family that defines them.
-/

namespace Sys2Proof.Machine

open Sys2Proof

/-- A command card (Tables 11-13 to 11-15): its modes S, E, M, H and W, whether it needs a session, whether it names a
pasture, whether it waits for a pasture that recovers, whether its parameter length is right, and its effect once checks 4 to
10 have passed. -/
structure Card where
  opcode   : Nat
  modes    : String
  session  : Bool
  names    : Bool
  waits    : Bool
  lengthOk : List Byte → Bool
  run      : Cmd → Prog → State → State

/-- The parameter length is `n`. -/
def lenIs (n : Nat) (bs : List Byte) : Bool := bs.length == n

/-! ### Completions of a card -/

/-- Complete with a status and DETAIL. -/
def State.complete (s : State) (g : Prog) (status : Nat) (detail : List Byte) : State :=
  s.finish (plainJob g status detail)

/-- Complete with a result (R305). -/
def State.completeResult (s : State) (g : Prog) (c : Cmd) (detail result : List Byte) (sealResult : Bool) : State :=
  s.finish { prog := g, status := 0, detail := detail, addr := fieldAt c.params 0 8, result := result,
             sealResult := sealResult }

/-- Refuse with a status of family 0x01xx, which names a parameter offset (R306); another family's DETAIL is zero. -/
def State.refuse (s : State) (g : Prog) (status offset : Nat) : State :=
  s.complete g status (if status / 256 = 1 then leBytes 4 offset else [])

/-- One parameter check: whether it fails, the status, and the offset of the field. Checks stand in the order reserved
fields, ranges, states, each by rising offset. -/
abbrev Check := Bool × Nat × Nat

/-- The first check that fails. -/
def firstFail (l : List Check) : Option (Nat × Nat) := (l.find? (fun c => c.1)).map (fun c => c.2)

/-- Run the checks of a card; where none fails, its effect. -/
def State.checked (s : State) (g : Prog) (l : List Check) (f : State → State) : State :=
  match firstFail l with
  | some (status, offset) => s.refuse g status offset
  | none => f s

/-- The reserved field of `n` bytes at offset `lo` is zero, else 0x0101 at the field's offset (R306). -/
def reservedZero (c : Cmd) (lo n : Nat) : List Check := [(!(zeroAt c.params lo n), 0x0101, lo)]

/-- RESULT_ADDR and RESULT_SIZE of R305. -/
def resultChecks (c : Cmd) (minimum : Nat) : List Check :=
  [(fieldAt c.params 0 8 % 64 != 0, 0x0108, 0), (decide (fieldAt c.params 8 4 < minimum), 0x0108, 8)]

/-- 0x0108 at an offset. -/
def rangeCheck (bad : Bool) (offset : Nat) : Check := (bad, 0x0108, offset)
/-- A state check. -/
def stateCheck (bad : Bool) (status : Nat) : Check := (bad, status, 0)

/-! ### Whether a packet is taken -/

/-- What the mode makes of a card (R308). -/
inductive ModeVerdict where
  | take | refuse | wait
deriving DecidableEq, Repr

def State.modeVerdict (s : State) (modes : String) : ModeVerdict :=
  let has (ch : Char) : ModeVerdict := if ch ∈ modes.toList then .take else .refuse
  match s.dev.mode with
  | .off | .boot => .wait
  | .service => has 'S'
  | .emulate => has 'E'
  | .minimal => has 'M'
  | .erase => has 'W'
  | .hold | .recover => if 'H' ∈ modes.toList then .take else .wait

/-- Commands of the device in progress. -/
def State.allInProgress (s : State) : Nat := s.host.prog.length

/-- Whether a ring may give its next packet at all (R293, R295, R302, R309, R368): it is enabled and not halted, intake is
running, the function may master the bus, and a completion entry and a place for a command are free; a FENCE packet waits
for every earlier command of its ring (R307). -/
def State.ringServes (s : State) (n : Nat) (fence : Bool) : Bool :=
  let r := s.ring n
  r.enable && !r.halted && s.dev.accepting && !s.dev.restarting && !s.host.d3hot && s.host.fnReady &&
    decide (wrapSub 32 r.cplTail r.cplHead + s.inProgress n < 2 ^ r.cplLog2) &&
    decide (s.inProgress n < 256) && decide (s.allInProgress < 1024) && (!fence || s.inProgress n == 0)

/-- A command that waits for its pasture to leave RECOVERING (R308). -/
def State.pastureWaits (s : State) (card : Card) (c : Cmd) : Bool :=
  card.waits && decide (c.pasture < 16) && s.pstate c.pasture == .recovering

/-- Whether the packet is taken now. -/
def State.takes (s : State) (card : Card) (c : Cmd) : Bool :=
  s.ringServes c.ring c.fence && s.modeVerdict card.modes != .wait && !s.pastureWaits card c

/-- The command key of a ring's binding (R415). -/
def State.ringKey (s : State) (n : Nat) : List Byte :=
  match (s.ring n).bound with
  | some b => s.kCmd b.sid b.rebind
  | none => []

/-- Take a sequence number: the command is in progress (R300). -/
def State.begin_ (s : State) (c : Cmd) (opcode : Nat) (auth : Bool) : Prog × State :=
  let g : Prog := {
    ring := c.ring, seq := (s.ring c.ring).seq, tag := c.tag, opcode := opcode, pasture := c.pasture, session := auth,
    noIrq := c.noIrq, key := if auth then s.ringKey c.ring else [], live := true }
  let s := s.modRing c.ring (fun r => { r with seq := r.seq + 1 })
  (g, s.modHost (fun h => { h with prog := h.prog ++ [g] }))

/-- The session a pasture is held by, where it is not EMPTY (R417). -/
def State.heldBy (s : State) (p : Nat) : Option Nat := if s.pstate p = .empty then none else some (s.pas p).comp.sid

/-- The session bound to a ring. -/
def State.ringSid (s : State) (n : Nat) : Option Nat := (s.ring n).bound.map Binding.sid

/-- Checks 5 to 10 of Table 11-9 but the GCM tag: the status of the first that fails, with the offset R306 gives it. -/
def State.cardRefusal (s : State) (card : Card) (c : Cmd) : Option (Nat × Nat) :=
  if s.modeVerdict card.modes ≠ .take then some (0x0202, 0)
  else if (card.session ∧ ¬ c.session) ∨ (c.session ∧ (s.ring c.ring).bound = none) then some (0x0406, 0)
  else if ¬ card.lengthOk c.params then some (0x0106, 0xFFFFFFFF)
  else if card.names then
    if 16 ≤ c.pasture then some (0x0302, 0)
    else match s.heldBy c.pasture with
      | some sid => if s.ringSid c.ring = some sid then none else some (0x0411, 0)
      | none => none
  else if c.pasture ≠ 0xFF then some (0x0108, 0xFFFFFFFF)
  else none

/-- The card's turn: refused at its first failing check, or run. A packet refused for want of a session was not
authenticated, so its completion carries none (R304). -/
def State.runCard (s : State) (card : Card) (c : Cmd) : State :=
  if ¬ s.takes card c then s
  else
    let auth := c.session && (s.ring c.ring).bound.isSome
    match s.cardRefusal card c with
    | some (status, offset) =>
      let (g, s) := s.begin_ c card.opcode (auth && status != 0x0202)
      s.refuse g status offset
    | none =>
      let (g, s) := s.begin_ c card.opcode auth
      card.run c g s

end Sys2Proof.Machine
end

