-- ==== Sys2Proof/Machine/Registers.lean ====
section
/-!
DEFINITION. The registers as the host reads them: the identity and status block, the time block and the ring registers of
window W0 (R290, R291), the pasture blocks (R207), the link summary (R362), the power summary (R446), and every code of
DIAG_REG_READ (R315, R337, R363, R409, R447, R475).
-/

namespace Sys2Proof.Machine

open Sys2Proof

/-! ### Identity and status block -/

def Part.code : Part → Nat
  | .x512 => 0x6512 | .x448 => 0x6448
def Stepping.code : Stepping → Nat
  | .a1 => 0x00A1 | .b0 => 0x00B0

/-- Table 11-3. -/
def State.idCodes (s : State) : Nat :=
  packFields [(0, 16, s.ident.part.code), (16, 16, s.ident.stepping.code), (32, 1, 1),
    (33, 1, b2n (s.ident.stepping == .b0)), (40, 9, Config.numPairs - s.ident.absent.length)]

/-- The slot that runs. -/
def Flash.active (f : Flash) : FwSlot := if f.activeB then f.slotB else f.slotA

/-- Table 11-4; in MINIMAL the version reads 0.0 (R458). -/
def State.fwVersion (s : State) : Nat :=
  let f := s.flash
  let min := s.dev.mode == .minimal
  packFields [(0, 16, if min then 0 else f.active.minor), (16, 16, if min then 0 else f.active.major),
    (32, 1, b2n f.activeB), (33, 1, b2n f.staged)]

/-- Table 1-7. -/
def State.deviceMode (s : State) : Nat :=
  packFields [(0, 4, s.dev.mode.code), (4, 4, s.dev.prevMode.code), (16, 16, s.dev.modeChanges)]

/-- Table 16-5. -/
def State.lcWord (s : State) : Nat :=
  let f := s.fuses
  packFields [(0, 3, f.lcState), (3, 1, b2n f.ownerSet), (4, 3, f.returns), (8, 4, f.lcCounter), (12, 1, b2n s.diagOpen),
    (16, 7, s.host.sessions.length), (24, 7, f.svnMin)]

/-- Table 18-8. -/
def ResetCause.word (c : ResetCause) : Nat :=
  packFields [(0, 9, c.cause), (16, 4, c.last), (20, 1, b2n c.ccWdog), (21, 1, b2n c.ccLockup), (22, 2, c.lastCc),
    (32, 16, c.ccRestarts)]

/-- Table 18-9. -/
def BootRecord.word (b : BootRecord) : Nat :=
  packFields [(0, 4, b.stage), (4, 1, b2n b.inMinimal), (5, 2, b.startKind), (7, 2, b.failCount), (9, 1, b2n b.slot),
    (10, 1, b2n b.fallback), (11, 6, b.hbmOk), (17, 6, b.hbmFail), (32, 16, b.bootMs), (64, 16, b.fail0), (80, 16, b.fail1),
    (96, 16, b.fail2), (128, 10, b.clkIsland)]

/-- Table 11-6. -/
def State.cmdStatus (s : State) : Nat :=
  packFields [(0, 1, b2n s.dev.accepting), (1, 1, b2n s.dev.restarting), (2, 1, b2n s.dev.reduced),
    (4, 7, (s.host.rings.filter (fun r => r.2.enable)).length)]

/-- ENABLED_FOLD_PAIRS. -/
def State.enabledPairs (s : State) : List Byte :=
  (List.range 32).map (fun k => BitVec.ofNat 8 ((List.range 8).foldl (fun n i =>
    if s.pairEnabled (8 * k + i) then n + 2 ^ i else n) 0))

/-- Table 17-8. -/
def State.pwrNow (s : State) : Nat :=
  packFields [(0, 16, s.pwr.watts), (16, 16, s.pwr.cap), (32, 3, s.pwr.ladder), (35, 1, b2n s.pwr.capUnmet)]
def DieClk.word (d : DieClk) : Nat :=
  packFields [(0, 11, d.mhz), (16, 8, d.tj), (32, 11, d.floor), (48, 3, d.limiter)]
def State.temps (s : State) : Nat :=
  packFields ([(0, 8, tget s.pwr.tjEdge 0 0), (8, 8, tget s.pwr.tjEdge 0 1)] ++
    (List.range 6).map (fun h => (16 + 8 * h, 8, tget s.pwr.tjHbm 0 h)))
def State.pwrTally (s : State) : Nat :=
  packFields [(0, 16, s.pwr.throttle), (16, 16, s.pwr.capSteps), (32, 16, s.pwr.junction), (48, 16, s.pwr.overrides)]
def State.powerBlock (s : State) : List Byte :=
  padTo 256 (leBytes 8 s.pwrNow ++ (List.range 4).flatMap (fun d => leBytes 8 (s.dieClk d).word) ++ leBytes 8 s.temps
    ++ leBytes 8 s.pwrTally)

/-- The pasture that holds a link port. -/
def State.portHolder (s : State) (t : Nat) : Option Nat :=
  (List.range 16).find? (fun p => s.pstate p != .empty && (s.pas p).comp.linkPorts.contains t)

/-- Table 13-8. -/
def State.linkSummary (s : State) (t : Nat) : Nat :=
  let h := s.portHolder t
  packFields [(0, 4, (s.portState t).code), (4, 2, (s.port t).bond),
    (6, 1, b2n ((s.lane (2 * t)).marginLow || (s.lane (2 * t + 1)).marginLow)), (7, 1, b2n h.isSome), (8, 4, h.getD 0)]

/-! ### Pasture blocks (Tables 7-8 to 7-13) -/

def PStat.word (t : PStat) : Nat :=
  packFields [(0, 4, t.state.code), (4, 3, t.runMode.code), (7, 1, b2n t.freezeMid), (8, 3, t.freezeCause),
    (11, 1, b2n t.rings), (12, 2, t.join), (14, 1, b2n t.root), (16, 16, t.lastStatus), (32, 6, t.spanIndex),
    (38, 7, t.spanDevices)]
def PExt.word (e : PExt) : Nat :=
  packFields [(0, 16, e.overruns), (16, 16, e.slackMin), (32, 8, e.dropped), (40, 1, b2n e.latched), (41, 16, e.heldEv)]
def PAssert.word (a : PAssert) : Nat :=
  packFields [(0, 9, a.fold), (9, 8, a.bp), (17, 10, a.slot), (27, 9, a.id), (36, 1, b2n a.valid)]
def PFault.word (f : PFault) : Nat :=
  packFields [(0, 16, f.status), (16, 9, f.unit), (25, 10, f.slot), (35, 4, f.index), (39, 4, f.fields), (43, 1, b2n f.dir),
    (44, 1, b2n f.valid)]
def Pasture.block (x : Pasture) : List Byte :=
  padTo 128 (leBytes 8 x.stat.word ++ leBytes 8 x.stat.ecycle ++ leBytes 8 x.stat.target ++ leBytes 8 x.ext.word
    ++ leBytes 8 x.assert.word ++ leBytes 8 x.assert.ecycle ++ leBytes 8 x.assert.count ++ leBytes 8 x.stat.events.toNat
    ++ leBytes 8 x.fault.word ++ leBytes 8 x.fault.ecycle)

/-- The identity and status block (Table 11-2), 4,096 bytes. -/
def State.identBlock (s : State) : List Byte :=
  leBytes 8 s.idCodes ++ leBytes 8 s.fwVersion ++ padTo 16 s.ident.serial ++ s.enabledPairs ++ leBytes 8 s.deviceMode
    ++ leBytes 8 s.dev.events.toNat ++ leBytes 8 s.lcWord ++ leBytes 8 s.dev.cause.word ++ leBytes 32 s.dev.boot.word
    ++ padTo 128 (leBytes 8 s.cmdStatus) ++ s.powerBlock ++ padTo 1536 ((List.range 128).flatMap (fun t => leBytes 2 (s.linkSummary t)))
    ++ (List.range 16).flatMap (fun p => (s.pas p).block)

/-! ### Command rings (Table 11-7) and the time block (Tables 14-6 to 14-9) -/

def State.ringBlock (s : State) (n : Nat) : List Byte :=
  let r := s.ring n
  let status := packFields [(0, 1, b2n (s.inProgress n == 0)), (1, 1, b2n r.halted), (2, 1, b2n r.configErr),
    (3, 1, b2n r.badDoorbell), (4, 1, b2n r.bound.isSome), (32, 32, r.seq)]
  leBytes 8 r.cmdBase ++ leBytes 8 r.cplBase ++ leBytes 8 (packFields [(0, 1, b2n r.enable), (8, 5, r.cmdLog2), (16, 4, r.cplLog2)])
    ++ leBytes 8 r.cmdTail ++ leBytes 8 r.cmdHead ++ leBytes 8 r.cplHead ++ leBytes 8 r.cplTail ++ leBytes 8 status

def ServoState.code : ServoState → Nat
  | .free => 0 | .refused => 1 | .acquiring => 2 | .locked => 3 | .holdover => 4

def TimeBase.status (t : TimeBase) : Nat :=
  packFields [(0, 3, t.servo.code), (3, 1, b2n t.jumpRefused), (4, 1, b2n t.gmChanged), (5, 1, b2n t.stepArmed), (6, 1, b2n t.port),
    (16, 32, t.jumpNs)]
def TimeBase.tally (t : TimeBase) : Nat :=
  packFields [(0, 16, t.refusals), (16, 16, t.steps), (32, 16, t.gmChanges), (48, 16, t.holdovers)]
def EthPort.word (e : EthPort) : Nat :=
  packFields [(0, 1, b2n e.link), (1, 1, b2n e.masterSeen), (16, 16, e.dropped), (32, 16, e.responses), (48, 16, e.fcsErrs)]
def State.timeBlock (s : State) : List Byte :=
  let t := s.time
  leBytes 8 (t.ns + 2 ^ 32 * t.frac) ++ leBytes 8 t.incr ++ leBytes 8 t.status ++ leBytes 8 t.tally
    ++ leBytes 8 (twos 32 t.offset + 2 ^ 32 * twos 32 t.delay) ++ leBytes 8 (t.before + 2 ^ 32 * t.after)
    ++ leBytes 8 t.gmId ++ leBytes 8 t.seenId ++ leBytes 8 (s.ethPort 0).word ++ leBytes 8 (s.ethPort 1).word
    ++ leBytes 8 s.ident.mac0 ++ leBytes 8 s.ident.mac1

/-- The Device Serial Number capability: bytes 0–7 of DEVICE_SERIAL (Table 14-1). -/
def State.pcieDsn (s : State) : List Byte := s.ident.serial.take 8

/-- An MSI-X table entry (PCIe 5.0): address, data, vector control. -/
def Msix.bytes (m : Msix) : List Byte := leBytes 8 m.addr ++ leBytes 4 m.data ++ leBytes 4 (b2n m.masked)

/-- Byte `o` of window W0 as a read returns it (Table 11-1); a doorbell reads HEAD and TAIL (R215); reserved offsets and
the diagnostic window, closed, read zero. -/
def State.w0Byte (s : State) (o : Nat) : Byte :=
  if o < 0x1000 then s.identBlock.getD o 0
  else if o < 0x2000 then (s.ringBlock ((o - 0x1000) / 64)).getD (o % 64) 0
  else if 0x10000 ≤ o ∧ o < 0x30000 then
    let d := s.queue ((o - 0x10000) / 8)
    (leBytes 8 (d.head + 2 ^ 32 * d.tail)).getD (o % 8) 0
  else if 0x40000 ≤ o ∧ o < 0x50000 then s.timeBlock.getD (o - 0x40000) 0
  else if 0x50000 ≤ o ∧ o < 0x58000 then (s.msix ((o - 0x50000) / 16)).bytes.getD (o % 16) 0
  else if 0x58000 ≤ o ∧ o < 0x58100 then
    BitVec.ofNat 8 ((List.range 8).foldl (fun n i => if (s.msix (8 * (o - 0x58000) + i)).pending then n + 2 ^ i else n) 0)
  else 0

/-! ### Fold, pair and pasture registers -/

/-- FOLD_STATUS (Table 2-6). -/
def State.foldStatus (s : State) (f : Nat) : Nat :=
  let x := s.fold f
  packFields [(0, 3, s.foldState f), (4, 4, x.pasture.getD 0), (8, 10, x.seq.slot), (18, 10, x.seq.lastSlot), (28, 2, x.seq.cause)]
def FoldEcc.word (e : FoldEcc) : Nat :=
  packFields [(0, 16, e.sbe), (16, 8, e.dbe), (24, 1, b2n e.inSide), (25, 1, b2n e.byScrub)]
def FoldEcc.loc (e : FoldEcc) : Nat := packFields [(0, 10, e.errSlot), (10, 8, e.errBp)]
/-- DM_PORT_STATUS (Table 5-12). -/
def DmPort.word (d : DmPort) : Nat := packFields [(0, 7, d.entries.length), (8, 16, d.late), (24, 8, d.full)]
/-- Tables 5-7 and 5-8. -/
def Pair.sched (q : Pair) : Nat := packFields [(0, 16, q.rowSt), (16, 16, q.orderSt)]
def Steal.word (t : Steal) : Nat := packFields [(0, 20, t.deferred), (20, 8, t.maxWait)]
/-- Tables 4-11 to 4-13. -/
def PWdog.word (w : PWdog) : Nat := packFields [(0, 6, w.periodLog2), (6, 1, b2n w.enable)]
def PWdog.dead0 (w : PWdog) : Nat :=
  packFields [(0, 9, w.dlFold), (9, 10, w.dlSlot), (19, 2, w.dlCause), (21, 3, w.dlEp), (24, 1, b2n w.extWait), (25, 1, b2n w.dlScratch)]
def PWdog.dead1 (w : PWdog) : Nat :=
  packFields [(0, 3, w.peerKind), (3, 13, w.peerId), (16, 10, w.peerSlot), (26, 3, w.peerState)]
/-- Tables 8-10 and 8-11. -/
def PFlow.word (w : PFlow) : Nat :=
  packFields [(0, 9, w.ready.length), (9, 9, w.readyHigh), (18, 16, w.overflow.length), (34, 16, w.stray), (50, 1, b2n w.earlySat),
    (51, 1, b2n w.hostErr), (52, 1, b2n w.bpWait)]
def PFlow.tally (w : PFlow) : Nat := packFields [(0, 32, w.bpBarriers), (32, 32, w.bpSteps)]
/-- Tables 9-10 to 9-12. -/
def State.acqStatus (s : State) (p : Nat) : Nat :=
  let a := s.acqOf p
  packFields [(0, 3, a.state.code), (3, 1, b2n a.triggered), (4, 1, b2n a.forced), (5, 1, b2n (s.acqWaiting p)), (8, 16, a.segment),
    (24, 40, a.landWaits)]
def Acq.index (a : Acq) : Nat := packFields [(0, 32, a.written), (32, 32, a.trigSeq)]
def Snap.word (n : Snap) : Nat := packFields [(0, 2, n.code), (2, 1, b2n n.bufB), (3, 1, b2n n.truncated), (4, 60, n.ringEcy)]
/-- Table 10-12. -/
def PRing.status (k : PRing) : Nat :=
  packFields [(0, 16, k.completeNo), (16, 16, k.currentNo), (32, 1, b2n k.copying), (40, 16, k.early), (56, 8, k.recoveries)]
def PRing.recWord (k : PRing) : Nat :=
  packFields [(0, 16, k.cause), (16, 2, k.attempts), (18, 1, b2n k.boundMet), (32, 32, k.durationNs)]
/-- Table 5-11. -/
def DmRegion.word (r : DmRegion) : Nat := packFields [(0, 1, b2n r.valid), (12, 26, r.base / 4096), (40, 24, r.pages)]
/-- Table 8-9. -/
def Engine.word (s : State) (e : Engine) : Nat :=
  packFields [(0, 32, e.busyUs), (32, 16, e.runs), (48, 4, (e.run.map (fun r => ((s.task r.1).owner).getD 0)).getD 0),
    (52, 1, b2n e.run.isSome)]
/-- Tables 5-5, 5-6 and 5-13. -/
def MRegion.base_ (m : MRegion) : Nat :=
  packFields [(0, 1, b2n m.valid), (1, 1, b2n m.rd), (2, 1, b2n m.wr), (3, 1, b2n m.setclr), (4, 4, m.pasture),
    (12, 36, m.base / 4096)]
def MStatus.word (m : MStatus) : Nat :=
  packFields [(0, 16, m.viol), (16, 4, m.lastPasture), (20, 1, b2n m.lastPv), (21, 1, b2n m.lastWrite)]

/-! ### Network, lane, edge, power and trace registers -/

/-- Port state of a domain: 0 OPEN, 1 CLOSING, 2 OFF (Table 12-9). -/
def State.domPort (s : State) (d : Nat) : Nat :=
  let x := s.domain d
  if x.state ≠ .on then 2 else if x.entry = .none then 0 else 1

/-- F_STATE: the more closed of the two halves; DISABLED for a disabled pair (R318). -/
def State.fState (s : State) (r : Nat) : Nat :=
  let q := routerPair r
  if s.pairEnabled q then max (s.domPort (2 * q)) (s.domPort (2 * q + 1)) else 3
def State.xState (s : State) (r : Nat) : Nat := ((routerStack r).map (fun h => s.domPort (domHbm h))).getD 0

/-- The hold in progress of a router, where there is one: the holds of a die follow one another (R327, R328). -/
def State.holdOf (s : State) (r : Nat) : Option NocHold :=
  (s.noc.holds.find? (fun h => routerDie h.router == routerDie r)).filter (fun h => h.router == r)

/-- NOC_ROUTER_STATUS (Table 12-8). -/
def State.routerWord (s : State) (r : Nat) : Nat :=
  let x := s.router r
  packFields [(0, 1, b2n (s.holdOf r).isSome), (1, 2, s.fState r), (3, 2, s.xState r), (8, 16, x.holds), (24, 16, x.parErrs), (40, 16, x.proxy),
    (56, 2, x.parNet), (58, 2, x.parVc), (60, 3, x.parIn)]
def Regulator.word (g : Regulator) : Nat :=
  packFields [(0, 9, g.rate), (16, 8, g.burst), (32, 16, g.tokens), (48, 16, g.throttled)]
def DatSlot.a (d : DatSlot) : Nat := packFields [(0, 8, d.who), (8, 1, b2n d.valid), (9, 1, b2n d.shared), (16, 48, d.bytes)]
def DatSlot.b (d : DatSlot) : Nat := packFields [(0, 32, d.pkts), (32, 16, d.latMax)]
def NocProbe.cfg (n : NocProbe) : Nat :=
  packFields [(0, 8, n.router), (8, 1, n.net), (9, 3, n.input), (12, 1, b2n n.enable), (13, 1, b2n n.trace), (14, 5, n.kept.length)]
def NocProbe.cap (n : NocProbe) (i : Nat) : Nat :=
  let w := n.kept.getD (i / 2) (0, 0)
  if i % 2 = 0 then w.1 else w.2

/-- LANE_STATUS and LANE_PRBS (Tables 13-9, 13-10). -/
def Lane.word (l : Lane) : Nat :=
  packFields [(0, 4, l.state.code), (4, 4, l.peak), (8, 1, b2n l.pinned), (9, 1, b2n l.manual), (10, 1, b2n l.blockLock),
    (11, 1, b2n l.marginLow), (12, 8, l.hMargin), (20, 8, l.vMargin), (32, 16, l.shErrs), (48, 16, l.retrains)]
def Lane.prbs (l : Lane) : Nat := packFields [(0, 48, l.prbsErrs), (48, 1, b2n l.prbsLock)]
/-- PORT_STATUS (Table 13-11). -/
def State.portWord (s : State) (t : Nat) : Nat :=
  let r := s.port t
  packFields [(0, 4, (s.portState t).code), (4, 2, r.bond), (6, 7, r.linkLow), (16, 16, r.cable), (32, 16, r.replays),
    (48, 8, r.limitHits), (56, 8, r.peerPort)]

def RegionState.code : RegionState → Nat
  | .unconfigured => 0 | .loading => 1 | .held => 2 | .released => 3
/-- Tables 15-8 and 15-9. -/
def Region.word (x : Region) : Nat :=
  packFields [(0, 2, x.state.code), (2, 1, b2n x.owner.isSome), (3, 4, x.owner.getD 0), (7, 1, b2n x.epWait), (8, 16, x.localFfs),
    (24, 1, b2n x.gclk0), (25, 1, b2n x.gclk1), (26, 1, b2n x.flash)]
def State.bankWord (s : State) (b : Nat) : Nat :=
  let x := s.bank b
  packFields [(0, 3, x.decl), (3, 1, b2n x.ok), (4, 1, b2n x.latched), (5, 2, tget s.ident.straps 0 b), (8, 8, satTo 8 (x.mv / 20)),
    (16, 16, x.drops)]

def EntryPhase.active : EntryPhase → Bool
  | .none => false | .draining _ _ => true
/-- Tables 17-9 and 17-10. -/
def Domain.status (d : Domain) : Nat :=
  packFields [(0, 2, d.state.code), (2, 1, b2n d.entry.active), (3, 1, b2n d.waking), (4, 1, b2n d.retLost), (16, 16, d.refuser),
    (32, 32, d.tNextUs)]
def Domain.tally (d : Domain) : Nat :=
  packFields [(0, 16, d.retEntries), (16, 16, d.offEntries), (32, 16, d.refused), (48, 16, d.aborted)]

/-- TRACE_STATUS (Table 19-4); DVALUE packets are emitted under DATA 2 in RETURN (R467). -/
def State.traceWord (s : State) : Nat :=
  let t := s.trace
  packFields [(0, 3, t.state.code), (3, 1, b2n t.full), (4, 1, b2n (t.state == .tracing && t.cfg.data == 2 && s.fuses.lcState == lcReturn)),
    (5, 1, b2n t.wrapped), (16, 32, t.written), (48, 16, t.overflows)]

/-! ### DIAG_REG_READ -/

/-- How many instances a register code has; `none` for an unassigned code. -/
def regCount (reg : Nat) : Option Nat :=
  if 0x0001 ≤ reg ∧ reg ≤ 0x0005 then some 512
  else if 0x0101 ≤ reg ∧ reg ≤ 0x0104 then some 256
  else if 0x0201 ≤ reg ∧ reg ≤ 0x020C then some 16
  else if reg = 0x020D then some 256
  else if reg = 0x0301 then some 32
  else if reg = 0x0401 ∨ reg = 0x0402 then some 64
  else if reg = 0x0403 then some 4
  else if reg = 0x0501 then some 256
  else if reg = 0x0502 then some 1264
  else if reg = 0x0503 then some 1
  else if 0x0504 ≤ reg ∧ reg ≤ 0x0506 then some 64
  else if 0x0507 ≤ reg ∧ reg ≤ 0x050A then some 8
  else if reg = 0x050B then some 256
  else if reg = 0x0601 ∨ reg = 0x0602 then some 256
  else if reg = 0x0603 ∨ reg = 0x0604 then some 128
  else if reg = 0x0701 then some 16
  else if reg = 0x0702 then some 24
  else if reg = 0x0801 ∨ reg = 0x0802 then some 628
  else if reg = 0x0901 then some 1
  else none

/-- The register's value. -/
def State.regValue (s : State) (reg i : Nat) : Nat :=
  match reg with
  | 0x0001 => s.foldStatus i
  | 0x0002 => (s.fold i).ecc.word
  | 0x0003 => (s.fold i).ecc.loc
  | 0x0004 => (s.fold i).seq.stallMark
  | 0x0005 => (s.fold i).dm.word
  | 0x0101 => (s.pair i).sched
  | 0x0102 => (s.pair i).diag.word
  | 0x0103 => (s.pair i).ring.word
  | 0x0104 => (s.pair i).acq.word
  | 0x0201 => (s.pas i).wdog.word
  | 0x0202 => (s.pas i).wdog.dead0
  | 0x0203 => (s.pas i).wdog.dead1
  | 0x0204 => (s.pas i).flow.word
  | 0x0205 => (s.pas i).flow.tally
  | 0x0206 => s.acqStatus i
  | 0x0207 => (s.acqOf i).index
  | 0x0208 => (s.snap i).word
  | 0x0209 => (s.pas i).ck.status
  | 0x020A => (s.pas i).ck.cEcycle
  | 0x020B => (s.pas i).ck.recWord
  | 0x020C => (s.pas i).ck.faultEcy
  | 0x020D => (tget (s.pas (i / 16)).comp.dmRegions DmRegion.init (i % 16)).word
  | 0x0301 => Engine.word s (s.engine i)
  | 0x0401 => (s.mregion i).base_
  | 0x0402 => (s.mregion i).pages
  | 0x0403 => (s.mstat i).word
  | 0x0501 => s.routerWord i
  | 0x0502 => (s.regulator i).word
  | 0x0503 => packFields [(0, 7, s.noc.slotsUsed), (7, 1, b2n s.noc.overflow)]
  | 0x0504 => (tget s.noc.slots DatSlot.init i).a
  | 0x0505 => (tget s.noc.slots DatSlot.init i).b
  | 0x0506 => (tget s.noc.slots DatSlot.init i).latSum
  | 0x0507 => (s.nocProbe i).cfg
  | 0x0508 => (s.nocProbe i).match_
  | 0x0509 => (s.nocProbe i).mask
  | 0x050A => (s.nocProbe i).count
  | 0x050B => (s.nocProbe (i / 32)).cap (i % 32)
  | 0x0601 => (s.lane i).word
  | 0x0602 => (s.lane i).prbs
  | 0x0603 => s.portWord i
  | 0x0604 => (s.port i).peer
  | 0x0701 => (s.region i).word
  | 0x0702 => s.bankWord i
  | 0x0801 => (s.domain i).status
  | 0x0802 => (s.domain i).tally
  | 0x0901 => s.traceWord
  | _ => 0

/-- The register's reset value, for a domain in RET or OFF or a disabled pair. STATE of FOLD_STATUS then reads OFF. -/
def regReset (reg : Nat) : Nat :=
  match reg with
  | 0x0502 => Regulator.init.word
  | 0x0603 => packFields [(16, 16, 0xFFFF), (56, 8, 0xFF)]
  | _ => 0

/-- What a DIAG_REG_READ answers. -/
inductive RegAnswer where
  | value (v : Nat)
  | badReg
  | badIndex
  | closing
deriving DecidableEq, Repr

/-- Whether a register of a fold or fold pair is disabled. -/
def State.regDisabled (s : State) (reg i : Nat) : Bool :=
  if reg ≤ 0x0005 then !s.pairEnabled (pairOf i) else if reg ≤ 0x0104 then !s.pairEnabled i else false

/-- DIAG_REG_READ (R315): it wakes nothing (R432). -/
def State.diagReg (s : State) (reg i : Nat) : RegAnswer :=
  match regCount reg with
  | none => .badReg
  | some n =>
    if n ≤ i then .badIndex
    else if s.regDisabled reg i then .value (regReset reg)
    else match regDomain reg i with
      | some d =>
        if (s.domain d).state ≠ .on then .value (regReset reg)
        else if (s.domain d).entry.active then .closing
        else .value (s.regValue reg i)
      | none => .value (s.regValue reg i)

end Sys2Proof.Machine
end

