-- ==== Sys2Proof/Machine/Unload.lean ====
section
/-!
DEFINITION. Unloading: the stop and drain of a pasture, the wipe of everything it held, and the end of its claims (R33, R200,
R205, R499). A refused or aborted load wipes through the same operation.
-/

namespace Sys2Proof.Machine

open Sys2Proof

/-- A fold once its pasture is gone; the tallies of FOLD_ECC and DM_PORT_STATUS stay (R201). FOLD_STALL.STALL_MARK is cleared with the rest of
the fold at LOAD and UNLOAD: the spec says neither that it is nor that it stays (DESIGN CHOICE, log 27). -/
def Fold.release (x : Fold) : Fold :=
  { Fold.init with
    ecc := { x.ecc with errs := [] }
    dm := { DmPort.init with late := x.dm.late, full := x.dm.full } }

/-- The ring registers that are tallies (Table 10-12) outlive the ring directory entry. -/
def PRing.release (k : PRing) : PRing :=
  { PRing.init with
    early := k.early, recoveries := k.recoveries, cause := k.cause, attempts := k.attempts, boundMet := k.boundMet,
    durationNs := k.durationNs, faultEcy := k.faultEcy }

/-- The tallies of the flow registers (Tables 8-10, 8-11). -/
def PFlow.release (w : PFlow) : PFlow :=
  { PFlow.init with
    readyHigh := w.readyHigh, stray := w.stray, earlySat := w.earlySat, hostErr := w.hostErr, bpBarriers := w.bpBarriers,
    bpSteps := w.bpSteps }

/-- The pasture block fields that read 0 in EMPTY (R499). -/
def PStat.release (t : PStat) : PStat :=
  { t with spanDevices := 0, spanIndex := 0, join := 0, root := false, rings := false, freezeCause := 0, freezeMid := false }

/-- Everything a pasture reached is zeroed and every claim ends (R200 steps 4 and 5). -/
def State.wipePasture (s : State) (p : Nat) : State :=
  let c := (s.pas p).comp
  let s := (foldsOf c.pairs).foldl (fun s f => s.modFold f Fold.release) s
  let s := c.pairs.foldl (fun s q => s.modPair q (fun x => { x with pads := [], port := [], busy := [], served := [] })) s
  let s := c.regions.foldl (fun s r => s.wipeRegion r) s
  let s := c.linkPorts.foldl (fun s t =>
    let low := (s.port t).linkLow
    let keys := (List.range 16).map (fun i => 16 * (t - low) + i)
    s.modPort low (fun q => { q with rxWords := keys.foldl tdel q.rxWords })) s
  let groups := (s.flow.owners.filter (fun e => e.2 == some p)).map Prod.fst
  let tasks := (s.flow.tasks.filter (fun e => e.2.owner == some p)).map Prod.fst
  let s := s.modFlow (fun w => { w with
    owners := w.owners.filter (fun e => e.2 != some p)
    queues := w.queues.filter (fun e => !(groups.contains (e.1 / 4)))
    tasks := tasks.foldl tdel w.tasks })
  let s := { s with
    hbm := c.allocs.foldl (fun (m : Mem) (a : Alloc) => memZero m a.base a.size) s.hbm
    mregions := s.mregions.filter (fun e => e.2.pasture != p)
    acq := tdel s.acq p
    snaps := tdel s.snaps p }
  s.modPas p (fun x => { x with
    stat := x.stat.release, comp := PComp.init, load := none, chans := [], run := PRun.init, flow := x.flow.release
    ck := x.ck.release, span := PSpan.init })

/-- The pasture returns to EMPTY, wiped; a session that this leaves nothing ends (R417). -/
def State.emptyPasture (s : State) (p : Nat) : State := ((s.wipePasture p).setPState p .empty).sweepSessions

/-- The states in which UNLOAD is permitted (Table 7-3). -/
def PState.unloads : PState → Bool
  | .loaded | .running | .stepping | .frozen | .faulted => true
  | _ => false

/-- Steps 1 to 3 of R200, with the unload token to every tree neighbour but the one it came from (R205): the folds stop, the
pins are released, issued deep memory writes are performed and everything else in flight is dropped. -/
def State.beginUnload (s : State) (p : Nat) (fromPort : Option Nat) : State :=
  let s := if s.spanning p then
      ((s.treePorts p).filter (fun t => some t != fromPort)).foldl (fun s t => s.linkTx (s.port t).linkLow ctUnload p []) s
    else s
  let s := s.setPState p .draining
  let s := (s.pas p).comp.regions.foldl (fun s r => s.modRegion r (fun x => { x with driving := false, epWait := false })) s
  let s := s.dmFlush p
  let s := s.modPas p (fun x => { x with
    ck := { x.ck with copying := false, kHeld := false, recovery := none }
    run := { x.run.unreleased with stops := [], holdAt := none, sendQ := [], sendNew := [] }
    span := { x.span with choosing := false }
    chans := x.chans.map (fun c => if c.dstKind = .edge then { c with srcFifo := [], path := [], dstFifo := [] } else c) })
  let s := (s.acqDrain p).modSnap p (fun n => { n with active := false })
  (s.finishAll 0x0502 p 0x0201).finishAll 0x0503 p 0x0201

/-- An engine still moves a message of the pasture. -/
def State.engineBusy (s : State) (p : Nat) : Bool :=
  (List.range Config.numEngines).any (fun e => match (s.engine e).run with
    | some (t, _) => (s.task t).owner == some p
    | none => false)

/-- The drain and the wipe end: the pasture is EMPTY and UNLOAD completes (R200 step 5). In HOLD the drain pauses (R199). -/
def execUnloadWipeComplete (pasture : Nat) (s : State) : Host.Outcome State Fault Refusal :=
  .next (
    if s.pstate pasture = .draining ∧ s.dev.mode ≠ .hold ∧ ¬ s.engineBusy pasture then
      let s := ((s.wipePasture pasture).setPState pasture .empty).finishAll 0x0101 pasture 0
      s.sweepSessions
    else s)

/-- UNLOAD (R200): it completes when the pasture is EMPTY. -/
def unloadCard : Card :=
  { opcode := 0x0101, modes := "SE", session := true, names := true, waits := true, lengthOk := lenIs 0,
    run := fun c g s => s.checked g [stateCheck (!(s.pstate c.pasture).unloads) 0x0201] (fun s =>
      s.beginUnload c.pasture none) }

def execUnload (c : Cmd) (s : State) : Host.Outcome State Fault Refusal := .next (s.runCard unloadCard c)

end Sys2Proof.Machine
end

