-- ==== Sys2Proof/Machine/Link.lean ====
section
/-!
DEFINITION. Urtenlink below the tokens of a span: lane and port states, training, CAP and the forming of bonds, the sequence,
replay and retrain of a link, and its data blocks (R338–R355, R358–R360).
-/

namespace Sys2Proof.Machine

open Sys2Proof

/-! ### Lanes and ports -/

/-- The pastures that hold one of some ports. -/
def State.portPastures (s : State) (ports : List Nat) : List Nat :=
  s.livePastures.filter (fun p => (s.pas p).comp.linkPorts.any (fun t => ports.contains t))

/-- The pastures that hold a port of a link. -/
def State.linkPastures (s : State) (link : Nat) : List Nat := s.portPastures (s.linkPorts link)

/-- The ports of the link that a port belongs to, in whatever state it is: those of the last bond that held it, or the port alone. -/
def State.linkGroup (s : State) (t : Nat) : List Nat := if (s.linkPorts t).contains t then s.linkPorts t else [t]

/-- Change a lane; where its port's state changes with it, DEVICE_EVENTS.LINK is set (Table 11-5). -/
def State.setLane (s : State) (l : Nat) (f : Lane → Lane) : State :=
  let s' := s.modLane l f
  if s'.portState (l / 2) = s.portState (l / 2) then s' else s'.devEvent evLink

/-- Change both lanes of a port. -/
def State.setLanes (s : State) (t : Nat) (f : Lane → Lane) : State := (portLanes t).foldl (fun s l => s.setLane l f) s

/-- A lane enters TRAIN: a LANE_EQ given since its last training takes effect (R352). -/
def Lane.train (l : Lane) : Lane :=
  let l := match l.pinPend with
    | some true => { l with pinned := true, peak := l.pinReq.getD l.peak }
    | some false => { l with pinned := false }
    | none => l
  { l with state := .train, pinPend := none, blockLock := false, passed := false, prbsLock := false, headers := 0 }

/-- A port's lanes in electrical idle in a state. -/
def State.idlePort (s : State) (t : Nat) (st : LaneState) : State :=
  s.setLanes t (fun x => { x with state := st, blockLock := false, passed := false, prbsLock := false, headers := 0 })

/-- What a link loses when it leaves ACTIVE or begins CAP: its credits, sequence, replay buffer and what it holds for the line, words among
it (R358). -/
def LinkPort.fresh (r : LinkPort) : LinkPort :=
  { r with
    txSeq := 0, rxSeq := 0, discard := false, nakDue := false, wait := [], sent := [], txd := 0, line := [], naks := [], txPos := 0,
    rxPos := 0, credits := [], owed := [], rxWords := [], group := [], unacked := 0, ackAge := 0 }

/-- A port begins training again. -/
def State.retrainPort (s : State) (t : Nat) : State :=
  let s := s.setLanes t (fun x => { x.train with retrains := satTo 16 (x.retrains + 1) })
  s.modPort t (fun r => { r.fresh with ready := false, capRecs := [], retrainPending := false })

/-- Every port of a link begins training again; the bond keeps its form until CAP forms it anew. -/
def State.retrainPorts (s : State) (link : Nat) : State := (s.linkGroup link).foldl (fun s t => s.retrainPort t) s

/-- The link leaves ACTIVE by itself and retrains: every pasture that uses it takes 0x060A (R349, R358). -/
def State.leaveActive (s : State) (link : Nat) (f : State → State) : State :=
  let ps := s.linkPastures link
  let ports := s.linkPorts link
  let s := (f s).modPort link (fun r => { r with lost := ports })
  ps.foldl (fun s p => s.controlFault p 0x060A none) s

/-- Retrain a link. -/
def State.retrainLink (s : State) (link : Nat) : State :=
  if s.linkActive link then s.leaveActive link (fun s => s.retrainPorts link) else s

/-! ### Bonds and CAP (R339, R355) -/

/-- A port has every record of its peer and its echo. -/
def LinkPort.capDone (r : LinkPort) : Bool :=
  (List.range 7).all (fun i => r.capRecs.any (fun e => e.1 == i)) && r.capRecs.any (fun e => e.1 == 8)

/-- The peer's DEVICE_SERIAL of records 1 to 6, as one number. -/
def LinkPort.capSerial (r : LinkPort) : Nat :=
  (List.range 6).foldl (fun n i => n + tget r.capRecs 0 (i + 1) % 2 ^ 24 * 2 ^ (24 * i)) 0

/-- Whether the ports [low, low + n) may be bonded: every one has finished CAP with the same peer, and they face ports of
an aligned group in order. -/
def State.mayBond (s : State) (low n : Nat) : Bool :=
  let r0 := s.port low
  r0.peerPort % n == 0 && (List.range n).all (fun i =>
    let r := s.port (low + i)
    s.portState (low + i) == .cap && r.capDone && r.capSerial == r0.capSerial && r.peerPort == r0.peerPort + i)

/-- The ports of a link reach ACTIVE under their lowest port. -/
def State.activate (s : State) (low log2 : Nat) : State :=
  (List.range (2 ^ log2)).foldl (fun s i =>
    (s.setLanes (low + i) (fun x => { x with state := .active })).modPort (low + i) (fun r => { r.fresh with
      bond := log2, linkLow := low, retrainPending := false })) s

/-- Form the largest bond of a port's group that is possible now. -/
def State.formBond (s : State) (t : Nat) : State :=
  let q := 4 * (t / 4)
  let d := 2 * (t / 2)
  if s.portState t ≠ .cap ∨ ¬ (s.port t).capDone then s
  else if s.mayBond q 4 then s.activate q 2
  else if s.mayBond d 2 then s.activate d 1
  else s.activate t 0

/-- Nothing of a port's exchange is left to send or to acknowledge, on either side. -/
def LinkPort.capQuiet (r : LinkPort) : Bool := r.wait.isEmpty && r.sent.isEmpty && r.unacked == 0 && !r.nakDue && !r.discard

/-- A port that is on its way to CAP or has not finished it. -/
def State.bondPending (s : State) (t : Nat) : Bool :=
  match s.portState t with
  | .train | .lock => true
  | .cap => !((s.port t).capDone && (s.port t).capQuiet)
  | _ => false

/-- Once no port of the aligned group is still on its way, its ports that have finished CAP form their bonds (DEDUCED, log 24). -/
def State.formBonds (s : State) (t : Nat) : State :=
  let ports := (List.range 4).map (fun i => 4 * (t / 4) + i)
  if ports.any (fun q => s.bondPending q) then s else ports.foldl (fun s q => s.formBond q) s

/-- The port is refused, and its transmitters return to electrical idle. -/
def State.refusePort (s : State) (t : Nat) : State := (s.idlePort t .refused).formBonds t

/-- The body of a CAP record. -/
def capBody (index data : Nat) : Nat := index + 256 * (data % 2 ^ 24)

/-- A port enters CAP: its records and its ECHO_REQ go to the peer. The eligibility bits say that the ports of the pair, and
of the group of four, take part. -/
def State.enterCap (s : State) (t : Nat) : State :=
  let s := s.setLanes t (fun x => { x with state := .cap })
  let s := s.modPort t (fun r => { r.fresh with capRecs := [] })
  let takes (q : Nat) : Bool := match s.portState q with
    | .train | .lock | .cap => true
    | _ => false
  let x2 := takes (2 * (t / 2)) && takes (2 * (t / 2) + 1)
  let x4 := (List.range 4).all (fun i => takes (4 * (t / 4) + i))
  let rec0 := packFields [(0, 8, t), (8, 8, 1), (16, 1, b2n x2), (17, 1, b2n x4)]
  let ser (i : Nat) : Nat := fieldAt s.ident.serial (3 * i) 3
  let recs := (0, rec0) :: (List.range 6).map (fun i => (i + 1, ser i)) ++ [(7, s.time.ns % 2 ^ 24)]
  recs.foldl (fun s e => s.enqueue t ctCap (capBody e.1 e.2) []) s

/-- The one-way cable delay in 0.1 ns of an echo round trip in ns. -/
def cableOf (roundTrip : Nat) : Nat := min 0xFFFE ((10 * roundTrip - 820) / 2)

/-- A CAP record arrives on a port in CAP. The own serial returned sends the port to TEST (R360); else the exchange may be
complete. -/
def State.capRecord (s : State) (t body : Nat) : State :=
  if s.portState t ≠ .cap then s
  else
    let i := body % 16
    let d := bitsOf body 8 24
    let s := if i = 7 then s.enqueue t ctCap (capBody 8 d) [] else s
    let s := s.modPort t (fun r => { r with capRecs := tins i d (tdel r.capRecs i) })
    let s := if i = 8 then
        s.modPort t (fun r => { r with cable := cableOf (wrapSub 24 s.time.ns d) })
      else s
    if (s.port t).capDone then
      let r := s.port t
      let s := s.modPort t (fun r => { r with peerPort := tget r.capRecs 0 0 % 256, peer := r.capSerial % 2 ^ 64 })
      if r.capSerial = fieldAt s.ident.serial 0 16 then
        (s.setLanes t (fun x => { x with state := .test, prbsLock := false })).formBonds t
      else s.formBonds t
    else s

/-! ### Training (R350–R353) -/

/-- Every 1 ms a lane in DETECT senses the far-end termination; where it is seen the lane trains. A lane quad that is OFF
senses nothing; one in RET is woken for the poll. -/
def execDetectPoll (lane : Nat) (seen : Bool) (s : State) : Host.Outcome State Fault Refusal :=
  let d := domQuad (lane / 4)
  .next (
    if (s.lane lane).state ≠ .detect ∨ (s.domain d).state = .off then s
    else
      let s := s.demandWake d
      if seen then (s.setLane lane Lane.train).modPort (lane / 2) (fun r => { r with ready := false, capRecs := [] }) else s)

/-- A lane that passed and whose peer is READY goes to LOCK; its last block in TRAIN is a TRAIN_MARK, so that the peer sees READY too
(DEDUCED, log 66). -/
def State.lockLanes (s : State) (t : Nat) : State :=
  if (s.port t).ready then
    (portLanes t).foldl (fun s l =>
      if (s.lane l).state = .train ∧ (s.lane l).passed then
        (s.putLane l 2 (controlWord 0x40 0 (s.markBody t))).setLane l (fun x => { x with
          state := .lock, blockLock := false, lockWin := 0, lockRun := 0 })
      else s) s
  else s

/-- The lock criterion: 0.20 UI and 20 mV (R351). -/
def marginsLock (h v : Nat) : Bool := decide (20 * 256 ≤ 100 * h) && decide (20 ≤ v)

/-- The best of the settings scanned, whose openings stand in the order of the settings: the widest horizontal opening, then the greater
vertical one, then the lower setting (R351). -/
def bestPeak (openings : List (Nat × Nat)) : Nat :=
  ((openings.zipIdx).foldl (fun best e =>
    let b := openings.getD best (0, 0)
    if b.1 < e.1.1 ∨ (b.1 = e.1.1 ∧ b.2 < e.1.2) then e.2 else best) 0)

/-- The margin scan ends, with the openings (horizontal in 1/256 UI, vertical in mV) that the coarse scan found at settings 0–15 and those
that the fine one measured at the setting taken. The device takes the best of the coarse ones, a pinned lane its own, and a lane short of a
target is refused with its whole port (R351, R352). -/
def execTrainScanComplete (lane : Nat) (coarse : List (Nat × Nat)) (hMargin vMargin : Nat) (s : State) :
    Host.Outcome State Fault Refusal :=
  let x := s.lane lane
  let peak := if x.pinned then x.peak else bestPeak (coarse.take 16)
  .next (
    if x.state ≠ .train ∨ x.passed then s
    else
      let s := s.modLane lane (fun x => { x with peak := peak, hMargin := satTo 8 hMargin, vMargin := satTo 8 vMargin, marginLow := false })
      if marginsLock hMargin vMargin then (s.modLane lane (fun x => { x with passed := true })).lockLanes (lane / 2)
      else s.refusePort (lane / 2))

/-- A TRAIN_MARK carries the peer's READY. -/
def execTrainMark (port : Nat) (ready : Bool) (s : State) : Host.Outcome State Fault Refusal :=
  .next (
    if (portLanes port).any (fun l => (s.lane l).state == .train) then
      (s.modPort port (fun r => { r with ready := ready })).lockLanes port
    else s)

/-- With both lanes locked the port goes on to CAP. -/
def State.lockDone (s : State) (t : Nat) : State :=
  if (portLanes t).all (fun l => (s.lane l).state == .lock && (s.lane l).blockLock) then s.enterCap t else s

/-- The receiver of a lane in LOCK has found its block boundary, by as many automatic slips as it took; in manual alignment it slips
by itself no more, and the boundary is where LANE_BITSLIP left it (R353). -/
def execBlockLock (lane : Nat) (s : State) : Host.Outcome State Fault Refusal :=
  .next (
    if (s.lane lane).state = .lock then
      let (k, s) := s.draw 7
      (s.modLane lane (fun x => { x with
        blockLock := true, boundary := if x.manual then x.boundary else (x.boundary + k) % 66 })).lockDone (lane / 2)
    else s)

/-- One header at the receiver of a lane in LOCK: 64 valid ones in a row lock it; after a window of 64 blocks that held an invalid one the
boundary slips one bit, unless the lane is in manual alignment (R353). -/
def Lane.lockHeader (x : Lane) (bad : Bool) : Lane :=
  let run := if bad then 0 else x.lockRun + 1
  if 64 ≤ run then { x with blockLock := true, lockWin := 0, lockRun := 64 }
  else if x.lockWin + 1 < 64 then { x with lockWin := x.lockWin + 1, lockRun := run }
  else if x.manual then { x with lockWin := 0, lockRun := run }
  else { x with boundary := (x.boundary + 1) % 66, lockWin := 0, lockRun := 0 }

/-- The bound of TRAIN, LOCK and CAP passes: a port that has finished CAP takes the bond that is possible now, and any other
port ends REFUSED. -/
def execTrainBoundExpiry (port : Nat) (s : State) : Host.Outcome State Fault Refusal :=
  .next (
    if (s.port port).capDone ∧ s.portState port = .cap then s.formBond port
    else if (portLanes port).any (fun l => (s.lane l).state.trains) then s.refusePort port
    else s)

/-- A pasture that evaluates uses the link. -/
def State.linkBusy (s : State) (link : Nat) : Bool :=
  (s.linkPastures link).any (fun p => (s.pstate p).evaluates)

/-- The measurement of an ACTIVE lane: an opening below half its target sets MARGIN_LOW, and the link retrains once no
pasture that evaluates uses it (R354). -/
def execMarginCheck (lane hMargin vMargin : Nat) (s : State) : Host.Outcome State Fault Refusal :=
  let x := s.lane lane
  let low := decide (100 * hMargin < 10 * 256) || decide (vMargin < 10)
  let link := (s.port (lane / 2)).linkLow
  .next (
    if x.state ≠ .active then s
    else
      let s := s.modLane lane (fun y => { y with hMargin := hMargin, vMargin := vMargin, marginLow := low })
      if low ∧ ¬ x.marginLow then
        let s := (s.devEvent evLink).logDecision "lane margin" lane (hMargin + 256 * vMargin)
        if s.linkBusy link then s.modPort link (fun r => { r with retrainPending := true }) else s.retrainLink link
      else s)

/-- A retrain that waited for its pastures. -/
def State.retrainDue (s : State) (link : Nat) : State :=
  if (s.port link).retrainPending ∧ ¬ s.linkBusy link then s.retrainLink link else s

/-- A link not ACTIVE again within 100 ms of leaving it makes its pastures FAULTED on every reachable member (R206, R358); HOLD does not
count (R359). The ports are those of the link when it left ACTIVE. -/
def execLinkLostTimeout (link : Nat) (s : State) : Host.Outcome State Fault Refusal :=
  let ports := (s.port link).lost
  .next (
    if ¬ ports.all (fun t => s.linkActive t) ∧ s.dev.mode ≠ .hold then
      let s := s.modPort link (fun r => { r with lost := [] })
      (s.portPastures ports).foldl (fun s p => s.faultPas p 0x0608 none) s
    else s)

/-! ### Blocks received: headers, sequence and replay (R341, R347–R349) -/

/-- The link, or port in CAP, whose stream a block belongs to. -/
def State.receives (s : State) (link : Nat) : Bool :=
  s.portState link == .cap || ((s.port link).linkLow == link && s.linkActive link)

/-- The lane on which the next block of a link's stream, or of a port's lanes in turn, arrives (R341). -/
def State.rxLane (s : State) (link : Nat) : Nat :=
  2 * link + (s.port link).rxPos % (if s.linkActive link then 2 ^ ((s.port link).bond + 1) else 2)

/-- How many of the last 64 headers of a lane were invalid. -/
def Lane.badHeaders (x : Lane) : Nat := (List.range 64).foldl (fun n i => n + b2n (x.headers.getLsbD i)) 0

/-- A block's header on its lane: an invalid one is counted, and 16 among 64 lose block lock (R349, Table 13-3). -/
def State.rxHeader (s : State) (link : Nat) (bad : Bool) : State :=
  let l := s.rxLane link
  let s := (s.modPort link (fun r => { r with rxPos := r.rxPos + 1 })).modLane l (fun x => { x with
    headers := (x.headers <<< 1) ||| BitVec.ofNat 64 (b2n bad)
    shErrs := if bad then satTo 16 (x.shErrs + 1) else x.shErrs })
  if bad ∧ 16 ≤ (s.lane l).badHeaders then (s.retrainLink link).modLane l (fun x => { x with blockLock := false }) else s

/-- A port in far-end loopback sends what it receives back on the same lane (Table 13-6). -/
def State.echoes (s : State) (t : Nat) : Bool := s.portState t == .loop && (s.port t).loopMode == 3

def State.echo (s : State) (t header payload : Nat) : State :=
  (s.modPort t (fun r => { r with rxPos := r.rxPos + 1 })).putLane (s.rxLane t) header payload

/-- A control block that passed its CRC comes over a link with a valid header: `act` is what follows where the link receives it. -/
def State.rxControl (s : State) (link ctype cseq body : Nat) (act : State → State) : State :=
  if s.echoes link then s.echo link 2 (controlWord ctype cseq body)
  else if s.receives link then act (s.rxHeader link false)
  else s

/-- NAK with the CSEQ expected; every block is then discarded until that one comes. -/
def State.sendNak (s : State) (link : Nat) : State := s.modPort link (fun r => { r with discard := true, nakDue := true })

/-- A sequenced control block that passed its CRC, at its place in the stream: at a data position it is a slip; out of sequence it is
discarded, with a NAK unless one has been sent; else it is accepted, to be acknowledged, and acted on. -/
def State.takeSequenced (s : State) (link cseq : Nat) (act : State → State) : State :=
  let r := s.port link
  if ¬ r.group.isEmpty then s.retrainLink link
  else if cseq ≠ r.rxSeq then (if r.discard then s else s.sendNak link)
  else act (s.modPort link (fun r => { r with rxSeq := (r.rxSeq + 1) % 256, discard := false, unacked := r.unacked + 1 }))

def State.accept (s : State) (link ctype cseq body : Nat) (act : State → State) : State :=
  s.rxControl link ctype cseq body (fun s => s.takeSequenced link cseq act)

/-- An unsequenced control block at its place. -/
def State.takePlain (s : State) (link : Nat) (act : State → State) : State :=
  let r := s.port link
  if r.discard then s else if ¬ r.group.isEmpty then s.retrainLink link else act s

def State.plain (s : State) (link ctype body : Nat) (act : State → State) : State :=
  s.rxControl link ctype 0 body (fun s => s.takePlain link act)

/-- An ACK frees the blocks up to its CSEQ. -/
def State.ackTo (s : State) (link cseq : Nat) : State :=
  match (s.port link).sent.findIdx? (fun b => b.cseq == cseq) with
  | some i =>
    s.modPort link (fun r => { r with
      sent := r.sent.drop (i + 1), txd := r.txd - (i + 1)
      naks := r.naks.filter (fun e => !((r.sent.take (i + 1)).any (fun b => b.cseq == e.1))) })
  | none => s

/-- Resend from a CSEQ on; the eighth NAK or timeout that names a block reaches the replay limit, and the link retrains (R348). -/
def State.resendFrom (s : State) (link cseq : Nat) : State :=
  let r := s.port link
  match (r.sent.take r.txd).findIdx? (fun b => b.cseq == cseq) with
  | some i =>
    let n := tget r.naks 0 cseq + 1
    if 8 ≤ n then
      let s := s.modPort link (fun r => { r with limitHits := satTo 8 (r.limitHits + 1) })
      if s.linkActive link then s.retrainLink link else s.retrainPort link
    else
      s.modPort link (fun r => { r with txd := i, naks := tput r.naks 0 cseq n, replays := satTo 16 (r.replays + 1) })
  | none => s

def execLinkAck (link cseq : Nat) (s : State) : Host.Outcome State Fault Refusal :=
  .next (s.plain link ctAck (cseq % 256) (fun s => s.ackTo link cseq))

def execLinkNak (link cseq : Nat) (s : State) : Host.Outcome State Fault Refusal :=
  .next (s.plain link ctNak (cseq % 256) (fun s => s.resendFrom link cseq))

/-- No ACK within 100 µs of the oldest unacknowledged block: the same resend as a NAK. -/
def execReplayTimeout (link : Nat) (s : State) : Host.Outcome State Fault Refusal :=
  .next (match s.receives link, (s.port link).sent with
    | true, b :: _ => s.resendFrom link b.cseq
    | _, _ => s)

/-- A control block fails its CRC, or comes with an invalid header: NAK, and discard until the CSEQ expected comes. -/
def State.badControl (s : State) (link : Nat) (badHeader : Bool) : State :=
  if (s.port link).group.isEmpty then (s.rxHeader link badHeader).sendNak link else s

/-- A port in far-end loopback sends back a block whose bits the event does not tell. -/
def execCrcFailure (link : Nat) (badHeader : Bool) (s : State) : Host.Outcome State Fault Refusal :=
  .next (
    if s.echoes link then
      let (w, s) := s.draw 64
      let (h, s) := s.draw 1
      s.echo link (if badHeader then 3 * h else 2) w
    else if s.receives link then s.badControl link badHeader
    else s)

/-- A reserved CTYPE that passes its CRC takes the link out of ACTIVE (R343, R349). In far-end loopback the block, of which the event names
no part, goes back. -/
def execProtocolError (link : Nat) (s : State) : Host.Outcome State Fault Refusal :=
  .next (
    if s.echoes link then
      let (w, s) := s.draw 64
      s.echo link 2 w
    else s.plain link 0 0 (fun s => s.retrainLink link))

/-- The elastic buffer removes or repeats a SKIP before it rebuilds the stream, and touches nothing else (R348). -/
def execSkip (_link : Nat) (_repeated : Bool) (s : State) : Host.Outcome State Fault Refusal := .next s

/-! ### CAP, CREDIT and TAG -/

def execCap (link cseq : Nat) (body : BitVec 32) (s : State) : Host.Outcome State Fault Refusal :=
  .next (s.accept link ctCap cseq body.toNat (fun s => s.capRecord link body.toNat))

/-- A CREDIT returns credits for one link slot; a sender never holds more than 1,024 (R345). -/
def State.creditBack (s : State) (link body : Nat) : State :=
  let slot := bitsOf body 0 6
  let n := bitsOf body 6 11
  s.modPort link (fun r => { r with
    credits := tput r.credits 1024 slot (min 1024 (tget r.credits 1024 slot + n)) })

def execCredit (link cseq : Nat) (body : BitVec 32) (s : State) : Host.Outcome State Fault Refusal :=
  .next (s.accept link ctCredit cseq body.toNat (fun s => s.creditBack link body.toNat))

/-- The entries of a TAGN: the slot and word count of each of its N data blocks (R344). -/
def tagEntries (n body : Nat) : List (Nat × Nat) :=
  (List.range n).map (fun k => (bitsOf body (8 * k) 6, bitsOf body (8 * k + 6) 2 + 1))

def State.tagGroup (s : State) (link n body : Nat) : State :=
  s.modPort link (fun r => { r with group := tagEntries n body })

def execTag (link cseq n : Nat) (body : BitVec 32) (s : State) : Host.Outcome State Fault Refusal :=
  .next (s.accept link (ctTag + n) cseq body.toNat (fun s => s.tagGroup link n body.toNat))

/-- The words of a data block go to their link slot; words past the count are not delivered. -/
def State.deliverBlock (s : State) (link payload : Nat) : State :=
  s.modPort link (fun r => match r.group with
    | [] => r
    | (slot, n) :: rest =>
      let words := (List.range n).map (fun k => BitVec.ofNat 16 (bitsOf payload (16 * k) 16))
      { r with group := rest, rxWords := tput r.rxWords [] slot (tget r.rxWords [] slot ++ words) })

/-! ### Lane commands (Table 11-13) -/

/-- Ports of the aligned group of a port. -/
def portGroup (p : Nat) : List Nat := (List.range 4).map (fun i => 4 * (p / 4) + i)

/-- ACTION 0: every DOWN or REFUSED port of the group goes to DETECT, with automatic alignment. -/
def State.bringUp (s : State) (p : Nat) : State :=
  let s := (portGroup p).foldl (fun s t =>
    if s.portState t = .down ∨ s.portState t = .refused then
      s.setLanes t (fun x => { x with state := .detect, manual := false })
    else s) s
  s.demandWake (domQuad (p / 2))

/-- Manual alignment ends with a LANE_BRINGUP of the lanes (R353). -/
def State.autoAlign (s : State) (ports : List Nat) : State :=
  ports.foldl (fun s t => (portLanes t).foldl (fun s l => s.modLane l (fun x => { x with manual := false })) s) s

/-- ACTION 1: the whole link that holds the port trains again, those of its ports that are past DETECT. -/
def State.retrainCmd (s : State) (p : Nat) : State :=
  let ports := s.linkGroup p
  let s := s.autoAlign ports
  if s.linkActive p then s.retrainLink (s.port p).linkLow
  else ports.foldl (fun s t => if (s.portState t).trains then s.retrainPort t else s) s

/-- A port leaves whatever it did, DOWN or in loopback. BOND and LINK_LOW name the last link that held it until a link is formed again
(DESIGN CHOICE, log 24). -/
def State.portOut (s : State) (st : LaneState) (t : Nat) : State :=
  (s.idlePort t st).modPort t (fun r => { r.fresh with ready := false, capRecs := [], retrainPending := false, loopMode := 0 })

/-- ACTION 2: the whole link that holds the port goes DOWN. -/
def State.takeDown (s : State) (p : Nat) : State :=
  let low := (s.port p).linkLow
  let ports := s.linkGroup p
  let down (s : State) : State := ports.foldl (fun s t => s.portOut .down t) (s.autoAlign ports)
  if s.linkActive p then s.leaveActive low down else (down s).formBonds p

/-- The checks that the three actions of LANE_BRINGUP share. -/
def bringupChecks (c : Cmd) : List Check :=
  reservedZero c 2 6 ++ [rangeCheck (decide (128 ≤ fieldAt c.params 0 1)) 0, rangeCheck (decide (2 < fieldAt c.params 1 1)) 1]

def bringupCard (act : Nat → State → State) (states : Bool) : Card :=
  { opcode := 0x0701, modes := "SE", session := false, names := false, waits := false, lengthOk := lenIs 8,
    run := fun c g s =>
      let p := fieldAt c.params 0 1
      let busy := states && ((s.portHolder p).map (fun h => (s.pstate h).evaluates)).getD false
      s.checked g (bringupChecks c ++ [stateCheck busy 0x0201]) (fun s => (act p s).complete g 0 []) }

/-- The ACTION of a LANE_BRINGUP packet. -/
def laneAction (c : Cmd) : Nat := fieldAt c.params 1 1

/-- LANE_BRINGUP, ACTION 0; a packet of no ACTION is refused here. -/
def execLaneBringup (c : Cmd) (s : State) : Host.Outcome State Fault Refusal :=
  .next (if laneAction c = 1 ∨ laneAction c = 2 then s else s.runCard (bringupCard (fun p s => s.bringUp p) false) c)

/-- LANE_BRINGUP, ACTION 1. -/
def execLaneRetrain (c : Cmd) (s : State) : Host.Outcome State Fault Refusal :=
  .next (if laneAction c = 1 then s.runCard (bringupCard (fun p s => s.retrainCmd p) false) c else s)

/-- LANE_BRINGUP, ACTION 2. -/
def execLaneTakeDown (c : Cmd) (s : State) : Host.Outcome State Fault Refusal :=
  .next (if laneAction c = 2 then s.runCard (bringupCard (fun p s => s.takeDown p) true) c else s)

/-- LANE_EQ (R352). -/
def laneEqCard : Card :=
  { opcode := 0x0702, modes := "SE", session := false, names := false, waits := false, lengthOk := lenIs 8,
    run := fun c g s =>
      let l := fieldAt c.params 0 1
      let m := fieldAt c.params 1 1
      let k := fieldAt c.params 2 1
      s.checked g (reservedZero c 3 5 ++ [rangeCheck (decide (1 < m)) 1, rangeCheck (decide (15 < k)) 2]) (fun s =>
        (s.modLane l (fun x => { x with pinPend := some (m == 1), pinReq := if m = 1 then some k else none })).complete g 0 []) }

def execLaneEq (c : Cmd) (s : State) : Host.Outcome State Fault Refusal := .next (s.runCard laneEqCard c)

/-- Shift a lane's boundary. A lane of an ACTIVE link loses its lock, and the link retrains (R349, R353). -/
def State.bitslip (s : State) (l n : Nat) : State :=
  let s := s.modLane l (fun x => { x with boundary := (x.boundary + n) % 66, manual := true, blockLock := false })
  if (s.lane l).state = .active then s.retrainLink (s.port (l / 2)).linkLow else s

/-- LANE_BITSLIP (R353). -/
def laneBitslipCard : Card :=
  { opcode := 0x0703, modes := "SE", session := false, names := false, waits := false, lengthOk := lenIs 8,
    run := fun c g s =>
      let l := fieldAt c.params 0 1
      let n := fieldAt c.params 1 1
      let held := s.portState (l / 2) == .active && (s.portHolder (l / 2)).isSome
      s.checked g (reservedZero c 2 6 ++ [rangeCheck (n == 0 || decide (65 < n)) 1, stateCheck held 0x0201]) (fun s =>
        (s.bitslip l n).complete g 0 []) }

def execLaneBitslip (c : Cmd) (s : State) : Host.Outcome State Fault Refusal := .next (s.runCard laneBitslipCard c)

/-- A block at the PRBS31 checker of a lane in TEST or in a near-end loopback: the first one sets the checker, and of the others the bits
that differ from PRBS31 are counted (R360). -/
def Lane.check (x : Lane) (payload : Nat) : Lane :=
  if x.prbsLock then
    let (w, st) := prbs31 64 x.prbsRx
    { x with prbsRx := st, prbsErrs := satTo 48 (x.prbsErrs + bitErrors w payload) }
  else { x with prbsLock := true, prbsRx := prbsSeed payload }

/-- Put a port in a loopback of Table 13-6, or take it DOWN; in modes 1 and 2 the checker runs with the generator. The rest of a link that it belonged to trains again. -/
def State.loopback (s : State) (t m : Nat) : State :=
  let s := if s.linkActive t then s.retrainLink (s.port t).linkLow else s
  if m = 0 then (s.portOut .down t).formBonds t
  else
    let s := (s.portOut .loop t).modPort t (fun r => { r with loopMode := m })
    let s := s.demandWake (domQuad (t / 2))
    ((portLanes t).foldl (fun s l => s.modLane l (fun x => { x with prbsLock := m != 3, prbsRx := x.prbsTx })) s).formBonds t

/-- LANE_LOOPBACK (R360). -/
def laneLoopbackCard : Card :=
  { opcode := 0x0704, modes := "S", session := false, names := false, waits := false, lengthOk := lenIs 8,
    run := fun c g s =>
      let t := fieldAt c.params 0 1
      let m := fieldAt c.params 1 1
      s.checked g (reservedZero c 2 6 ++ [rangeCheck (decide (128 ≤ t)) 0, rangeCheck (decide (3 < m)) 1,
        stateCheck (s.portHolder t).isSome 0x0201]) (fun s => (s.loopback t m).complete g 0 []) }

def execLaneLoopback (c : Cmd) (s : State) : Host.Outcome State Fault Refusal := .next (s.runCard laneLoopbackCard c)

/-- The 4,096-byte result of LANE_STATUS (R363). -/
def State.laneBlock (s : State) : List Byte :=
  (List.range 256).flatMap (fun l => leBytes 8 (s.lane l).word) ++
    (List.range 128).flatMap (fun t => leBytes 8 (s.portWord t) ++ leBytes 8 (s.port t).peer)

def laneStatusCard : Card :=
  { opcode := 0x0705, modes := "SEMH", session := false, names := false, waits := false, lengthOk := lenIs 16,
    run := fun c g s => s.checked g (reservedZero c 12 4 ++ resultChecks c 4096) (fun s =>
      s.completeResult g c [] s.laneBlock true) }

def execLaneStatus (c : Cmd) (s : State) : Host.Outcome State Fault Refusal := .next (s.runCard laneStatusCard c)

end Sys2Proof.Machine
end

