-- ==== Sys2Proof/Machine/Span.lean ====
section
/-!
DEFINITION. The traffic of a spanning pasture: CHANCOUNT and join blocks, the root's judgement of a join, and the tokens of
its device tree; the data blocks of a link (R102, R116, R117, R204–R206, R255, R271, R344, R349, R356, R357).
-/

namespace Sys2Proof.Machine

open Sys2Proof

/-! ### CHANCOUNT (R357) -/

/-- The key under which the COUNT that a peer gives for a link slot is held (one more than it), by link, slot and the peer's
DIR. -/
def countKey (link slot : Nat) (dir : Bool) : Nat := 2 * (64 * link + slot) + b2n dir

/-- The mark that a peer's CHANCOUNTs on a link are all in: an IDLE has followed them, which the order of R346 sends only once
no CHANCOUNT waits. -/
def countsInKey (link : Nat) : Nat := 2 ^ 20 + link

/-- The ends of a pasture's channels on its links: link, link slot, whether outbound, COUNT. -/
def State.linkEnds (s : State) (p : Nat) : List (Nat × Nat × Bool × Nat) :=
  let at_ (id : Nat) (out : Bool) (n : Nat) : Nat × Nat × Bool × Nat :=
    let t := id / 16
    let low := (s.port t).linkLow
    (low, 16 * (t - low) + id % 16, out, n)
  (s.pas p).chans.flatMap (fun c =>
    (if c.dstKind = .link then [at_ c.dstId true c.count] else []) ++
    (if c.srcKind = .link then [at_ c.srcId false c.count] else []))

/-- The links of a pasture. -/
def State.pasLinks (s : State) (p : Nat) : List Nat :=
  (((s.pas p).comp.linkPorts ++ s.treePorts p).map (fun t => (s.port t).linkLow)).dedup

/-- Every link of the pasture is ACTIVE. -/
def State.pasLinksUp (s : State) (p : Nat) : Bool :=
  ((s.pas p).comp.linkPorts ++ s.treePorts p).all (fun t => s.linkActive t)

def chancountBody (p slot : Nat) (out : Bool) (count : Nat) : Nat :=
  packFields [(0, 4, p), (4, 6, slot), (10, 1, b2n out), (11, 11, count)]

/-- What the peer gave for an end: its DIR is the other one. -/
def State.peerCount (s : State) (p : Nat) (e : Nat × Nat × Bool × Nat) : Nat :=
  tget (s.pas p).span.counts 0 (countKey e.1 e.2.1 (!e.2.2.1))

/-- Every end has its peer's CHANCOUNT, or the peer's are all in. -/
def State.countsIn (s : State) (p : Nat) : Bool :=
  (s.linkEnds p).all (fun e => s.peerCount p e != 0 || tget (s.pas p).span.counts 0 (countsInKey e.1) != 0)

/-- A slot used at one end only, or two COUNT values that differ. -/
def State.countMismatch (s : State) (p : Nat) : Bool :=
  let ends := s.linkEnds p
  ends.any (fun e => s.peerCount p e != e.2.2.2 + 1) ||
    (s.pas p).span.counts.any (fun k => decide (k.1 < 2 ^ 20) && !(ends.any (fun e => countKey e.1 e.2.1 (!e.2.2.1) == k.1)))

/-! ### Join blocks (R204, R357) -/

/-- JFLAGS. -/
def State.jflags (s : State) (p : Nat) : Nat :=
  let x := s.pas p
  packFields [(0, 1, b2n x.stat.rings), (1, 1, b2n (s.acqOf p).spanTrig), (2, 1, b2n (s.countMismatch p)),
    (3, 1, b2n x.span.portWrong)]

/-- The member's own join block. -/
def State.joinBlock (s : State) (p : Nat) : List Byte :=
  let x := s.pas p
  padTo 32 (padTo 16 x.comp.jobId ++ leBytes 2 x.comp.profile ++ leBytes 1 x.stat.spanDevices ++ leBytes 1 x.stat.spanIndex
    ++ leBytes 1 (s.jflags p) ++ leBytes 1 (x.comp.parent.getD 0xFF))

def joinBody (p index data member : Nat) : Nat := packFields [(0, 4, p), (4, 4, index), (8, 16, data), (24, 6, member)]

/-- Send one join block up, in 16 JOIN blocks. -/
def State.sendJoin (s : State) (p up member : Nat) (bs : List Byte) : State :=
  (List.range 16).foldl (fun s i =>
    s.linkTx (s.port up).linkLow ctJoin (joinBody p i (fieldAt bs (2 * i) 2) member) []) s

/-- The join block of a member whose parts are in. -/
def State.heldJoin (s : State) (p member : Nat) : List Byte :=
  (List.range 16).flatMap (fun i => leBytes 2 (tget (s.pas p).span.joinBytes 0 (16 * member + i)).toNat)

/-- The mark of the member whose block came first over a child port: the child's own (DEDUCED, log 20), as one more than its
SPAN_INDEX. -/
def firstKey (port : Nat) : Nat := 2 ^ 16 + port

/-- The outcome goes down the tree as a JOIN with INDEX 0 from the parent (DEDUCED, log 20): JOIN, LAST_STATUS and the event. -/
def State.joinOutcome (s : State) (p status : Nat) : State :=
  let s := s.modStat p (fun t => { t with join := if status = 0 then 2 else 3 })
  let s := if status = 0 then s else s.setLastStatus p status
  let s := s.pasEvent p pevJoin
  let s := (s.pas p).comp.children.foldl (fun s c => s.linkTx (s.port c).linkLow ctJoin (joinBody p 0 status 0) []) s
  s.sendArrive p

/-- Whether a join block agrees with the root's own in JOB_ID, PROFILE, SPAN_DEVICES and the RINGS and SPAN_TRIG flags. -/
def joinAgrees (a b : List Byte) : Bool :=
  slice a 0 19 == slice b 0 19 && fieldAt a 20 1 % 4 == fieldAt b 20 1 % 4

/-- Table 7-6, in its order: the refusal status, or 0. -/
def State.judgeJoin (s : State) (p : Nat) : Nat :=
  let x := s.pas p
  let own := s.joinBlock p
  let blocks := x.span.members.map (fun m => s.heldJoin p m)
  let flag (i : Nat) : Bool := (own :: blocks).any (fun b => bitOf (fieldAt b 20 1) i)
  let indices := (own :: blocks).map (fun b => fieldAt b 19 1)
  if flag 3 then 0x050E
  else if blocks.any (fun b => !joinAgrees own b) then 0x050E
  else if indices.length ≠ x.stat.spanDevices ∨ indices.dedup.length ≠ indices.length then 0x050E
  else if flag 2 then 0x050A
  else 0

/-- The mark that a child has sent the blocks of all the members below it: an IDLE has followed its own block, which the order of R346
sends only once no JOIN waits, and a member sends its own block only when those below are in (DEDUCED, log 20). -/
def subtreeKey (port : Nat) : Nat := 2 ^ 17 + port

def State.subtreeIn (s : State) (p c : Nat) : Bool := (tget (s.pas p).span.joinBytes 0 (subtreeKey c)).toNat != 0

/-- The child port of a pasture that a link carries. -/
def State.childOn (s : State) (p link : Nat) : Option Nat :=
  (s.pas p).comp.children.find? (fun c => (s.port c).linkLow == link)

/-- Whether a pasture's parent port lies on a link. -/
def State.parentOn (s : State) (p link : Nat) : Bool :=
  ((s.pas p).comp.parent.map (fun t => (s.port t).linkLow == link)).getD false

/-- A JOIN from a child: its two bytes are held; with the sixteenth the member's block is in, checked against the port learned
at CAP where it is the child's own, and sent on if the member has sent its own. A JOIN from the parent is the outcome; one on
another port is a port mismatch. -/
def State.joinTake (s : State) (link body : Nat) : State :=
  let p := bitsOf body 0 4
  let i := bitsOf body 4 4
  let m := bitsOf body 24 6
  match s.childOn p link with
  | none =>
    if s.parentOn p link then (if (s.pas p).stat.join = 1 then s.joinOutcome p (bitsOf body 8 16) else s)
    else s.modSpan p (fun x => { x with portWrong := true })
  | some c =>
    let s := s.modSpan p (fun x => { x with
      joinBytes := tins (16 * m + i) (BitVec.ofNat 16 (bitsOf body 8 16)) (tdel x.joinBytes (16 * m + i)) })
    let all := (List.range 16).all (fun k => (s.pas p).span.joinBytes.any (fun e => e.1 == 16 * m + k))
    if i = 15 ∧ all then
      let first := (tget (s.pas p).span.joinBytes 0 (firstKey c)).toNat = 0
      let wrong := decide first && fieldAt (s.heldJoin p m) 21 1 != (s.port c).peerPort
      let s := s.modSpan p (fun x => { x with
        members := x.members ++ [m]
        portWrong := x.portWrong || wrong
        joinBytes := if first then tins (firstKey c) (BitVec.ofNat 16 (m + 1)) x.joinBytes else x.joinBytes })
      match (s.pas p).comp.parent with
      | some up => if (s.pas p).span.joinSent then s.sendJoin p up m (s.heldJoin p m) else s
      | none => s
    else s

/-- An IDLE on the link of a child whose own block is in. -/
def State.joinIdle (s : State) (p link : Nat) : State :=
  match s.childOn p link with
  | some c =>
    if (tget (s.pas p).span.joinBytes 0 (firstKey c)).toNat = 0 ∨ s.subtreeIn p c then s
    else s.modSpan p (fun x => { x with joinBytes := tins (subtreeKey c) 1 x.joinBytes })
  | none => s

/-- JOIN blocks and IDLEs that came before the pasture was LOADED, and so before its tree ports were known, are taken now: an IDLE is
held as 2^32. -/
def State.joinEarly (s : State) (p : Nat) : State :=
  let l := (s.pas p).span.early
  if l.isEmpty then s
  else l.foldl (fun s e => if e.2 = 2 ^ 32 then s.joinIdle p e.1 else s.joinTake e.1 e.2) (s.modSpan p (fun x => { x with early := [] }))

/-- A waiting member sends its CHANCOUNTs once its links are ACTIVE. Once the peers' are in and every block from below has
come, it sends its block and those; the root then judges, having every member's block. -/
def State.joinStep (s : State) (p : Nat) : State :=
  if (s.pas p).stat.join ≠ 1 ∨ s.pstate p ≠ .loaded ∨ ¬ s.pasLinksUp p ∨ s.dev.mode = .hold then s
  else
    let s := s.joinEarly p
    let sent := (s.pas p).span.countsSent
    let s := if sent then s
      else
        let s := (s.linkEnds p).foldl (fun s e => s.linkTx e.1 ctChancount (chancountBody p e.2.1 e.2.2.1 e.2.2.2) []) s
        s.modSpan p (fun x => { x with countsSent := true })
    let x := s.pas p
    let ready := s.countsIn p && x.comp.children.all (fun c => s.subtreeIn p c)
    if ¬ ready then s
    else match x.comp.parent with
      | some up =>
        if x.span.joinSent then s
        else
          let s := s.sendJoin p up x.stat.spanIndex (s.joinBlock p)
          let s := x.span.members.foldl (fun s m => s.sendJoin p up m (s.heldJoin p m)) s
          s.modSpan p (fun y => { y with joinSent := true })
      | none => s.joinOutcome p (s.judgeJoin p)

/-- A JOIN block: one that comes before the pasture is LOADED is kept until then. -/
def State.joinIn (s : State) (link body : Nat) : State :=
  let p := bitsOf body 0 4
  if s.pstate p = .empty ∨ s.pstate p = .loading then s.modSpan p (fun x => { x with early := x.early ++ [(link, body)] })
  else (s.joinTake link body).joinStep p

def State.chancountIn (s : State) (link body : Nat) : State :=
  let p := bitsOf body 0 4
  let key := countKey link (bitsOf body 4 6) (bitOf body 10)
  (s.modSpan p (fun x => { x with counts := tput x.counts 0 key (bitsOf body 11 11 + 1) })).joinStep p

def execJoin (link cseq : Nat) (body : BitVec 32) (s : State) : Host.Outcome State Fault Refusal :=
  .next (s.accept link ctJoin cseq body.toNat (fun s => s.joinIn link body.toNat))

def execChancount (link cseq : Nat) (body : BitVec 32) (s : State) : Host.Outcome State Fault Refusal :=
  .next (s.accept link ctChancount cseq body.toNat (fun s => s.chancountIn link body.toNat))

/-- An IDLE: nothing of higher order waited at the peer, so the CHANCOUNTs it has begun on this link are all in (R346). -/
def State.idleIn (s : State) (link : Nat) : State :=
  (List.range 16).foldl (fun s p =>
    let x := s.pas p
    let s := if x.span.counts.any (fun k => k.1 / 128 == link) then
        s.modSpan p (fun y => { y with counts := tput y.counts 0 (countsInKey link) 1 })
      else s
    let s := if x.span.early.any (fun e => e.1 == link && e.2 != 2 ^ 32) then
        s.modSpan p (fun y => { y with early := y.early ++ [(link, 2 ^ 32)] })
      else s
    if x.stat.join = 1 then (s.joinIdle p link).joinStep p else s) s

def execLinkIdle (link : Nat) (s : State) : Host.Outcome State Fault Refusal :=
  .next (s.plain link ctIdle 0 (fun s => s.idleIn link))

/-! ### Tokens (R116, R356) -/

/-- States in which a pasture takes part in barriers. -/
def PState.inSpan : PState → Bool
  | .loaded | .running | .stepping | .frozen | .recovering => true
  | _ => false

/-- The barrier that a child's arrival must be for: the present one, or the one that closes the ecycle that runs. -/
def State.nextBarrier (s : State) (p : Nat) : Nat :=
  let e := (s.pas p).stat.ecycle
  if s.allArrived p then e else e + 1

/-- An ARRIVE from a child: recorded with its ring request, report and trigger; one that disagrees on ecycle or ring number is
a barrier fault. -/
def State.arriveIn (s : State) (link body : Nat) : State :=
  let p := bitsOf body 0 4
  if ¬ (s.pstate p).inSpan then s
  else match s.childOn p link with
    | none => s.controlFault p 0x0606 none
    | some c =>
      if (s.pas p).span.choosing then s.reportIn p c body else
      let b := s.nextBarrier p
      let req := bitOf body 12
      let done := bitOf body 13
      let number := bitsOf body 16 16
      if bitsOf body 4 8 ≠ b % 256 ∨ ((req ∨ done) ∧ number ≠ (s.pas p).ck.currentNo) then s.controlFault p 0x0606 none
      else
        let s := s.modSpan p (fun x => { x with
          arrived := if x.arrived.contains c then x.arrived else x.arrived ++ [c]
          ringReq := x.ringReq || req
          ringDone := if done && !(x.ringDone.contains c) then x.ringDone ++ [c] else x.ringDone
          trig := if bitOf body 15 then some (b - 2) else x.trig })
        s.barrierReached p

def execArrive (link cseq : Nat) (body : BitVec 32) (s : State) : Host.Outcome State Fault Refusal :=
  .next (s.accept link ctArrive cseq body.toNat (fun s => s.arriveIn link body.toNat))

/-- A child's assertion count of the ecycle, before its ARRIVE. -/
def State.assertCountIn (s : State) (link body : Nat) : State :=
  let p := bitsOf body 0 4
  if (s.pstate p).inSpan ∧ (s.childOn p link).isSome then
    s.modSpan p (fun x => { x with memberAssert := satTo 32 (x.memberAssert + bitsOf body 4 21) })
  else s

def execAssertCount (link cseq : Nat) (body : BitVec 32) (s : State) : Host.Outcome State Fault Refusal :=
  .next (s.accept link ctAssertCount cseq body.toNat (fun s => s.assertCountIn link body.toNat))

/-- A RELEASE from the parent: the member sends the token down at once, and releases the barrier it arrived at when the token has gone
down through its own tree (Table 4-7); in HOLD it acts after HOLD (R111, R359). One that disagrees on ecycle or ring number is a
barrier fault. -/
def State.releaseIn (s : State) (link body : Nat) : State :=
  let p := bitsOf body 0 4
  let ring := bitOf body 12
  if ¬ (s.pstate p).inSpan then s
  else
    let x := s.pas p
    let number := if ring ∧ ¬ s.ringMade p then wrapTo 16 (x.ck.currentNo + 1) else x.ck.currentNo
    if x.span.choosing ∧ s.parentOn p link then s.choiceIn p body
    else if ¬ s.parentOn p link ∨ ¬ x.span.arriveSent ∨ x.run.relTok.isSome ∨ bitsOf body 4 8 ≠ x.stat.ecycle % 256 ∨
        (s.ringsOn p ∧ bitsOf body 16 16 ≠ number) then s.controlFault p 0x0606 none
    else (s.modRun p (fun r => { r with relTok := some body, descent := some x.descentSteps })).releaseDown p body

def execLinkRelease (link cseq : Nat) (body : BitVec 32) (s : State) : Host.Outcome State Fault Refusal :=
  .next (s.accept link ctRelease cseq body.toNat (fun s => s.releaseIn link body.toNat))

/-- Statuses that start recovery (Table 10-6). -/
def recoverable (status : Nat) : Bool := [0x0601, 0x0602, 0x0606, 0x060A, 0x060B].contains status

/-- A fault token: a control fault is this member's too, a supply event or retention loss rolls a pasture with rings back, and any other
fault makes it FAULTED, with a report of its own where the schedule is deadlocked (R125, R206, R276, R286). -/
def State.faultIn (s : State) (link body : Nat) : State :=
  let p := bitsOf body 0 4
  let status := bitsOf body 4 16
  let from_ := (s.treePorts p).find? (fun t => (s.port t).linkLow == link)
  if from_.isNone then s
  else if recoverable status then s.controlFault p status from_
  else if dipStatus status && s.ringsOn p then s.dipFault p status from_
  else if status = 0x0605 ∧ (s.pstate p).inSpan then (s.ownReport p).faultPas p status from_
  else s.faultPas p status from_

def execLinkFault (link cseq : Nat) (body : BitVec 32) (s : State) : Host.Outcome State Fault Refusal :=
  .next (s.accept link ctFault cseq body.toNat (fun s => s.faultIn link body.toNat))

/-- An unload token: the member performs R200 on its own part. A pasture that recovers is unloaded once recovery ends. -/
def State.unloadIn (s : State) (link body : Nat) : State :=
  let p := bitsOf body 0 4
  let from_ := (s.treePorts p).find? (fun t => (s.port t).linkLow == link)
  if from_.isNone then s
  else if (s.pstate p).unloads then s.beginUnload p from_
  else if s.pstate p = .recovering then s.modSpan p (fun x => { x with unloadPort := from_ })
  else s

/-- An unload token that came while the pasture recovered. -/
def State.unloadDue (s : State) (p : Nat) : State :=
  match (s.pas p).span.unloadPort with
  | some t => if (s.pstate p).unloads then s.beginUnload p (some t) else s
  | none => s

def execLinkUnload (link cseq : Nat) (body : BitVec 32) (s : State) : Host.Outcome State Fault Refusal :=
  .next (s.accept link ctUnload cseq body.toNat (fun s => s.unloadIn link body.toNat))

/-! ### Blocks as they come off the lanes (R342, R344, Table 13-3) -/

/-- Whether a control block's CRC holds. -/
def controlCrc (w : Nat) : Bool := crc16 (beBytes 6 (w / 2 ^ 16)) == w % 2 ^ 16

/-- What a sequenced control block of a type does; `none` for a type that is not sequenced or reserved. -/
def State.sequenced (s : State) (link ctype body : Nat) : Option State :=
  match ctype with
  | 0x08 => some (s.capRecord link body)
  | 0x09 => some (s.joinIn link body)
  | 0x0A => some (s.chancountIn link body)
  | 0x10 => some (s.arriveIn link body)
  | 0x11 => some (s.assertCountIn link body)
  | 0x12 => some (s.releaseIn link body)
  | 0x13 => some (s.faultIn link body)
  | 0x14 => some (s.unloadIn link body)
  | 0x20 => some (s.creditBack link body)
  | 0x31 => some (s.tagGroup link 1 body)
  | 0x32 => some (s.tagGroup link 2 body)
  | 0x33 => some (s.tagGroup link 3 body)
  | 0x34 => some (s.tagGroup link 4 body)
  | _ => none

/-- A control block with a valid header, at a control position. -/
def State.controlBlock (s : State) (link w : Nat) : State :=
  let ctype := bitsOf w 56 8
  let cseq := bitsOf w 48 8
  let body := bitsOf w 16 32
  if ¬ controlCrc w then s.badControl link false
  else
    let s := s.rxHeader link false
    match ctype with
    | 0x00 => s.takePlain link (fun s => s.idleIn link)
    | 0x01 | 0x40 => s
    | 0x02 => s.takePlain link (fun s => s.ackTo link (body % 256))
    | 0x03 => s.takePlain link (fun s => s.resendFrom link (body % 256))
    | _ =>
      if (s.sequenced link ctype body).isSome then
        s.takeSequenced link cseq (fun s => (s.sequenced link ctype body).getD s)
      else s.takePlain link (fun s => s.retrainLink link)

/-- A block of a link's stream with its sync header (1 data, 2 control), judged by its position (Table 13-3). -/
def State.streamBlock (s : State) (link header w : Nat) : State :=
  let r := s.port link
  let invalid : Bool := header != 1 && header != 2
  if r.discard then (if header = 2 then s.controlBlock link w else s.rxHeader link invalid)
  else if r.group.isEmpty then
    match header with
    | 1 => (s.rxHeader link false).retrainLink link
    | 2 => s.controlBlock link w
    | _ => s.badControl link true
  else match header with
    | 2 => (s.rxHeader link false).retrainLink link
    | _ => (s.deliverBlock link w).rxHeader link invalid

/-- A block on the lanes of a port that is in no stream, taken as the next of its two lanes: a lane in LOCK looks for its block boundary, one
in TEST or in a near-end loopback checks PRBS31. -/
def State.portBlock (s : State) (t header w : Nat) : State :=
  let l := s.rxLane t
  let s := s.modPort t (fun r => { r with rxPos := r.rxPos + 1 })
  match (s.lane l).state with
  | .lock => (s.modLane l (fun x => x.lockHeader (header != 1 && header != 2))).lockDone t
  | .test => s.modLane l (fun x => x.check w)
  | .loop => s.modLane l (fun x => x.check w)
  | _ => s

/-- A block comes off the lanes, unscrambled: one of a link's stream, or one of a port that is in none. -/
def execDataBlock (link syncHeader : Nat) (payload : BitVec 64) (s : State) : Host.Outcome State Fault Refusal :=
  let w := payload.toNat
  .next (
    if s.echoes link then s.echo link syncHeader w
    else if s.receives link then s.streamBlock link syncHeader w
    else s.portBlock link syncHeader w)

end Sys2Proof.Machine
end

