-- ==== Sys2Proof/Machine/Time.lean ====
section
/-!
DEFINITION. The time base, its servo and the exchanges that feed it, the status datagrams of the management ports, and the PCIe
function's resets and power states (R364–R382).
-/

namespace Sys2Proof.Machine

open Sys2Proof

/-! ### The time base (R374) -/

/-- NS:FRAC as one value. -/
def TimeBase.value (t : TimeBase) : Nat := 2 ^ 32 * t.ns + t.frac

def TimeBase.setValue (t : TimeBase) (v : Nat) : TimeBase := { t with ns := wrapTo 32 (v / 2 ^ 32), frac := v % 2 ^ 32 }

/-- What a wrap does: a marker in every landing that captures, and the wrap count of the trace. -/
def State.wrapEffects (s : State) : State :=
  let s := (List.range 16).foldl (fun s p => s.acqWrap p) s
  s.modTrace (fun t => { t with wraps := wrapTo 24 (t.wraps + 1) })

/-- Whether the next tick wraps the time base. -/
def TimeBase.wraps (t : TimeBase) : Bool := t.running && decide (2 ^ 64 ≤ t.value + t.incr)

/-- One tick. -/
def State.timeTick (s : State) : State :=
  let t := s.time
  if t.running then
    let s := s.modTime (fun t => t.setValue (t.value + t.incr))
    if t.wraps then s.wrapEffects else s
  else s

/-- The tick that wraps the time base, where it is the next. -/
def execTimeBaseWrap (s : State) : Host.Outcome State Fault Refusal := .next (if s.time.wraps then s.timeTick else s)

/-! ### The servo (R375–R380) -/

/-- Set a W1C bit of TIME_STATUS. -/
def State.setJump (s : State) : State :=
  if s.time.jumpRefused then s else (s.modTime (fun t => { t with jumpRefused := true })).devEvent evTime
def State.setGmChanged (s : State) : State :=
  if s.time.gmChanged then s
  else (s.modTime (fun t => { t with gmChanged := true, gmChanges := satTo 16 (t.gmChanges + 1) })).devEvent evTime

/-- Every change of STATE sets DEVICE_EVENTS.TIME. -/
def State.setServo (s : State) (v : ServoState) : State :=
  if s.time.servo = v then s else (s.modTime (fun t => { t with servo := v, goodRun := 0, badRun := 0 })).devEvent evTime

/-- The greatest correction of TB_INCR, 500 ppm of the nominal value. -/
def incrSlew : Nat := 1717986

/-- The servo's correction for an accepted sample: a value of TB_INCR within ±500 ppm that the spec leaves to the servo (DESIGN CHOICE, log 6),
entered in the decision log with the offset. -/
def State.slew (s : State) (offset : Int) : State :=
  let (x, s) := s.draw 32
  (s.modTime (fun t => { t with incr := Config.nominalIncr - incrSlew + x % (2 * incrSlew + 1) })).logDecision "servo" 0 (twos 32 offset)

/-- The one step of R379. -/
def State.timeStep (s : State) (offset : Int) : State :=
  let t := s.time
  let v := twos 64 ((t.value : Int) - offset * 2 ^ 32)
  let s := s.modTime (fun t => { t.setValue v with
    before := t.ns, after := v / 2 ^ 32, steps := wrapTo 16 (t.steps + 1), gmId := t.seenId, stepArmed := false })
  let s := (s.setServo .acquiring).devEvent evTime
  let cores := s.tracedCores
  if s.trace.state = .tracing then cores.foldl (fun s c => s.modEncoder c (fun e => { e with stepSeen := true })) s else s

/-- An accepted sample moves ACQUIRING, LOCKED and HOLDOVER on (Table 14-5). -/
def State.acceptSample (s : State) (offset : Int) : State :=
  let s := s.slew offset
  let a := offset.natAbs
  match s.time.servo with
  | .holdover => (s.setServo .acquiring).modTime (fun t => { t with goodRun := if a ≤ 100 then 1 else 0 })
  | .acquiring =>
    let n := if a ≤ 100 then s.time.goodRun + 1 else 0
    if 16 ≤ n then s.setServo .locked else s.modTime (fun t => { t with goodRun := n })
  | .locked =>
    let n := if 1000 < a then s.time.badRun + 1 else 0
    if 4 ≤ n then s.setServo .acquiring else s.modTime (fun t => { t with badRun := n })
  | _ => s

/-- Judge a sample (R377). None is processed while the control complex restarts (R380). -/
def State.sample (s : State) (offset delay : Int) : State :=
  if s.dev.restarting then s
  else
    let s := s.modTime (fun t => { t with offset := offset, delay := delay })
    let t := s.time
    if t.servo = .refused ∧ t.stepArmed then s.timeStep offset
    else
      let other := t.seenId ≠ t.gmId ∨ t.servo = .free
      let breach := (t.jumpNs : Int) < offset.natAbs
      let s := if other then s.setGmChanged else s
      let s := if breach then s.setJump else s
      if t.servo = .refused ∨ other ∨ breach then
        (s.setServo .refused).modTime (fun t => { t with refusals := satTo 16 (t.refusals + 1) })
      else s.acceptSample offset

/-! ### Messages (R369–R373, R376) -/

/-- The modes in which the management ports run. -/
def State.ethUp (s : State) : Bool :=
  s.dev.mode == .service || s.dev.mode == .emulate || s.dev.mode == .hold || s.dev.mode == .recover

/-- A frame of a port was received (DEDUCED, log 25: LINK). -/
def State.ethSeen (s : State) (port : Nat) : State := s.modEth port (fun e => { e with link := true })

/-- The 64-bit time of a delimiter: TB_NOW plus 0.8 ns for each byte lane before it (R372). -/
def State.stamp (s : State) (lane : Nat) : Nat := s.time.value + lane * Config.nominalIncr

/-- NS of a received delimiter, referred to the lands. -/
def State.stampIn (s : State) (lane : Nat) : Nat := wrapTo 32 ((2 ^ 64 - 64 * 2 ^ 32 + s.stamp lane) / 2 ^ 32)
/-- NS of a sent delimiter, 41.6 ns after. -/
def State.stampOut (s : State) (lane : Nat) : Nat := wrapTo 32 ((s.stamp lane + 41 * 2 ^ 32 + 6 * 2 ^ 32 / 10) / 2 ^ 32)

/-- A clockIdentity as IEEE 1588 orders it, byte 0 first. -/
def gmOrder (gm : Nat) : Nat := beNat (leBytes 8 gm)

/-- Whether one Announce's master is better than another's: the data set comparison of the default algorithm (R373). -/
def announceKey (a : Announce) : List Nat :=
  [a.priority1, a.clockClass, a.accuracy, a.variance, a.priority2, gmOrder a.gm, a.stepsRemoved]
def lexLt : List Nat → List Nat → Bool
  | a :: x, b :: y => decide (a < b) || (a == b && lexLt x y)
  | _, _ => false
def betterMaster (a b : Announce) : Bool := lexLt (announceKey a) (announceKey b)

/-- The port on which the best master is seen: port 0 where both offer the same. -/
def State.bestPort (s : State) : Option (Nat × Announce) :=
  match (s.ethPort 0).best, (s.ethPort 1).best with
  | some a, some b => if a.gm ≠ b.gm ∧ betterMaster b a then some (1, b) else some (0, a)
  | some a, none => some (0, a)
  | none, some b => some (1, b)
  | none, none => none

/-- Follow the best master. -/
def State.followBest (s : State) : State :=
  match s.bestPort with
  | some (k, a) => s.modTime (fun t => { t with port := k == 1, seenId := a.gm })
  | none => s

/-- Three Announce intervals in ticks of 0.8 ns, rounded up. -/
def announceTicks (a : Announce) : Nat := (15 * a.interval + 3) / 4

/-- A master is qualified by the second Announce within four Announce intervals, and never with 255 steps or more removed (the default
algorithm of IEEE 1588; PRESUMED, log 5). -/
def EthPort.qualifies (e : EthPort) (a : Announce) : Bool :=
  decide (a.stepsRemoved < 255) && (e.heard.any (fun h => h.1 == a.gm) || (e.best.map (fun b => b.gm == a.gm)).getD false)

/-- What an Announce leaves on its port: MASTER_SEEN, and its master where `keep` is not set. -/
def EthPort.announced (e : EthPort) (a : Announce) (keep : Bool) : EthPort :=
  { e with
    heard := (a.gm, 5 * a.interval) :: e.heard.filter (fun h => h.1 != a.gm)
    masterSeen := true
    seenLeft := announceTicks a
    best := if keep then e.best else some a
    bestLeft := if keep then e.bestLeft else announceTicks a }

/-- An Announce: the port keeps the better master; the same master's newer data replaces its older, and one that is not qualified is kept
out. -/
def execAnnounce (port : Nat) (a : Announce) (s : State) : Host.Outcome State Fault Refusal :=
  .next (
    if ¬ s.ethUp then s
    else
      let s := s.ethSeen port
      let e := s.ethPort port
      let keep : Bool := !e.qualifies a || match e.best with
        | some b => b.gm != a.gm && !betterMaster a b
        | none => false
      (s.modEth port (fun e => e.announced a keep)).followBest)

/-- One tick of a port: MASTER_SEEN ends three intervals after the last Announce, and the best master three after its own last one
(R373, Table 14-9; DEDUCED, log 25). -/
def EthPort.tick (e : EthPort) : EthPort :=
  { e with
    masterSeen := e.masterSeen && decide (1 < e.seenLeft)
    seenLeft := e.seenLeft - 1
    best := if e.bestLeft ≤ 1 then none else e.best
    bestLeft := e.bestLeft - 1
    heard := (e.heard.filter (fun h => decide (1 < h.2))).map (fun h => (h.1, h.2 - 1))
    recent := (e.recent.filter (fun n => decide (1 < n))).map (· - 1) }

/-- One tick of the management ports; where a best master ends, the other port's is followed. -/
def State.ethTick (s : State) : State :=
  let lost := s.eth.any (fun e => e.2.best.isSome && decide (e.2.bestLeft ≤ 1))
  let s := (s.modEth 0 EthPort.tick).modEth 1 EthPort.tick
  if lost then s.followBest else s

/-- A Sync: t2 is its time-stamp; a one-step Sync carries t1. -/
def execSync (port lane : Nat) (twoStep : Bool) (t1 : Nat) (corr : Int) (s : State) : Host.Outcome State Fault Refusal :=
  .next (
    if ¬ s.ethUp then s
    else
      let at_ := s.stampIn lane
      (s.ethSeen port).modEth port (fun e => { e with
        t1 := if twoStep then none else some (wrapTo 32 t1), t2 := at_, corr := corr, t3 := none }))

/-- A Follow_Up: t1 and the correction of a two-step Sync. -/
def execFollowUp (port t1 : Nat) (corr : Int) (s : State) : Host.Outcome State Fault Refusal :=
  .next (if s.ethUp then (s.ethSeen port).modEth port (fun e => { e with t1 := some (wrapTo 32 t1), corr := corr }) else s)

/-- The port sends a time-stamped Delay_Req once a Sync has come (R371, R376). -/
def execDelayReq (port lane : Nat) (s : State) : Host.Outcome State Fault Refusal :=
  .next (
    if s.ethUp ∧ (s.ethPort port).best.isSome then
      let at_ := s.stampOut lane
      (s.modEth port (fun e => { e with t3 := some at_ })).send (.delayReq port at_)
    else s)

/-- sdiff of R376. -/
def sdiff (x y : Nat) : Int :=
  let d := wrapSub 32 x y
  if d < 2 ^ 31 then (d : Int) else (d : Int) - 2 ^ 32

/-- Half a sum: the rounding of an odd one is not stated and is a free bit (DESIGN CHOICE, log 6). -/
def State.halve (s : State) (x : Int) : Int × State :=
  if x % 2 = 0 then (x / 2, s)
  else
    let (b, s) := s.draw 1
    (x / 2 + (b : Int), s)

/-- A Delay_Resp completes a sample; the samples of the followed port reach the servo. -/
def execDelayResp (port t4 : Nat) (corr : Int) (s : State) : Host.Outcome State Fault Refusal :=
  .next (
    if ¬ s.ethUp then s
    else
      let s := s.ethSeen port
      let e := s.ethPort port
      match e.t1, e.t3 with
      | some t1, some t3 =>
        let s := s.modEth port (fun e => { e with t1 := none, t3 := none })
        if s.time.port = (port == 1) ∧ e.best.isSome then
          let ms := sdiff e.t2 t1 - e.corr
          let sm := sdiff (wrapTo 32 t4) t3 - corr
          let (o, s) := s.halve (ms - sm)
          let (d, s) := s.halve (ms + sm)
          s.sample o d
        else s
      | _, _ => s)

/-- No Sync from the adopted grandmaster for three Announce intervals. -/
def execHoldoverTimeout (s : State) : Host.Outcome State Fault Refusal :=
  .next (
    if (s.time.servo = .acquiring ∨ s.time.servo = .locked) ∧ ¬ s.dev.restarting then
      (s.modTime (fun t => { t with holdovers := satTo 16 (t.holdovers + 1) })).setServo .holdover
    else s)

/-! ### Status datagrams (R370) -/

def EthPort.drop (e : EthPort) : EthPort := { e with dropped := satTo 16 (e.dropped + 1) }

/-- A second in ticks of 0.8 ns. -/
def secondTicks : Nat := 1250000000

/-- Whether the port may answer another request, having answered fewer than 100 in the last second, and the answers that then count. -/
def EthPort.rate (e : EthPort) : Option EthPort :=
  if e.recent.length < 100 then some { e with recent := e.recent ++ [secondTicks] } else none

/-- A request of Table 14-4. -/
def execStatusDatagramRequest (port src : Nat) (payload : List Byte) (s : State) : Host.Outcome State Fault Refusal :=
  .next (
    if ¬ s.ethUp then s
    else
      let s := s.ethSeen port
      let e := s.ethPort port
      if payload.length < 16 ∨ fieldAt payload 0 2 ≠ 1 ∨ fieldAt payload 2 2 ≠ 0 then s.modEth port EthPort.drop
      else match e.rate with
        | none => s.modEth port EthPort.drop
        | some e =>
          let o := fieldAt payload 8 4
          let n := fieldAt payload 12 2
          let ok := o % 8 = 0 ∧ o < 0x300 ∧ n % 8 = 0 ∧ 8 ≤ n ∧ n ≤ 512 ∧ o + n ≤ 0x300
          let s := s.modEth port (fun _ => { e with responses := wrapTo 16 (e.responses + 1) })
          s.send (.statusReply port src (fieldAt payload 4 4) o n (if ok then 0 else 1)
            (if ok then slice s.identBlock o n else [])))

/-- A frame outside Table 14-3, or one with a bad FCS (R369). -/
def execEthFrameDropped (port : Nat) (badFcs : Bool) (s : State) : Host.Outcome State Fault Refusal :=
  .next (
    if ¬ s.ethUp then s
    else if badFcs then (s.ethSeen port).modEth port (fun e => { e with fcsErrs := satTo 16 (e.fcsErrs + 1) })
    else (s.ethSeen port).modEth port EthPort.drop)

/-! ### Time commands -/

/-- TIME_ACCEPT arms one step in REFUSED (R379). -/
def timeAcceptCard : Card :=
  { opcode := 0x0A01, modes := "SE", session := false, names := false, waits := false, lengthOk := lenIs 8,
    run := fun c g s => s.checked g (reservedZero c 0 8) (fun s =>
      (if s.time.servo = .refused then s.modTime (fun t => { t with stepArmed := true }) else s).complete g 0 []) }

def execTimeAccept (c : Cmd) (s : State) : Host.Outcome State Fault Refusal := .next (s.runCard timeAcceptCard c)

/-- TIME_CONFIG sets JUMP_NS (R378). -/
def timeConfigCard : Card :=
  { opcode := 0x0A02, modes := "SE", session := false, names := false, waits := false, lengthOk := lenIs 8,
    run := fun c g s =>
      let n := fieldAt c.params 0 4
      s.checked g (reservedZero c 4 4 ++ [rangeCheck (n == 0 || decide (1000000000 < n)) 0]) (fun s =>
        (s.modTime (fun t => { t with jumpNs := n })).complete g 0 []) }

def execTimeConfig (c : Cmd) (s : State) : Host.Outcome State Fault Refusal := .next (s.runCard timeConfigCard c)

/-! ### The PCIe function (R367, R368) -/

/-- A run that was moving to or from host memory stops with HOST_ERR; how many entries it had moved is not stated and is a free
value (DESIGN CHOICE, log 6). -/
def State.stopHostRun (s : State) (engine : Nat) : State :=
  match (s.engine engine).run with
  | none => s
  | some (t, n) =>
    let x := s.task t
    match x.owner with
    | none => s
    | some p =>
      if x.op = opMoveIn ∨ x.op = opMoveOut then
        let (k, s) := s.draw 16
        let (ns, s) := s.draw 32
        (s.modEngine engine (fun e => e.finish ns)).runEffects p t (if n = 0 then 0 else k % n) ns engine true
      else s

/-- A command of DIAG in progress whose completion a reset of the function has discarded. -/
def PadWait.mute (w : PadWait) : PadWait :=
  match w.task with
  | .diag j => { w with task := .diag { j with prog := { j.prog with live := false } } }
  | .packet _ => w

/-- A reset of the function alone (R367). -/
def State.functionReset (s : State) : State :=
  let s := s.modHost (fun h => { h with
    prog := (h.prog.filter (fun g => !(h.cplWait.any (fun j => j.prog == g)))).map (fun g => { g with live := false })
    cplWait := [], msix := [], d3hot := false
    rings := tmap h.rings CmdRing.init (fun r => { r with enable := false, bound := none }) })
  let s := s.modNoc (fun n => { n with padWait := n.padWait.map PadWait.mute })
  let s := (List.range Config.numEngines).foldl (fun s e => s.stopHostRun e) s
  s.sweepSessions

/-- FLR, hot reset, link-down or PERST#; in OFF the function is not there. -/
def execPcieFunctionReset (_k : FnReset) (s : State) : Host.Outcome State Fault Refusal :=
  .next (if s.dev.mode = .off then s else s.functionReset)

/-- The function enters D3hot and issues no request. -/
def execD3hotEntry (s : State) : Host.Outcome State Fault Refusal :=
  .next (if s.dev.mode = .off then s else s.modHost (fun h => { h with d3hot := true }))

/-- Back in D0, completions and messages held are sent. -/
def State.resumeHost (s : State) : State :=
  let s := (s.modHost (fun h => { h with d3hot := false })).flushCpl
  (s.host.msix.map Prod.fst).foldl (fun s v => s.flushVector v) s

def execD0Return (s : State) : Host.Outcome State Fault Refusal := .next (if s.host.d3hot then s.resumeHost else s)

/-- The host unmasks a vector, and a held message is sent. -/
def execMsixVectorUnmask (vector : Nat) (s : State) : Host.Outcome State Fault Refusal :=
  .next (if vector < Config.numVectors ∧ ¬ s.host.d3hot ∧ s.dev.mode ≠ .off then (s.modMsix vector (fun m => { m with masked := false })).flushVector vector else s)

end Sys2Proof.Machine
end

