-- ==== Sys2Proof/Machine/View.lean ====
section
/-!
DEFINITION. What lies in HBM besides design data, as a service access sees it: the job tables of H0, the ring stores, the undo areas and
the ingress logs (R169, R211, R225, R266, R270, R273, R274); and the map of a stack offset to its HBM3E address (R151).
-/

namespace Sys2Proof.Machine

open Sys2Proof

/-! ### The HBM3E address (R151) -/

/-- Where a byte of a stack lies: pseudo-channel index, column quarter, bank, row and burst. -/
structure HbmPlace where
  pc    : Nat
  col   : Nat
  bank  : Nat
  row   : Nat
  burst : Nat
deriving DecidableEq, Repr

/-- The map of a stack offset. -/
def hbmPlace (so : Nat) : HbmPlace :=
  let chunk := so / 256
  let q := chunk / 32
  { pc := chunk % 32, col := q % 4, bank := q / 4 % 48, row := q / 4 / 48, burst := so % 256 / 32 }

/-- Channel and pseudo-channel; bank group, bank within it, and stack ID. -/
def HbmPlace.channel (x : HbmPlace) : Nat := x.pc / 2
def HbmPlace.pseudo (x : HbmPlace) : Nat := x.pc % 2
def HbmPlace.group (x : HbmPlace) : Nat := x.bank % 4
def HbmPlace.inGroup (x : HbmPlace) : Nat := x.bank / 4 % 4
def HbmPlace.stackId (x : HbmPlace) : Nat := x.bank / 16

/-! ### Job tables (R211, R225, Table 6-6) -/

def jobQueues : Nat := 0x01000000
def jobFlows : Nat := 0x01100000
def jobTasks : Nat := 0x01200000
def jobEnd : Nat := 0x01600000

/-- A queue descriptor (Table 8-2). -/
def Queue.bytes (q : Queue) : List Byte :=
  leBytes 8 q.base ++ leBytes 1 q.depthLog2 ++ leBytes 1 q.units ++ leBytes 1 q.role ++ leBytes 1 (b2n q.notifyEn)
    ++ leBytes 2 q.notifyTask ++ leBytes 2 0 ++ leBytes 4 q.head ++ leBytes 4 q.tail ++ leBytes 4 q.highWater
    ++ leBytes 2 q.lateAdmits ++ leBytes 2 q.dbReject ++ (List.range 8).flatMap (fun i => leBytes 4 (q.hist.getD i 0))

/-- The queue that a descriptor's bytes say; what the descriptor does not hold stays. -/
def Queue.ofBytes (q : Queue) (bs : List Byte) : Queue :=
  { q with
    base := fieldAt bs 0 8, depthLog2 := fieldAt bs 8 1, units := fieldAt bs 9 1, role := fieldAt bs 10 1
    notifyEn := bitOf (fieldAt bs 11 1) 0, notifyTask := fieldAt bs 12 2, head := fieldAt bs 16 4, tail := fieldAt bs 20 4
    highWater := fieldAt bs 24 4, lateAdmits := fieldAt bs 28 2, dbReject := fieldAt bs 30 2
    hist := (List.range 8).map (fun i => fieldAt bs (32 + 4 * i) 4) }

/-- A task entry (Table 8-5); its bytes 38 and 39 are the device's own and read zero (DESIGN CHOICE, log 64). -/
def Task.bytes (t : Task) : List Byte :=
  leBytes 1 t.op ++ leBytes 1 (b2n t.cyclic) ++ leBytes 2 t.initCount ++ leBytes 2 t.rearm ++ leBytes 2 t.batch ++ leBytes 2 t.src
    ++ leBytes 2 t.dst ++ leBytes 2 t.vector ++ leBytes 1 t.succs.length ++ leBytes 1 0
    ++ (List.range 8).flatMap (fun i => leBytes 2 (t.succs.getD i 0)) ++ leBytes 2 t.counter ++ leBytes 2 t.early
    ++ leBytes 1 t.tstate.code ++ leBytes 1 t.lastEngine ++ leBytes 2 0 ++ leBytes 8 t.runs ++ leBytes 8 t.moved ++ leBytes 8 t.busyNs

def TaskState.ofCode (n : Nat) (old : TaskState) : TaskState :=
  match n with
  | 0 => .waiting
  | 1 => .ready
  | 2 => .running
  | 3 => .done
  | 4 => .parked
  | _ => old

/-- The task that an entry's bytes say; what the entry does not hold stays. -/
def Task.ofBytes (t : Task) (bs : List Byte) : Task :=
  { t with
    op := fieldAt bs 0 1, cyclic := bitOf (fieldAt bs 1 1) 0, initCount := fieldAt bs 2 2, rearm := fieldAt bs 4 2
    batch := fieldAt bs 6 2, src := fieldAt bs 8 2, dst := fieldAt bs 10 2, vector := fieldAt bs 12 2
    succs := (List.range (min 8 (fieldAt bs 14 1))).map (fun i => fieldAt bs (16 + 2 * i) 2)
    counter := fieldAt bs 32 2, early := fieldAt bs 34 2, tstate := TaskState.ofCode (fieldAt bs 36 1) t.tstate
    lastEngine := fieldAt bs 37 1, runs := fieldAt bs 40 8, moved := fieldAt bs 48 8, busyNs := fieldAt bs 56 8 }

/-- The entries of 64 bytes of a table at `base` that a range touches. -/
def entriesOf (base a n : Nat) : List Nat := (List.range ((a - base + n - 1) / 64 + 1 - (a - base) / 64)).map (fun i => (a - base) / 64 + i)

/-- The pasture whose queue descriptors or task entries a range lies in (R142, Table 6-6). -/
def State.jobHolder (s : State) (a n : Nat) : Option Nat :=
  let all (owner : Nat → Option Nat) (l : List Nat) : Option Nat := match l with
    | i :: r => if r.all (fun j => owner j == owner i) then owner i else none
    | [] => none
  if jobQueues ≤ a ∧ a + n ≤ jobFlows then all (fun q => tget s.flow.owners none (q / 4)) (entriesOf jobQueues a n)
  else if jobTasks ≤ a ∧ a + n ≤ jobEnd then all (fun t => (s.task t).owner) (entriesOf jobTasks a n)
  else none

/-- The pasture whose ring directory entry a range lies in (R142, Table 6-6). -/
def State.dirHolder (s : State) (a n : Nat) : Option Nat :=
  let d := Config.stackBytes + 0x01000000
  if d ≤ a ∧ a + n ≤ d + 16 * 4096 ∧ (a - d) / 4096 = (a - d + n - 1) / 4096 ∧ s.ringsOn ((a - d) / 4096) then some ((a - d) / 4096)
  else none

/-! ### The records that engines keep in HBM -/

/-- The bytes `bs` at address `b`, laid over the bytes `w` at address `a`. -/
def layOver (a : Nat) (w : List Byte) (b : Nat) (bs : List Byte) : List Byte :=
  if b + bs.length ≤ a ∨ a + w.length ≤ b then w
  else
    let lead := b - a
    let piece := (bs.drop (a - b)).take (w.length - lead)
    w.take lead ++ piece ++ w.drop (lead + piece.length)

/-- Bytes at an offset of a circular area, in one piece or two. -/
def circular (base size off : Nat) (bs : List Byte) : List (Nat × List Byte) :=
  let o := off % size
  if o + bs.length ≤ size then [(base + o, bs)] else [(base + o, bs.take (size - o)), (base, bs.drop (size - o))]

/-- Whether a range meets an area. -/
def rangesMeet (a n b k : Nat) : Bool := decide (a < b + k) && decide (b < a + n)

/-- The queue descriptors and task entries that a range touches. -/
def State.jobPieces (s : State) (a n : Nat) : List (Nat × List Byte) :=
  (if rangesMeet a n jobQueues 0x100000 then
    (entriesOf jobQueues (max a jobQueues) (min (a + n) jobFlows - max a jobQueues)).map (fun q => (jobQueues + 64 * q, (s.queue q).bytes))
  else []) ++
  (if rangesMeet a n jobTasks 0x400000 then
    (entriesOf jobTasks (max a jobTasks) (min (a + n) jobEnd - max a jobTasks)).map (fun t => (jobTasks + 64 * t, (s.task t).bytes))
  else [])

/-- The records of a pasture's rings that a range touches: ring C in its buffer and ring K in the other one (R266, R270). -/
def State.storePieces (s : State) (p : Nat) (g : RingPlan) (a n : Nat) : List (Nat × List Byte) :=
  let x := s.pas p
  let folds := s.pasFolds p
  let size := 16384 * folds.length
  if rangesMeet a n g.storePa (2 * size) then
    folds.zipIdx.flatMap (fun e =>
      let at_ (b : Bool) : Nat := g.storePa + (if b then size else 0) + 16384 * e.2
      (if rangesMeet a n (at_ x.ck.bufB) 16384 then [(at_ x.ck.bufB, ringRecord (s.fold e.1).ringC)] else []) ++
      (if (x.ck.copying || x.ck.kHeld) && rangesMeet a n (at_ (!x.ck.bufB)) 16384 then [(at_ (!x.ck.bufB), ringRecord (s.fold e.1).ringK)]
       else []))
  else []

/-- The undo entries of a pasture that a range touches (R273). -/
def State.undoPieces (s : State) (p : Nat) (g : RingPlan) (a n : Nat) : List (Nat × List Byte) :=
  let k := (s.pas p).ck
  if rangesMeet a n g.undoPa g.undoSize then
    (k.undo.zipIdx.filter (fun e => rangesMeet a n (g.undoPa + 16 * (k.undoBase + e.2) % g.undoSize) 16)).map (fun e =>
      (g.undoPa + 16 * (k.undoBase + e.2) % g.undoSize, undoBytes e.1))
  else []

/-- The blocks of a pasture's ingress log (R274). -/
def State.logPieces (s : State) (p : Nat) (g : RingPlan) (a n : Nat) : List (Nat × List Byte) :=
  let k := (s.pas p).ck
  if rangesMeet a n g.logPa g.logSize then
    (k.log.foldl (fun (x : Nat × List (Nat × List Byte)) b =>
      let bs := ingressBytes b
      (x.1 + bs.length, x.2 ++ circular g.logPa g.logSize x.1 bs)) (k.logBase, [])).2
  else []

def State.ringPieces (s : State) (a n : Nat) : List (Nat × List Byte) :=
  s.livePastures.flatMap (fun p => match (s.pas p).ck.plan with
    | some g => s.storePieces p g a n ++ s.undoPieces p g a n ++ s.logPieces p g a n
    | none => [])

/-- The bytes of an HBM range as a service access reads them. -/
def State.hbmSee (s : State) (a n : Nat) : List Byte :=
  (s.jobPieces a n ++ s.ringPieces a n).foldl (fun w e => layOver a w e.1 e.2) (memRead s.hbm a n)

/-- Places that the device keeps and whose layout the spec does not give: the flow table, the ring directory and the decision log
(Table 6-6). -/
def deviceKept (a n : Nat) : Bool :=
  rangesMeet a n jobFlows 0x40000 || rangesMeet a n (Config.stackBytes + 0x01000000) 0x10000 ||
    rangesMeet a n (Config.stackBytes + 0x00100000) 0xF00000

/-- A service write to HBM. What it puts into the job tables the tables hold; what it puts into a ring store, an undo area or a log changes
nothing that the engines hold there (DESIGN CHOICE, log 64). -/
def State.hbmPut (s : State) (a : Nat) (bs : List Byte) : State :=
  let n := bs.length
  let s' : State := { s with hbm := memWrite s.hbm a bs }
  let entry (base i : Nat) (old : List Byte) : List Byte := layOver (base + 64 * i) old a bs
  if rangesMeet a n jobQueues 0x100000 then
    (entriesOf jobQueues (max a jobQueues) (min (a + n) jobFlows - max a jobQueues)).foldl (fun s q =>
      s.modQueue q (fun x => x.ofBytes (entry jobQueues q x.bytes))) s
  else if rangesMeet a n jobTasks 0x400000 then
    (entriesOf jobTasks (max a jobTasks) (min (a + n) jobEnd - max a jobTasks)).foldl (fun s t =>
      s.modTask t (fun x => x.ofBytes (entry jobTasks t x.bytes))) s
  else s'

end Sys2Proof.Machine
end

