-- ==== Sys2Proof/Machine/Noc.lean ====
section
/-!
DEFINITION. The service network: packet headers and their parity, ports and proxies, region checks, service accesses to HBM and
scratchpads, responses and timeouts, snoops, statistics, probes, regulators and reconfiguration (R134, R138–R143, R316–R337).
-/

namespace Sys2Proof.Machine

open Sys2Proof

/-! ### Headers (Tables 12-3, 12-4) -/

def nocDstX (w : Nat) : Nat := bitsOf w 0 4
def nocDstY (w : Nat) : Nat := bitsOf w 4 4
def nocDstPort (w : Nat) : Nat := bitsOf w 8 2
def nocSrcX (w : Nat) : Nat := bitsOf w 10 4
def nocSrcY (w : Nat) : Nat := bitsOf w 14 4
def nocSrcPort (w : Nat) : Nat := bitsOf w 18 2
def nocInit (w : Nat) : Nat := bitsOf w 20 8
def nocOpc (w : Nat) : Nat := bitsOf w 28 6
def nocVc (w : Nat) : Nat := bitsOf w 34 2
def nocTxn (w : Nat) : Nat := bitsOf w 36 12
def nocLen (w : Nat) : Nat := bitsOf w 48 7
def nocPasture (w : Nat) : Nat := bitsOf w 55 4
def nocPv (w : Nat) : Bool := bitOf w 59

def opcRd : Nat := 0x01
def opcWr : Nat := 0x02
def opcSetw : Nat := 0x03
def opcClrw : Nat := 0x04
def opcBulkRd : Nat := 0x05
def opcRegRd : Nat := 0x06
def opcRegWr : Nat := 0x07
def opcCtl : Nat := 0x08
def opcAck : Nat := 0x20
def opcRdData : Nat := 0x21
def opcErr : Nat := 0x22
def opcSnpAck : Nat := 0x23
def opcInv : Nat := 0x30
def opcBulkWr : Nat := 0x38
def opcBulkData : Nat := 0x39

def errState : Nat := 0x01
def errRegion : Nat := 0x02
def errClosing : Nat := 0x03
def errOff : Nat := 0x04
def errDisabled : Nat := 0x05
def errAddr : Nat := 0x06

/-- The network of an operation: 0 REQ, 1 RSP, 2 SNP, 3 DAT. -/
def nocNet (opc : Nat) : Nat :=
  if opc < 0x20 then 0 else if opc < 0x30 then 1 else if opc < 0x38 then 2 else 3

/-- Whether a packet has header word 1 (R320). -/
def hasWord1 (opc : Nat) : Bool := nocNet opc != 1 || opc == opcErr

/-- The number of one bits is even. -/
def evenParity (w : Nat) : Bool := (ones64 w) % 2 == 0

/-- PAR and PAR1 hold (R332). -/
def parityOk (p : NocPacket) : Bool :=
  evenParity p.word0 && (!hasWord1 (nocOpc p.word0) || evenParity p.word1 == !bitOf p.word0 60)

/-- Header word 0 from its fields, with both parities. -/
def nocWord0 (dstX dstY dstPort srcX srcY srcPort init opc vc txn len pasture : Nat) (pv : Bool) (word1 : Nat) : Nat :=
  let w := packFields [(0, 4, dstX), (4, 4, dstY), (8, 2, dstPort), (10, 4, srcX), (14, 4, srcY), (18, 2, srcPort),
    (20, 8, init), (28, 6, opc), (34, 2, vc), (36, 12, txn), (48, 7, len), (55, 4, pasture), (59, 1, b2n pv),
    (60, 1, b2n (hasWord1 opc && !evenParity word1))]
  w + 2 ^ 63 * b2n (!evenParity w)

/-- The response to a request with header word 0 `w`: on its VC, back to its source, an edge port in the responder's row
(R317, R321). -/
def nocReply (w opc len word1 : Nat) : Nat :=
  nocWord0 (nocSrcX w) (if 2 ≤ nocSrcPort w then nocDstY w else nocSrcY w) (nocSrcPort w) (nocDstX w) (nocDstY w) (nocDstPort w)
    (nocInit w) opc (nocVc w) (nocTxn w) len (nocPasture w) (nocPv w) word1

/-! ### The way of a packet: injection, holds, probes, statistics -/

/-- A packet that opens a transaction (R319). -/
def isRequest (opc : Nat) : Bool := decide (opc < 0x20) || opc == opcBulkWr

/-- Router and port a packet is for. -/
def nocDst (w : Nat) : Nat := 16 * nocDstY w + nocDstX w

/-- Whether a router has a port (Tables 12-1, 12-2). -/
def hasPort (r port : Nat) : Bool :=
  match port with
  | 0 => true
  | 1 => xRouters.contains r
  | 2 => r % 16 == 0
  | _ => r % 16 == 15

/-- The row a packet enters at: a hub injects a request at the row of its destination (R317). -/
def nocRow (opc w : Nat) : Nat := if 2 ≤ nocSrcPort w ∧ isRequest opc then nocDstY w else nocSrcY w

/-- The router a packet enters at. -/
def nocSrc (opc w : Nat) : Nat := 16 * nocRow opc w + nocSrcX w

/-- The injection point of a packet's source (Table 12-14). -/
def injectionPoint (opc w : Nat) : Nat :=
  let r := nocSrc opc w
  match nocSrcPort w with
  | 0 => r
  | 1 => 256 + (xRouters.findIdx? (fun x => x == r)).getD 0
  | 2 => 284 + r / 16
  | _ => 300 + r / 16

/-- The router whose clock adds tokens at an injection point (R326). -/
def pointRouter (i : Nat) : Nat :=
  if i < 256 then i else if i < 284 then xRouters.getD (i - 256) 0 else if i < 300 then 16 * (i - 284) else 16 * (i - 300) + 15

/-- `k` flits take their tokens; `late` more have come and wait for one (R326). -/
def Regulator.take (g : Regulator) (k late : Nat) : Regulator :=
  { g with tokens := g.tokens - 256 * k, throttled := satTo 16 (g.throttled + late) }

/-- One clock of a token bucket. -/
def Regulator.refill (g : Regulator) : Regulator := { g with tokens := min (256 * g.burst) (g.tokens + g.rate) }

/-- The virtual channel of an initiator's class (R321); none for an initiator that R321 does not name. -/
def nocClass (init : Nat) : Option Nat :=
  if init < 0x20 ∨ init = 0x34 then some 1
  else if init < 0x34 ∨ init = 0x36 then some 0
  else if init = 0x35 ∨ (0x40 ≤ init ∧ init < 0x50) then some 2
  else if init = 0x37 then some 3
  else none

/-- Code of a source or destination port as an input: 4 F, 5 X, 6 edge (Table 12-8). -/
def inputCode (port : Nat) : Nat := min 6 (4 + port)

/-- The inputs a packet passes, by router and input code: its source port, then along its row, then its column (R322). -/
def nocRoute (opc w : Nat) : List (Nat × Nat) :=
  let sx := nocSrcX w
  let sy := nocRow opc w
  let dx := nocDstX w
  let dy := nocDstY w
  let row := if sx ≤ dx then (List.range (dx - sx)).map (fun i => (16 * sy + sx + 1 + i, 3))
    else (List.range (sx - dx)).map (fun i => (16 * sy + sx - 1 - i, 1))
  let col := if sy ≤ dy then (List.range (dy - sy)).map (fun i => (16 * (sy + 1 + i) + dx, 0))
    else (List.range (sy - dy)).map (fun i => (16 * (sy - 1 - i) + dx, 2))
  (16 * sy + sx, inputCode (nocSrcPort w)) :: (row ++ col)

/-- Whether a router is in a hold on a network: no upstream output holds a credit for it (R328). -/
def State.heldOn (s : State) (r net : Nat) : Bool := ((s.holdOf r).map (fun h => bitOf h.nets net)).getD false

/-- Whether a probe matches a packet on its way. -/
def NocProbe.hits (n : NocProbe) (net w : Nat) (route : List (Nat × Nat)) : Bool :=
  n.enable && n.net == net && route.contains (n.router, n.input) && (w &&& n.mask) == (n.match_ &&& n.mask)

/-- The probes see a packet of REQ or RSP; a match is event source 4 of the trace (R336, R469). -/
def State.probeSee (s : State) (p : NocPacket) : State :=
  let net := nocNet (nocOpc p.word0)
  let route := nocRoute (nocOpc p.word0) p.word0
  if 2 ≤ net then s
  else (List.range 8).foldl (fun s i =>
    if (s.nocProbe i).hits net p.word0 route then
      (s.modNocProbe i (fun n => { n with
        count := satTo 48 (n.count + 1)
        kept := if n.trace ∧ n.kept.length < 16 then n.kept ++ [(p.word0, p.word1)] else n.kept })).traceEvent 4
    else s) s

/-- The slot charged for an initiator: its own, a new one in order of first appearance, or the shared last one (R335). -/
def Noc.slotFor (n : Noc) (init : Nat) : Nat × Noc :=
  match (List.range n.slotsUsed).find? (fun i => (tget n.slots DatSlot.init i).who == init) with
  | some i => (i, n)
  | none =>
    if n.slotsUsed < 64 then
      (n.slotsUsed, { n with
        slotsUsed := n.slotsUsed + 1
        slots := tput n.slots DatSlot.init n.slotsUsed { DatSlot.init with who := init, valid := true } })
    else (63, { n with overflow := true, slots := tmod n.slots DatSlot.init 63 (fun d => { d with shared := true }) })

/-- Charge a DAT packet at its ejection port. -/
def State.datSee (s : State) (p : NocPacket) : State :=
  let (i, n) := s.noc.slotFor (nocInit p.word0)
  let lat := wrapSub 16 s.time.ns (bitsOf p.word1 48 16)
  let n := { n with slots := tmod n.slots DatSlot.init i (fun d => { d with
    bytes := wrapTo 48 (d.bytes + 64 * nocLen p.word0), pkts := wrapTo 32 (d.pkts + 1), latMax := max d.latMax lat,
    latSum := wrapTo 64 (d.latSum + lat) }) }
  { s with noc := n }

/-- A packet discarded for its parity, at the first input it meets: counted at the router, the header in the decision log as it was received
(R332). A lost INV makes the caches drop every line (R334). -/
def State.parityDiscard (s : State) (p : NocPacket) (opc : Nat) : State :=
  let r := nocSrc opc p.word0
  let s := (s.modRouter r (fun x => { x with
    parErrs := satTo 16 (x.parErrs + 1), parNet := nocNet opc, parVc := nocVc p.word0
    parIn := inputCode (nocSrcPort p.word0) })).logDecision "header parity" r p.word0
  let s := if hasWord1 opc then s.logDecision "header parity, word 1" r p.word1 else s
  if nocNet opc = 2 then s.modNoc (fun n => { n with cached := [] }) else s

/-! ### Ports (Table 12-9, R330, R331) -/

/-- The state of the port a packet is addressed to: 0 OPEN, 1 CLOSING, 2 OFF, 3 DISABLED. Port F is closed by halves: a register's
domain decides for the register; the scratchpads have no half. A hub's port follows the domain of the register behind it (R329). -/
def State.nocPort (s : State) (p : NocPacket) : Nat :=
  let w := p.word0
  let r := nocDst w
  let reg := Config.regOf r (nocDstPort w) (bitsOf p.word1 0 48)
  let isReg : Bool := nocOpc w == opcRegRd || nocOpc w == opcRegWr
  let behind : Nat := if isReg then ((regDomain reg.1 reg.2).map (fun d => s.domPort d)).getD 0 else 0
  match nocDstPort w with
  | 0 =>
    if ¬ s.pairEnabled (routerPair r) then 3
    else if isReg then behind
    else if 0x100 ≤ bitsOf p.word1 32 16 ∧ isRequest (nocOpc w) then 0
    else s.fState r
  | 1 => s.xState r
  | _ => behind

/-- A response is sent: its transaction waits for nothing of the target any more. -/
def State.respond (s : State) (w opc len word1 : Nat) (data : List Byte) : State :=
  (s.modNoc (fun n => { n with txns := n.txns.map (fun t =>
    if t.init = nocInit w ∧ t.txn = nocTxn w then { t with answered := true } else t) })).send (.noc (nocReply w opc len word1) word1 data)

/-- Send an ERR, an ACK. -/
def State.nocErr (s : State) (w code : Nat) : State := s.respond w opcErr 0 code []
def State.nocAcked (s : State) (w : Nat) : State := s.respond w opcAck 0 0 []

/-- The proxy of a port answers: the answer is counted (R331). -/
def State.proxied (s : State) (w : Nat) : State :=
  s.modRouter (nocDst w) (fun x => { x with proxy := satTo 16 (x.proxy + 1) })

/-! ### Region checks (R138–R143) -/

/-- The master whose regions check an initiator: 0 DIAG, 1 RING, 2 ACQ, 3 SE; the others have none. -/
def nocMaster (init : Nat) : Option Nat :=
  if init < 0x20 then some 3 else if init < 0x30 then some 2 else if init < 0x34 then some 1
  else if init = 0x35 then some 0 else none

def initLoader : Nat := 0x34

/-- Scratchpad windows: the window (0 plain, 1 SET, 2 CLR), pair, scratchpad and first word of an address. -/
structure PadPlace where
  win  : Nat
  pair : Nat
  pad  : Nat
  word : Nat
deriving DecidableEq, Repr

def padPlace (a : Nat) : Option PadPlace :=
  let win := a / 2 ^ 32 - 0x100
  let o := a % 2 ^ 32
  if 0x100 ≤ a / 2 ^ 32 ∧ win < 3 ∧ o < 0x8000000 then
    some { win := win, pair := o / 0x80000, pad := o % 0x80000 / 0x10000, word := o % 0x10000 / 2 }
  else none

/-- The pasture that holds an HBM range: one of its allocations covers it. -/
def State.hbmHolder (s : State) (a n : Nat) : Option Nat :=
  s.livePastures.find? (fun p => (s.pas p).comp.allocs.any (fun x => decide (x.base ≤ a) && decide (a + n ≤ x.base + x.size)))

/-- The pasture that holds the target of an access: of a scratchpad, of an allocation, of its entries in the job tables or the ring
directory (Table 6-6). -/
def State.targetHolder (s : State) (a n : Nat) : Option Nat :=
  match padPlace a with
  | some x => (s.fold (2 * x.pair)).pasture
  | none => (s.hbmHolder a n).orElse (fun _ => (s.jobHolder a n).orElse (fun _ => s.dirHolder a n))

/-- Whether a region register of a master covers an access and permits it. -/
def State.regionPermits (s : State) (master p a n : Nat) (write alias_ : Bool) : Bool :=
  (List.range 16).any (fun i =>
    let r := s.mregion (16 * master + i)
    r.valid && r.pasture == p && decide (r.base ≤ a) && decide (a + n ≤ r.base + 4096 * r.pages) &&
      (if ¬ write then r.rd else if alias_ then r.setclr else r.wr))

/-- Allocation kinds of the implicit regions (R142): of RING the ring stores, undo and ingress areas, and the deep memory
regions; of ACQ the landing and snapshot buffers, and to read the rings; of SE the queues. -/
def implicitKinds (master : Nat) (write recovering : Bool) : List Nat :=
  match master with
  | 1 => if write then (if recovering then [2, 4, 5, 6] else [4, 5, 6]) else [2, 4, 5, 6]
  | 2 => if write then [7, 8] else [4, 5, 6, 7, 8]
  | 3 => [9]
  | _ => []

/-- Whether a range lies in a deep memory region that the acquisition plan names in SNAP_REGIONS. -/
def State.snapReads (s : State) (p a n : Nat) : Bool :=
  (numsWhere 16 (fun k => bitOf (s.acqOf p).snapRegions k)).any (fun k =>
    let r := tget (s.pas p).comp.dmRegions DmRegion.init k
    r.valid && decide (r.base ≤ a) && decide (a + n ≤ r.base + 4096 * r.pages))

/-- The master's implicit regions of a pasture (R142). -/
def State.implicitPermits (s : State) (master p a n : Nat) (write : Bool) : Bool :=
  let rec_ := s.pstate p == .recovering
  (s.pas p).comp.allocs.any (fun x => (implicitKinds master write rec_).contains x.kind && decide (x.base ≤ a) && decide (a + n ≤ x.base + x.size)) ||
  (master == 1 && s.dirHolder a n == some p) || (master == 2 && !write && s.snapReads p a n) ||
  (master == 3 && s.jobHolder a n == some p) ||
  (match padPlace a with
    | some x => (s.pas p).comp.pairs.contains x.pair && ((master == 1 && (!write || rec_)) || (master == 2 && !write))
    | none => false)

/-- Table 5-3. An initiator it does not list reaches no scratchpad. -/
def padStateOk (init : Nat) (st : PState) (write : Bool) : Bool :=
  let live := st == .running || st == .stepping || st == .frozen
  match nocMaster init with
  | some 0 => if write then st == .loaded || st == .frozen else live || st == .loaded
  | some 1 => if write then st == .recovering else live
  | some 2 => !write && live
  | some _ => false
  | none => init == initLoader && write && (st == .loading || st == .draining)

/-- The LOADER's bounds (R140): a pasture in LOADING or DRAINING, or a device-reserved block. -/
def State.loaderPermits (s : State) (a n : Nat) : Bool :=
  (match s.targetHolder a n with
    | some p => s.pstate p == .loading || s.pstate p == .draining
    | none => false) || (decide (a % Config.stackBytes + n ≤ Config.reservedBytes) && decide (a + n ≤ Config.hbmEnd))

/-- What stands against an access: an error code, or 0. -/
def State.accessError (s : State) (init a n : Nat) (write alias_ : Bool) : Nat :=
  let known := (padPlace a).isSome || decide (a + n ≤ Config.hbmEnd)
  if ¬ known then errRegion
  else
    let holder := s.targetHolder a n
    let permitted : Bool := match nocMaster init with
      | some m => match holder with
        | some p => s.regionPermits m p a n write alias_ || s.implicitPermits m p a n write
        | none => false
      | none => init != initLoader || s.loaderPermits a n
    if ¬ permitted then errRegion
    else match padPlace a, holder with
      | some _, some p => if padStateOk init (s.pstate p) write then 0 else errState
      | some _, none => errState
      | none, _ => 0

/-- A denied access is recorded for its master (R143). -/
def State.denied (s : State) (w : Nat) (write : Bool) : State :=
  match nocMaster (nocInit w) with
  | some m => s.modMstat m (fun x => { x with
      viol := satTo 16 (x.viol + 1), lastPasture := nocPasture w, lastPv := nocPv w, lastWrite := write })
  | none => s

/-! ### Performing an access (R134, R139) -/

/-- Whether the unit at a packet's destination is the home of an address: the pair's router, or attach point (stack offset div 256) mod 4
of the stack (R317). -/
def nocHome (w a : Nat) : Bool :=
  match padPlace a with
  | some x => nocDstPort w == 0 && nocDst w == pairRouter x.pair
  | none => nocDstPort w == 1 &&
      xRouters.getD (4 * (a / Config.stackBytes) + a % Config.stackBytes / 256 % 4) 0 == nocDst w &&
      decide (a / Config.stackBytes < 6)

/-- Bytes of a scratchpad. -/
def Pair.bytes (q : Pair) (x : PadPlace) (n : Nat) : List Byte :=
  (List.range (n / 2)).flatMap (fun i => leBytes 2 (q.word (padKey x.pad (x.word + i))).toNat)

/-- Write bytes to a scratchpad: stored, or joined by OR or AND NOT. -/
def Pair.putBytes (q : Pair) (x : PadPlace) (kind : Nat) (bs : List Byte) : Pair :=
  (List.range (bs.length / 2)).foldl (fun q i =>
    let key := padKey x.pad (x.word + i)
    let d := BitVec.ofNat 16 (fieldAt bs (2 * i) 2)
    let old := q.word key
    q.setWord key (if kind = 1 then old ||| d else if kind = 2 then old &&& ~~~d else d)) q

/-- Read `n` bytes of the service space. What the device keeps in a form that the spec does not give reads as free bytes
(DESIGN CHOICE, log 64). -/
def State.serviceRead (s : State) (a n : Nat) : List Byte × State :=
  match padPlace a with
  | some x => ((s.pair x.pair).bytes x n, s)
  | none =>
    let seen := s.hbmSee a n
    if deviceKept a n then
      let (free, s) := s.drawBytes n
      ((seen.zip free).zipIdx.map (fun e => if deviceKept (a + e.2) 1 then e.1.2 else e.1.1), s)
    else (seen, s)

/-- Write bytes to the service space; `kind` 1 is OR, 2 is AND NOT, 0 stores. -/
def State.serviceWrite (s : State) (a kind : Nat) (bs : List Byte) : State :=
  match padPlace a with
  | some x => s.modPair x.pair (fun q => q.putBytes x (if x.win ≠ 0 then x.win else kind) bs)
  | none => s.hbmPut a bs

/-- Whether scratchpad `k` of pair `q` can take a service access at once: no scheduled access is granted or was performed in the present
step, no service access was, none waits, and the device is neither in HOLD nor in RECOVER (R134, R136). -/
def State.padFree (s : State) (q k : Nat) : Bool :=
  s.dev.mode != .hold && s.dev.mode != .recover && (s.pair q).port.all (fun a => a.pad != k) && !(s.pair q).busy.contains k &&
    !(s.pair q).served.contains k && s.noc.padWait.all (fun w => w.place != some (q, k))

/-- The port's one access of the present step is a service access. -/
def State.padTake (s : State) (q k : Nat) : State := s.modPair q (fun x => { x with served := k :: x.served })

/-- The turn of an initiator at a scratchpad: 0 DIAG, 1 RING, 2 ACQ, 3 LOADER (R134). -/
def padMaster (init : Nat) : Nat := (nocMaster init).getD 3

def State.padQueue (s : State) (w : PadWait) : State := s.modNoc (fun n => { n with padWait := n.padWait ++ [w] })

/-! ### Transactions (R319, R333) -/

/-- A request opens its transaction. -/
def State.openTxn (s : State) (p : NocPacket) : State :=
  let w := p.word0
  if s.noc.txns.any (fun t => t.init == nocInit w && t.txn == nocTxn w) then s
  else s.modNoc (fun n => { n with txns := n.txns ++ [{
    init := nocInit w, txn := nocTxn w, opc := nocOpc w, vc := nocVc w, pasture := nocPasture w, pv := nocPv w, word0 := w,
    word1 := p.word1, data := p.data, tries := 0, answered := false }] })

/-- A response ends its transaction; one that finds none is late, and counted in the decision log. -/
def State.closeTxn (s : State) (w : Nat) : State :=
  let mine (t : Txn) : Bool := t.init == nocInit w && t.txn == nocTxn w
  if s.noc.txns.any mine then s.modNoc (fun n => { n with txns := n.txns.filter (fun t => !mine t) })
  else (s.modNoc (fun n => { n with late := n.late + 1 })).logDecision "late response" (nocInit w) (nocTxn w)

/-- Lines of 64 bytes that an access touches. -/
def linesOf (a n : Nat) : List Nat := (List.range ((a % 64 + n + 63) / 64)).map (fun i => a / 64 + i)

/-- A drover core's read may leave its line in a cache. -/
def State.cacheRead (s : State) (w a n : Nat) : State :=
  if 0x40 ≤ nocInit w ∧ nocInit w < 0x50 ∧ (padPlace a).isNone then
    s.modNoc (fun m => { m with cached := (m.cached ++ linesOf a n).dedup })
  else s

/-- A tag that no INV of the controller of stack `h` bears. -/
def State.invTag (s : State) (h : Nat) : Nat :=
  ((List.range 4096).find? (fun t => s.noc.invWait.all (fun e => e.ctl != 0x50 + h || e.tag != t))).getD 0

/-- The controller of stack `h` sends the INV of a line on the write's VC and awaits its SNP_ACK (R323). -/
def State.sendInv (s : State) (w h l : Nat) : State :=
  let t := s.invTag h
  (s.modNoc (fun m => { m with invWait := m.invWait ++ [{ ctl := 0x50 + h, tag := t, line := l, word0 := w }] })).send
    (.noc (nocWord0 0 (nocDstY w) 2 (nocDstX w) (nocDstY w) (nocDstPort w) (0x50 + h) opcInv (nocVc w) t 0
      (nocPasture w) (nocPv w) (64 * l)) (64 * l) [])

/-- The ACK of a write: at once, or after the SNP_ACK of every line that a drover cache may hold (R323). -/
def State.ackWrite (s : State) (w a n : Nat) : State :=
  let held := (linesOf a n).filter (fun l => s.noc.cached.contains l)
  if held.isEmpty ∨ (padPlace a).isSome then s.nocAcked w
  else held.foldl (fun s l => s.sendInv w (a / Config.stackBytes) l) s

/-! ### Requests at their target -/

/-- Address and size of a REQ access; the bytes and the kind of an access (1 OR, 2 AND NOT), and whether it joins (Table 5-5). -/
def nocAddr (p : NocPacket) : Nat := bitsOf p.word1 0 48
def nocSize (p : NocPacket) : Nat := 2 * (bitsOf p.word1 48 4 + 1)
def nocKind (opc : Nat) : Nat := if opc = opcSetw then 1 else if opc = opcClrw then 2 else 0
def nocJoins (opc a : Nat) : Bool := nocKind opc != 0 || ((padPlace a).map (fun x => x.win != 0)).getD false

/-- A service access at its target: an error, or its effect. -/
def State.service (s : State) (p : NocPacket) (n : Nat) (write joins : Bool) (act : State → State) : State :=
  let a := nocAddr p
  let w := p.word0
  let e := s.accessError (nocInit w) a n write joins
  if e = errRegion then (s.denied w write).nocErr w e
  else if e ≠ 0 then s.nocErr w e
  else if ¬ nocHome w a ∨ a % 2 ≠ 0 ∨ ((padPlace a).isSome ∧ 32 < a % 32 + n) then s.nocErr w errAddr
  else act s

/-- The effect of RD. -/
def State.doRead (s : State) (p : NocPacket) : State :=
  let (bs, s) := (s.cacheRead p.word0 (nocAddr p) (nocSize p)).serviceRead (nocAddr p) (nocSize p)
  s.respond p.word0 opcRdData 1 0 bs

/-- A write has reached the memory of a pasture: where DIAG made it, the barrier the pasture is held at becomes a ring point (R272). -/
def State.wroteFor (s : State) (p : NocPacket) (n : Nat) : State :=
  match (if nocInit p.word0 = 0x35 then s.targetHolder (nocAddr p) n else none) with
  | some q => s.hostWrote q
  | none => s

/-- The effect of a write of the given kind and length, and its ACK. -/
def State.doWrite (s : State) (p : NocPacket) (kind n : Nat) : State :=
  ((s.serviceWrite (nocAddr p) kind (padTo n p.data)).wroteFor p n).ackWrite p.word0 (nocAddr p) n

/-- RD, WR, SETW or CLRW passed by its checks. -/
def State.perform (s : State) (p : NocPacket) : State :=
  if nocOpc p.word0 = opcRd then s.doRead p else s.doWrite p (nocKind (nocOpc p.word0)) (nocSize p)

/-- RD, WR, SETW or CLRW at its target, with `act` where nothing stands against it. SETW and CLRW have no meaning at HBM. -/
def State.access (s : State) (p : NocPacket) (act : State → State) : State :=
  let o := nocOpc p.word0
  let a := nocAddr p
  if nocKind o ≠ 0 ∧ (padPlace a).isNone ∧ a < Config.hbmEnd then s.nocErr p.word0 errAddr
  else s.service p (nocSize p) (o != opcRd) (nocJoins o a) act

/-- A permitted access takes the scratchpad's port, or waits for it (R134); HBM takes it. -/
def State.atPort (s : State) (p : NocPacket) : State :=
  match padPlace (nocAddr p) with
  | none => s.perform p
  | some x =>
    if s.padFree x.pair x.pad then (s.padTake x.pair x.pad).perform p
    else s.padQueue { place := some (x.pair, x.pad), master := padMaster (nocInit p.word0), steps := 0, task := .packet p }

/-- BULK_RD: how many data flits it asks for has no field in the header, and is a free value (DESIGN CHOICE, log 6). -/
def State.bulkRead (s : State) (p : NocPacket) : State :=
  let (k, s) := s.draw 6
  let n := 64 * (k + 1)
  s.service p n false false (fun s =>
    let w1 := nocAddr p + 2 ^ 48 * (s.time.ns % 2 ^ 16)
    let (bs, s) := (s.cacheRead p.word0 (nocAddr p) n).serviceRead (nocAddr p) n
    s.respond p.word0 opcBulkData (k + 1) w1 bs)

/-- BULK_WR on DAT. -/
def State.bulkWrite (s : State) (p : NocPacket) : State :=
  let n := 64 * nocLen p.word0
  s.service p n true false (fun s => s.doWrite p 0 n)

/-! ### Reconfiguration -/

/-- A hold begins: it is counted. -/
def State.holdBegins (s : State) (r : Nat) : State := s.modRouter r (fun x => { x with holds := satTo 16 (x.holds + 1) })

/-- A hold of a router on some networks, after the holds of its die that are in progress (R327, R328). It lasts at most 2 µs, which is
1,000 clocks of the slowest die; how many is not stated and is free. -/
def State.holdRouter (s : State) (r nets : Nat) : State :=
  let (k, s) := s.draw 10
  let first := s.noc.holds.all (fun h => routerDie h.router != routerDie r)
  let s := s.modNoc (fun n => { n with holds := n.holds ++ [{ router := r, nets := nets, left := 1 + k % 1000 }] })
  if first then s.holdBegins r else s

/-- Program probe `i`: a router that loses or gains a probe holds for its reconfiguration (R328, R336). -/
def State.setProbe (s : State) (i : Nat) (n : NocProbe) : State :=
  let old := s.nocProbe i
  let s := if old.enable then s.holdRouter old.router (2 ^ old.net) else s
  let s := if n.enable ∧ ¬ (old.enable ∧ old.router = n.router ∧ old.net = n.net) then s.holdRouter n.router (2 ^ n.net) else s
  s.modNocProbe i (fun _ => n)

/-- A probe as its configuration says; enabling it clears its count and what it kept (R336). -/
def NocProbe.configured (old : NocProbe) (router net input : Nat) (on trace : Bool) (match_ mask : Nat) : NocProbe :=
  { router := router, net := net, input := input, enable := on, trace := trace, match_ := match_, mask := mask
    count := if on then 0 else old.count, kept := if on then [] else old.kept }

/-! ### Registers on the mesh -/

/-- The register of a REG packet (which address is which register the spec does not state: DESIGN CHOICE, log 26). -/
def nocReg (p : NocPacket) : Nat × Nat := Config.regOf (nocDst p.word0) (nocDstPort p.word0) (nocAddr p)

/-- Bits of access W1C, W1S or WO of a register that a REG packet can reach (Tables 4-12, 8-10). -/
def regW1c (reg : Nat) : Nat := if reg = 0x0202 then 2 ^ 24 else if reg = 0x0204 then 2 ^ 50 + 2 ^ 51 else 0

/-- Set a regulator; the change is logged and takes effect at the next flit (R326). -/
def State.setRegulator (s : State) (i rate burst : Nat) : State :=
  if 1 ≤ rate ∧ rate ≤ 256 ∧ 1 ≤ burst ∧ burst ≤ 255 then
    (s.modRegulator i (fun g => { g with rate := rate, burst := burst, tokens := min g.tokens (256 * burst) })).logDecision
      "regulator" i (rate + 512 * burst)
  else s

/-- A register write: RW and W1C fields, and the fields that firmware writes (R11, R337). -/
def State.writeReg (s : State) (reg i v : Nat) : State :=
  match reg with
  | 0x0201 => s.modWdog i (fun w => { w with periodLog2 := bitsOf v 0 6, enable := bitOf v 6, written := true, counter := 0, fresh := true })
  | 0x0202 => if bitOf v 24 then s.modWdog i (fun w => { w with extWait := false }) else s
  | 0x0204 => s.modPFlow i (fun w => { w with earlySat := w.earlySat && !bitOf v 50, hostErr := w.hostErr && !bitOf v 51 })
  | 0x0502 => s.setRegulator i (bitsOf v 0 9) (bitsOf v 16 8)
  | 0x0507 => s.setProbe i ((s.nocProbe i).configured (bitsOf v 0 8) (bitsOf v 8 1) (bitsOf v 9 3) (bitOf v 12) (bitOf v 13)
      (s.nocProbe i).match_ (s.nocProbe i).mask)
  | 0x0508 => s.modNocProbe i (fun n => { n with match_ := v })
  | 0x0509 => s.modNocProbe i (fun n => { n with mask := v })
  | _ => s

/-- A register packet at its target: a register that the device has, with its address. -/
def State.atReg (s : State) (p : NocPacket) (act : State → Nat → Nat → State) : State :=
  let (reg, i) := nocReg p
  match regCount reg with
  | some n => if i < n then act s reg i else s.nocErr p.word0 errAddr
  | none => s.nocErr p.word0 errAddr

/-- Every request at the unit it is addressed to. CTL is acknowledged; what it controls is not stated (DESIGN CHOICE, log 26). -/
def State.atTarget (s : State) (p : NocPacket) : State :=
  let o := nocOpc p.word0
  if o = opcBulkRd then s.bulkRead p
  else if o = opcBulkWr then s.bulkWrite p
  else if o = opcRegRd then s.atReg p (fun s reg i => s.respond p.word0 opcRdData 1 0 (leBytes 8 (s.regValue reg i)))
  else if o = opcRegWr then s.atReg p (fun s reg i => (s.writeReg reg i (fieldAt p.data 0 8)).nocAcked p.word0)
  else if o = opcCtl then s.nocAcked p.word0
  else s.access p (fun s => s.atPort p)

/-- A request reaches its port: a port the router lacks holds no address; a closing one, an isolated one and a disabled pair answer for
their unit (R330, R331). -/
def State.request (s : State) (p : NocPacket) : State :=
  let w := p.word0
  if ¬ hasPort (nocDst w) (nocDstPort w) then s.nocErr w errAddr
  else match s.nocPort p with
    | 0 => s.atTarget p
    | 1 => s.nocErr w errClosing
    | 2 => (s.proxied w).nocErr w errOff
    | _ => (s.proxied w).nocErr w errDisabled

/-! ### Responses and snoops at their target -/

/-- A response reaches its initiator, unless the port it is addressed to is closed off, where the proxy consumes it. -/
def State.response (s : State) (p : NocPacket) : State :=
  if hasPort (nocDst p.word0) (nocDstPort p.word0) ∧ s.nocPort p < 2 then s.closeTxn p.word0 else s

/-- An INV: the drover caches no longer hold the line, and SNP_ACK answers; at an isolated port the proxy answers. -/
def State.invalidate (s : State) (p : NocPacket) : State :=
  let l := bitsOf p.word1 0 48 / 64
  let s := if 2 ≤ s.nocPort p then s.proxied p.word0
    else s.modNoc (fun n => { n with cached := n.cached.filter (fun x => x != l) })
  s.respond p.word0 opcSnpAck 0 0 []

/-- The SNP_ACK of the last line a write waits for lets the controller send the write's ACK (R323). -/
def State.snpAcked (s : State) (p : NocPacket) : State :=
  if 2 ≤ s.nocPort p then s
  else match s.noc.invWait.find? (fun e => e.ctl == nocInit p.word0 && e.tag == nocTxn p.word0) with
    | none => s
    | some e =>
      let s := s.modNoc (fun n => { n with invWait := n.invWait.erase e })
      if s.noc.invWait.any (fun x => x.word0 == e.word0) then s else s.nocAcked e.word0

/-- A packet is ejected at its destination. -/
def State.ejected (s : State) (p : NocPacket) : State :=
  let o := nocOpc p.word0
  if isRequest o then s.request p
  else if o = opcInv then s.invalidate p
  else if o = opcSnpAck then s.snpAcked p
  else s.response p

/-! ### Injection -/

/-- A packet that has entered the mesh: discarded for its parity, or seen by the probes, charged, and ejected. -/
def State.nocPass (s : State) (x : NocWait) : State :=
  if parityOk x.pkt then
    let s := s.probeSee x.pkt
    (if nocNet x.opc = 3 then s.datSee x.pkt else s).ejected x.pkt
  else s.parityDiscard x.pkt x.opc

/-- Whether an earlier packet waits at the same injection point on the same network. -/
def NocWait.after (x y : NocWait) : Bool :=
  nocNet y.opc == nocNet x.opc && injectionPoint y.opc y.pkt.word0 == injectionPoint x.opc x.pkt.word0

def State.nocDelay (s : State) (x : NocWait) : State := s.modNoc (fun n => { n with waiting := n.waiting ++ [x] })

/-- A packet enters as far as tokens and credits let it, and waits otherwise (R326, R328). -/
def State.nocAttempt (s : State) (x : NocWait) : State :=
  let w := x.pkt.word0
  let net := nocNet x.opc
  if s.noc.waiting.any x.after ∨ s.heldOn (nocSrc x.opc w) net then s.nocDelay x
  else
    let i := 4 * injectionPoint x.opc w + net
    let k := min x.left ((s.regulator i).tokens / 256)
    let late := x.left - k
    let s := s.modRegulator i (fun g => g.take k (if x.counted then 0 else late))
    if late ≠ 0 then s.nocDelay { x with left := late, counted := true }
    else if (nocRoute x.opc w).any (fun e => s.heldOn e.1 net) then s.nocDelay { x with left := 0 }
    else s.nocPass x

/-- A packet of a row's operation is sent: a request opens its transaction. A packet of another operation, or from a port that its router
lacks, is none of that row (DESIGN CHOICE, log 26). -/
def State.nocEnter (s : State) (p : NocPacket) (opc : Nat) : State :=
  let w := p.word0
  let s := if isRequest opc ∧ nocOpc w = opc then s.openTxn p else s
  if parityOk p ∧ (nocOpc w ≠ opc ∨ ¬ hasPort (nocSrc opc w) (nocSrcPort w)) then s
  else s.nocAttempt { pkt := p, opc := opc, left := 1 + nocLen w, counted := false }

/-! ### The rows -/

def execNocRd (p : NocPacket) (s : State) : Host.Outcome State Fault Refusal := .next (s.nocEnter p opcRd)
/-- WR of 2 to 32 bytes. -/
def execNocWr (p : NocPacket) (s : State) : Host.Outcome State Fault Refusal := .next (s.nocEnter p opcWr)
/-- SETW: word := word OR data, in one port access. -/
def execSetw (p : NocPacket) (s : State) : Host.Outcome State Fault Refusal := .next (s.nocEnter p opcSetw)
/-- CLRW: word := word AND NOT data, in one port access. -/
def execClrw (p : NocPacket) (s : State) : Host.Outcome State Fault Refusal := .next (s.nocEnter p opcClrw)
def execBulkRd (p : NocPacket) (s : State) : Host.Outcome State Fault Refusal := .next (s.nocEnter p opcBulkRd)
def execBulkWr (p : NocPacket) (s : State) : Host.Outcome State Fault Refusal := .next (s.nocEnter p opcBulkWr)
def execRegRd (p : NocPacket) (s : State) : Host.Outcome State Fault Refusal := .next (s.nocEnter p opcRegRd)
def execRegWr (p : NocPacket) (s : State) : Host.Outcome State Fault Refusal := .next (s.nocEnter p opcRegWr)
def execCtl (p : NocPacket) (s : State) : Host.Outcome State Fault Refusal := .next (s.nocEnter p opcCtl)
def execNocAck (p : NocPacket) (s : State) : Host.Outcome State Fault Refusal := .next (s.nocEnter p opcAck)
def execRdData (p : NocPacket) (s : State) : Host.Outcome State Fault Refusal := .next (s.nocEnter p opcRdData)
def execErr (p : NocPacket) (s : State) : Host.Outcome State Fault Refusal := .next (s.nocEnter p opcErr)
def execBulkData (p : NocPacket) (s : State) : Host.Outcome State Fault Refusal := .next (s.nocEnter p opcBulkData)
def execInv (p : NocPacket) (s : State) : Host.Outcome State Fault Refusal := .next (s.nocEnter p opcInv)
def execSnpAck (p : NocPacket) (s : State) : Host.Outcome State Fault Refusal := .next (s.nocEnter p opcSnpAck)

/-! ### Timeouts (R333) -/

/-- The third expiry of a transaction that serves no pasture: the firmware command it served completes with 0x060B, for DIAG the oldest of
its commands in progress. Every other command is complete once the control complex has run it, so none is in progress (DEDUCED, log 53). -/
def State.expireCommand (s : State) (init : Nat) : State :=
  match (if init = 0x35 then s.host.prog.find? (fun g => g.opcode / 256 == 0x0D && !s.host.cplWait.any (fun j => j.prog == g)) else none) with
  | some g => (s.modNoc (fun n => { n with padWait := n.padWait.filter (fun w => match w.task with
      | .diag j => j.prog.ring != g.ring || j.prog.seq != g.seq
      | .packet _ => true) })).finish (plainJob g 0x060B [])
  | none => s

/-- Send a transaction again under a new TXN, which the spec does not state and is free. A REG_WR to a field of access W1C, W1S or WO is
read again in its place. -/
def State.reissue (s : State) (t : Txn) : State :=
  let (k, s) := s.draw 12
  let w := t.word0
  let again : Bool := t.opc == opcRegWr && (fieldAt t.data 0 8 &&& regW1c (Config.regOf (nocDst w) (nocDstPort w) (bitsOf t.word1 0 48)).1) != 0
  let o := if again then opcRegRd else t.opc
  let data := if again then [] else t.data
  let w' := nocWord0 (nocDstX w) (nocDstY w) (nocDstPort w) (nocSrcX w) (nocSrcY w) (nocSrcPort w) t.init o t.vc k
    (if again then 0 else nocLen w) t.pasture t.pv t.word1
  (s.modNoc (fun n => { n with txns := n.txns ++ [{ t with
    txn := k, opc := o, word0 := w', data := data, tries := t.tries + 1, answered := false }] })).send (.noc w' t.word1 data)

/-- A transaction past its timeout, by the class of its initiator. -/
def execServiceTimeout (init txn : Nat) (s : State) : Host.Outcome State Fault Refusal :=
  .next (match s.noc.txns.find? (fun t => t.init == init && t.txn == txn) with
    | none => s
    | some t =>
      if s.dev.mode = .hold ∨ s.dev.mode = .recover then s
      else
        let s := s.modNoc (fun n => { n with txns := n.txns.erase t })
        if (nocClass t.init).getD t.vc = 0 then s.controlFault t.pasture 0x060B none
        else if 2 ≤ t.tries then (if t.pv then s.controlFault t.pasture 0x060B none else s.expireCommand t.init)
        else s.reissue t)

/-! ### Reconfiguration and regulators -/

/-- Firmware changes the VC weights of a router, where no hold of its die is in progress (R327). -/
def execRouterReconfigure (router nets weights : Nat) (s : State) : Host.Outcome State Fault Refusal :=
  .next (
    if router < Config.numRouters ∧ nets < 16 ∧ s.up ∧ s.noc.holds.all (fun h => routerDie h.router != routerDie router) then
      (s.holdRouter router nets).modRouter router (fun x => { x with weights := weights })
    else s)

/-- Firmware changes a regulator. -/
def execRegulatorChange (point net rate burst : Nat) (s : State) : Host.Outcome State Fault Refusal :=
  .next (if point < 316 ∧ net < 4 ∧ s.up then s.setRegulator (4 * point + net) rate burst else s)

/-! ### Clocks of the network -/

/-- One router clock of a die: its hold in progress comes nearer to its end, and the next one begins. -/
def State.holdStep (s : State) (d : Nat) : State :=
  match s.noc.holds.find? (fun h => routerDie h.router == d) with
  | none => s
  | some h =>
    if 1 < h.left then s.modNoc (fun n => { n with holds := n.holds.replace h { h with left := h.left - 1 } })
    else
      let s := s.modNoc (fun n => { n with holds := n.holds.erase h })
      match s.noc.holds.find? (fun h => routerDie h.router == d) with
      | some x => s.holdBegins x.router
      | none => s

/-- One router clock of every die whose step clock has an edge (R316): tokens, holds, and the packets that wait, oldest first. -/
def State.nocTick (s : State) : State :=
  let edge (r : Nat) : Bool := (s.dieClk (routerDie r)).edge
  let s := ((s.noc.regulators.map Prod.fst).filter (fun i => edge (pointRouter (i / 4)))).foldl (fun s i => s.modRegulator i Regulator.refill) s
  let s := ((List.range 4).filter (fun d => (s.dieClk d).edge)).foldl (fun s d => s.holdStep d) s
  s.noc.waiting.foldl (fun s x => s.nocAttempt x) (s.modNoc (fun n => { n with waiting := [] }))

end Sys2Proof.Machine
end

