-- ==== Sys2Proof/Machine/Device.lean ====
section
/-!
DEFINITION. Device commands of the control complex: identity, firmware, wipes, edge release, power, the trace and the
service-network probes (R396, R411–R413, R425, R426, R441, R444, R460, R469–R473).
-/

namespace Sys2Proof.Machine

open Sys2Proof

/-! ### Identity and echo -/

/-- DEVICE_INFO returns the identity and status block. -/
def deviceInfoCard : Card :=
  { opcode := 0x0001, modes := "SEMHW", session := false, names := false, waits := false, lengthOk := lenIs 16,
    run := fun c g s => s.checked g (reservedZero c 12 4 ++ resultChecks c 4096) (fun s =>
      s.completeResult g c [] s.identBlock true) }

def execDeviceInfo (c : Cmd) (s : State) : Host.Outcome State Fault Refusal := .next (s.runCard deviceInfoCard c)

/-- ECHO returns its parameters in DETAIL. -/
def echoCard : Card :=
  { opcode := 0x0002, modes := "SEMHW", session := false, names := false, waits := false, lengthOk := lenIs 24,
    run := fun c g s => s.complete g 0 c.params }

def execEcho (c : Cmd) (s : State) : Host.Outcome State Fault Refusal := .next (s.runCard echoCard c)

/-! ### Firmware (R425, R426, R460) -/

/-- The slot that does not run. -/
def Flash.inactive (f : Flash) : FwSlot := if f.activeB then f.slotA else f.slotB
def Flash.modInactive (f : Flash) (g : FwSlot → FwSlot) : Flash :=
  if f.activeB then { f with slotA := g f.slotA } else { f with slotB := g f.slotB }

/-- The largest slot image. -/
def maxImage : Nat := 3145728

/-- Bytes placed at an offset of a byte string, zeros filling what lies between. -/
def overlay (old : List Byte) (o : Nat) (bs : List Byte) : List Byte := padTo o old ++ bs ++ old.drop (o + bs.length)

/-- The checks of R426 on a whole image, apart from its SVN: the header, the chain, the signature and the code digest. -/
def fwVerifies (b : List Byte) : Bool :=
  let n := fieldAt b 0x00C 4
  let k := fieldAt b 0x0A0 4
  let cert := slice b 0x100 k
  fieldAt b 0 4 == 0x5746364D && b.length == 4096 + n && decide (k ≤ 3840) && zeroAt b 0x0A4 92 &&
    zeroAt b (0x100 + k) (4096 - 0x100 - k) && decide (fieldAt b 0x008 4 ≤ 64) && sha384 (b.drop 4096) == slice b 0x010 48 &&
    Config.certChainOk cert && ecdsaVerify (Config.certKey cert) (slice b 0 0x40) (slice b 0x040 96)

/-- The slot is as its image says. -/
def FwSlot.verified (x : FwSlot) : FwSlot :=
  { x with good := true, minor := fieldAt x.bytes 4 2, major := fieldAt x.bytes 6 2, svn := fieldAt x.bytes 8 4 }

/-- One packet of data in the inactive slot; OFFSET 0 starts a new image. -/
def State.stageWrite (s : State) (offset total : Nat) (data : List Byte) : State :=
  let put (x : FwSlot) : FwSlot :=
    { x with bytes := (overlay (if offset = 0 then [] else x.bytes) offset data).take total, good := false }
  let f := s.flash.modInactive put
  { s with flash := { f with staged := false, total := total } }

/-- The life-cycle states that forbid a command (Table 16-7). -/
def State.lcIs (s : State) (l : List Nat) : Bool := l.contains s.fuses.lcState

/-- What follows when the byte at TOTAL − 1 has arrived: the image is judged, and STAGED is set where it passes. -/
def State.stageJudge (s : State) (g : Prog) : State :=
  let x := s.flash.inactive
  if ¬ fwVerifies x.bytes then s.complete g 0x040A []
  else if fieldAt x.bytes 8 4 < s.fuses.svnMin then s.complete g 0x040F []
  else
    let f := s.flash.modInactive FwSlot.verified
    State.complete { s with flash := { f with staged := true } } g 0 []

/-- FW_STAGE writes into the inactive slot. -/
def fwStageCard : Card :=
  { opcode := 0x0003, modes := "SEM", session := false, names := false, waits := false,
    lengthOk := fun b => decide (24 ≤ b.length) && decide (b.length ≤ 16 + 65536),
    run := fun c g s =>
      let o := fieldAt c.params 0 4
      let t := fieldAt c.params 4 4
      let data := c.params.drop 16
      s.checked g (reservedZero c 8 8 ++ [rangeCheck (o % 65536 != 0 || decide (t ≤ o)) 0, rangeCheck (decide (maxImage < t)) 4,
        stateCheck (s.lcIs [lcEnded]) 0x0413]) (fun s =>
          let s := s.stageWrite o t data
          if t ≤ o + data.length then s.stageJudge g else s.complete g 0 []) }

def execFwStage (c : Cmd) (s : State) : Host.Outcome State Fault Refusal := .next (s.runCard fwStageCard c)

/-- A control-complex restart begins (R21, R173, R437, R460, R474): intake pauses, the trace is as after a reset, entries that
have not reached their commit are refused, and a load in progress is abandoned. `cause` is that of LAST_CC. -/
def State.beginRestart (s : State) (cause : Nat) : State :=
  let s := s.modDev (fun d => { d with
    restarting := true
    cause := { d.cause with lastCc := cause, ccRestarts := satTo 16 (d.cause.ccRestarts + 1) } })
  let s := (s.devEvent evCcRestart).traceReset.refuseEntries 0x5000
  let s := s.modNoc (fun n => { n with padWait := n.padWait.filter (fun w => match w.task with
    | .diag _ => false
    | .packet _ => true) })
  let loading := numsWhere Config.numPastures (fun p => s.pstate p == .loading)
  loading.foldl (fun s p => s.emptyPasture p) s

/-- FW_ACTIVATE (R459, R460): in MINIMAL one full attempt, else a restart on the staged slot, which becomes the preferred
one. -/
def State.activateFw (s : State) : State :=
  if s.dev.mode = .minimal then
    let s := s.deviceReset srcSwreq none
    s.modDev (fun d => { d with fullAttempt := true, boot := { d.boot with startKind := 2 } })
  else State.beginRestart { s with flash := { s.flash with preferB := !s.flash.activeB } } 0

def fwActivateCard : Card :=
  { opcode := 0x0004, modes := "SEM", session := false, names := false, waits := false, lengthOk := lenIs 8,
    run := fun c g s => s.checked g (reservedZero c 0 8 ++ [stateCheck (!s.flash.staged) 0x020B]) State.activateFw }

def execFwActivate (c : Cmd) (s : State) : Host.Outcome State Fault Refusal := .next (s.runCard fwActivateCard c)

/-! ### WIPE (R28, R424) -/

/-- Some pasture is not EMPTY. -/
def State.anyLive (s : State) : Bool := s.anyPas (fun t => t != .empty)

/-- Enter ERASE. -/
def State.enterErase (s : State) (k : EraseKind) : State := (s.modDev (fun d => { d with erase := k })).setMode .erase

/-- WIPE enters ERASE; it completes when the wipe is done. -/
def wipeCard : Card :=
  { opcode := 0x0005, modes := "SM", session := false, names := false, waits := false, lengthOk := lenIs 8,
    run := fun c g s => s.checked g (reservedZero c 0 8 ++ [stateCheck s.anyLive 0x020A]) (fun s =>
      s.enterErase (.wipe s.dev.mode)) }

def execWipe (c : Cmd) (s : State) : Host.Outcome State Fault Refusal := .next (s.runCard wipeCard c)

/-! ### FABRIC_RELEASE (R396) -/

/-- The pasture that holds a region under the session bound to a ring. -/
def State.regionFor (s : State) (ring region : Nat) : Option Nat :=
  match (s.region region).owner, s.ringSid ring with
  | some p, some sid => if s.pstate p ≠ .empty ∧ (s.pas p).comp.sid = sid then some p else none
  | _, _ => none

/-- The states in which a region may be released. -/
def PState.releases : PState → Bool
  | .loaded | .running | .stepping | .frozen => true
  | _ => false

def fabricReleaseCard : Card :=
  { opcode := 0x0801, modes := "SE", session := true, names := false, waits := false, lengthOk := lenIs 8,
    run := fun c g s =>
      let r := fieldAt c.params 0 1
      let holder := s.regionFor c.ring r
      let st := (holder.map s.pstate).getD .empty
      s.checked g (reservedZero c 1 7 ++ [rangeCheck (decide (16 ≤ r) || holder.isNone) 0,
        stateCheck ((s.region r).state != .held || !st.releases) 0x0201]) (fun s =>
          (s.releaseRegion r).complete g 0 []) }

/-- A release whose pasture is RECOVERING waits in its ring. -/
def State.releaseWaits (s : State) (c : Cmd) : Bool :=
  ((s.regionFor c.ring (fieldAt c.params 0 1)).map s.pstate).getD .empty == .recovering

def execFabricRelease (c : Cmd) (s : State) : Host.Outcome State Fault Refusal :=
  .next (if s.releaseWaits c then s else s.runCard fabricReleaseCard c)

/-! ### Power commands (R440, R441, R444) -/

/-- POWER_CAP sets or removes the cap; without one, no die is held down by it. -/
def powerCapCard : Card :=
  { opcode := 0x0901, modes := "SEM", session := false, names := false, waits := false, lengthOk := lenIs 8,
    run := fun c g s =>
      let w := fieldAt c.params 0 2
      s.checked g (reservedZero c 2 6 ++ [rangeCheck (w != 0 && (decide (w < 300) || decide (1000 < w))) 0]) (fun s =>
        let s := s.modPwr (fun x => { x with cap := w })
        let s := if w = 0 then
            (List.range 4).foldl (fun s d => s.modDie d (fun x => { x with powCap := maxMhz }))
              (s.modPwr (fun x => { x with capUnmet := false }))
          else s
        s.settleClocks.complete g 0 []) }

def execPowerCap (c : Cmd) (s : State) : Host.Outcome State Fault Refusal := .next (s.runCard powerCapCard c)

/-- CLOCK_FLOOR sets or removes the floor of one die. -/
def clockFloorCard : Card :=
  { opcode := 0x0902, modes := "SE", session := false, names := false, waits := false, lengthOk := lenIs 8,
    run := fun c g s =>
      let d := fieldAt c.params 0 1
      let m := fieldAt c.params 2 2
      s.checked g (reservedZero c 1 1 ++ reservedZero c 4 4 ++ [rangeCheck (decide (4 ≤ d)) 0,
        rangeCheck (m != 0 && (decide (m < 500) || decide (1250 < m))) 2]) (fun s =>
          ((s.modDie d (fun x => { x with floor := m })).settleDie d).complete g 0 []) }

def execClockFloor (c : Cmd) (s : State) : Host.Outcome State Fault Refusal := .next (s.runCard clockFloorCard c)

/-- The effect of a ladder step. -/
def State.selectLadder (s : State) (step : Nat) : State :=
  if step = 4 then s.ladderOff else if step = 0xFF then s.enterLadder 7 else s.enterLadder step

/-- LADDER_SELECT; its completion is written before the step is entered. -/
def ladderSelectCard : Card :=
  { opcode := 0x0903, modes := "SM", session := false, names := false, waits := false, lengthOk := lenIs 8,
    run := fun c g s =>
      let n := fieldAt c.params 0 1
      s.checked g (reservedZero c 1 7 ++ [rangeCheck (decide (4 < n) && n != 0xFF) 0,
        stateCheck (n == 0xFF && s.dev.mode == .minimal) 0x0202]) (fun s =>
          (s.complete g 0 []).selectLadder n) }

def execLadderSelect (c : Cmd) (s : State) : Host.Outcome State Fault Refusal := .next (s.runCard ladderSelectCard c)

/-- PAD_RELEASE clears the output latches of a bank whose domain is ON and whose VCCO is good. -/
def padReleaseCard : Card :=
  { opcode := 0x0904, modes := "SE", session := false, names := false, waits := false, lengthOk := lenIs 8,
    run := fun c g s =>
      let b := fieldAt c.params 0 1
      s.checked g (reservedZero c 1 7 ++ [rangeCheck (decide (24 ≤ b)) 0,
        stateCheck (!(s.domainOn (domBank b)) || !(s.bank b).ok) 0x0702]) (fun s =>
          (s.modBank b (fun x => { x with latched := false })).complete g 0 []) }

def execPadRelease (c : Cmd) (s : State) : Host.Outcome State Fault Refusal := .next (s.runCard padReleaseCard c)

/-! ### Core trace (R469, R470, R473) -/

def traceTarget (c : Cmd) : Nat := fieldAt c.params 0 1
def traceAction (c : Cmd) : Nat := fieldAt c.params 1 1

/-- Fields that have to be zero, by offset and size, refused with 0x0108 at the field's offset (R306, R469). -/
def zeroFields (c : Cmd) (l : List (Nat × Nat)) : List Check := l.map (fun f => rangeCheck (!(zeroAt c.params f.1 f.2)) f.1)

/-- The fields of Table 19-2 for TARGET 0 from byte 2 on. -/
def stopFields : List (Nat × Nat) :=
  [(2, 2), (4, 1), (5, 1), (6, 1), (7, 1), (8, 1), (9, 7), (16, 8), (24, 8), (32, 8), (40, 8), (48, 8), (56, 8)]

/-- Comparator `k` of the parameters. -/
def traceComp (c : Cmd) (k : Nat) : Nat := fieldAt c.params (32 + 8 * k) 8

/-- The configuration of TARGET 0. -/
def traceCfgOf (c : Cmd) : TraceCfg :=
  { cores := fieldAt c.params 2 2, data := fieldAt c.params 4 1, fill := bitOf (fieldAt c.params 5 1) 0,
    tsLog2 := fieldAt c.params 6 1, startMask := fieldAt c.params 7 1, stopMask := fieldAt c.params 8 1,
    base := fieldAt c.params 16 8, limit := fieldAt c.params 24 8, comps := (List.range 4).map (traceComp c) }

/-- ACTION 1: the trace in progress ends, the configuration applies and the trace is ARMED; with ALWAYS in the start mask it
begins at once. -/
def State.armTrace (s : State) (k : TraceCfg) : State :=
  let s := s.modTrace (fun t => { t with
    cfg := k, written := 0, full := false, wrapped := false, queue := [], wraps := 0
    encoders := tmap t.encoders Encoder.init (fun e => { e with lost := 0, block := 0, landFull := false }) })
  let s := s.traceTo .armed 0xFF
  if bitOf k.startMask 7 then s.traceBegin 7 else s

/-- The card of TARGET 0: `sel` are its checks and effect for an ACTION. -/
def traceCard (checks : Cmd → List Check) (act : Cmd → State → State) : Card :=
  { opcode := 0x0C01, modes := "SEM", session := false, names := false, waits := false, lengthOk := lenIs 64,
    run := fun c g s => s.checked g (checks c) (fun s => (act c s).complete g 0 []) }

/-- The checks of ACTION 1, with those of a packet that names no TARGET or ACTION. -/
def armChecks (c : Cmd) : List Check :=
  [rangeCheck (decide (1 < traceTarget c)) 0, rangeCheck (decide (2 < traceAction c)) 1,
    rangeCheck (decide (2 < fieldAt c.params 4 1)) 4, rangeCheck (decide (1 < fieldAt c.params 5 1)) 5,
    rangeCheck (decide (fieldAt c.params 6 1 < 10) || decide (30 < fieldAt c.params 6 1)) 6] ++ zeroFields c [(9, 7)] ++
    (List.range 4).map (fun k => rangeCheck (decide (2 ^ 54 ≤ traceComp c k)) (32 + 8 * k))

def execTraceArm (c : Cmd) (s : State) : Host.Outcome State Fault Refusal :=
  .next (
    if traceTarget c = 1 ∨ (traceTarget c = 0 ∧ (traceAction c = 0 ∨ traceAction c = 2)) then s
    else s.runCard (traceCard armChecks (fun c s => s.armTrace (traceCfgOf c))) c)

/-- ACTION 0: IDLE. Its other fields take no part; only what is zero in every form is judged (DEDUCED, log 30). -/
def execTraceDisable (c : Cmd) (s : State) : Host.Outcome State Fault Refusal :=
  .next (
    if traceTarget c = 0 ∧ traceAction c = 0 then
      s.runCard (traceCard (fun c => zeroFields c [(9, 7)]) (fun _ s => s.traceTo .idle 0xFF)) c
    else s)

/-- ACTION 2: a stop event. -/
def execTraceStop (c : Cmd) (s : State) : Host.Outcome State Fault Refusal :=
  .next (
    if traceTarget c = 0 ∧ traceAction c = 2 then
      s.runCard (traceCard (fun c => zeroFields c stopFields) (fun _ s =>
        if s.trace.state = .tracing then s.traceTo .stopping 0xFF else s)) c
    else s)

/-- The settings of TARGET 1. -/
def probeOf (c : Cmd) (old : NocProbe) : NocProbe :=
  let b := fieldAt c.params 3 1
  old.configured (fieldAt c.params 2 1) (bitsOf b 0 1) (bitsOf b 1 3) (bitOf b 4) (bitOf b 5) (fieldAt c.params 8 8)
    (fieldAt c.params 16 8)

def probeChecks (c : Cmd) : List Check :=
  let b := fieldAt c.params 3 1
  [rangeCheck (decide (8 ≤ traceAction c)) 1, rangeCheck (decide (64 ≤ b) || bitsOf b 1 3 == 7) 3] ++
    zeroFields c [(4, 1), (5, 1), (6, 1), (7, 1), (24, 8), (32, 32)]

def execProbeConfig (c : Cmd) (s : State) : Host.Outcome State Fault Refusal :=
  .next (
    if traceTarget c = 1 then
      s.runCard (traceCard probeChecks (fun c s => s.setProbe (traceAction c) (probeOf c (s.nocProbe (traceAction c))))) c
    else s)

/-- TRACE_READ copies bytes of the landing in plaintext; DETAIL carries WRITTEN at the start and at the end. -/
def traceReadCard : Card :=
  { opcode := 0x0C02, modes := "SEM", session := false, names := false, waits := false, lengthOk := lenIs 24,
    run := fun c g s =>
      let o := fieldAt c.params 16 4
      let n := fieldAt c.params 20 4
      s.checked g (reservedZero c 12 4 ++ resultChecks c n ++ [rangeCheck (o % 8 != 0 || decide (traceBytes ≤ o)) 16,
        rangeCheck (n % 8 != 0 || decide (n < 8) || decide (traceBytes < o + n)) 20]) (fun s =>
          s.completeResult g c (leBytes 4 s.trace.written ++ leBytes 4 s.trace.written) (memRead s.trace.landing o n) true) }

def execTraceRead (c : Cmd) (s : State) : Host.Outcome State Fault Refusal := .next (s.runCard traceReadCard c)

end Sys2Proof.Machine
end

