-- ==== Sys2Proof/Machine/Security.lean ====
section
/-!
DEFINITION. Identity, attestation, owner sessions and the life cycle (R411–R422).
-/

namespace Sys2Proof.Machine

open Sys2Proof

/-! ### Identity keys (R411, R412) -/

/-- A private key from a 64-byte seed. -/
def seedKey (seed : List Byte) : Nat := beNat seed % (p384N - 1) + 1

/-- The public key of a private one. -/
def ecPublic (d : Nat) : Nat × Nat := (ecMul d p384G).getD (0, 0)

/-- The DevID key pair's private key. -/
def State.devidKey (s : State) : Nat :=
  seedKey (hkdfExpand (hkdfExtract (asciiBytes "PM6 devid") s.fuses.uds) (asciiBytes "key") 64)

/-- FW_DIGEST of what runs: the slot image, or in MINIMAL the boot ROM's service (R458). -/
def State.fwDigest (s : State) : List Byte :=
  if s.dev.mode = .minimal then padTo 48 Config.romDigest else sha384 s.flash.active.bytes

/-- The alias key, a function of the secret and of the firmware's digest. -/
def State.aliasKey (s : State) : Nat :=
  seedKey (hkdfExpand (hkdfExtract s.fwDigest s.fuses.uds) (asciiBytes "PM6 alias") 64)

/-- The alias certificate, made from the firmware's digest and SVN and the two keys (PRESUMED, log 5). -/
def State.aliasCertificate (s : State) : List Byte :=
  (Config.aliasCert (s.fwDigest ++ leBytes 4 s.flash.active.svn)
    (ecBytes (ecPublic s.aliasKey) ++ ecBytes (ecPublic s.devidKey))).take 4096

/-! ### Attestation (R413) -/

/-- The entry of a pasture in the report (Table 16-2). -/
def Pasture.attested (x : Pasture) : List Byte :=
  let st := x.stat.state
  if st = .empty ∨ st = .loading then padTo 96 (leBytes 1 st.code)
  else
    leBytes 1 st.code ++ leBytes 1 x.stat.spanIndex ++ leBytes 2 x.comp.profile ++ leBytes 4 0 ++ leBytes 8 x.comp.sid
      ++ padTo 16 x.comp.jobId ++ padTo 48 x.comp.digest ++ padTo 16 []

/-- Bytes 0x000 to 0x6FF of the report. -/
def State.reportBody (s : State) (nonce : List Byte) : List Byte :=
  leBytes 2 1 ++ leBytes 1 s.fuses.lcState ++ leBytes 1 s.fuses.returns ++ leBytes 2 s.ident.part.code
    ++ leBytes 2 s.ident.stepping.code ++ leBytes 4 s.time.ns ++ leBytes 4 s.fuses.svnMin ++ padTo 16 s.ident.serial
    ++ padTo 32 nonce ++ padTo 48 s.fwDigest ++ leBytes 8 s.fwVersion ++ padTo 8 []
    ++ (if s.fuses.ownerSet then padTo 48 s.fuses.ownerHash else padTo 48 []) ++ padTo 80 []
    ++ (List.range 16).flatMap (fun p => (s.pas p).attested)

/-- The 16,384 bytes of an ATTEST result; `k` is the per-message number of its signature. -/
def State.attestation (s : State) (nonce : List Byte) (k : Nat) : List Byte :=
  let body := s.reportBody nonce
  let certs := [s.ident.prodCert.take 4096, s.fuses.devCert.take 4096, s.aliasCertificate]
  let dir := (certs.zipIdx).flatMap (fun e => leBytes 4 (0x1000 * (e.2 + 1)) ++ leBytes 4 e.1.length)
  padTo 0x800 (body ++ ecdsaSign s.aliasKey k body) ++ padTo 0x800 dir ++ certs.flatMap (padTo 4096)

/-- ATTEST returns the report and the certificates. -/
def attestCard : Card :=
  { opcode := 0x0B01, modes := "SEM", session := false, names := false, waits := false, lengthOk := lenIs 48,
    run := fun c g s => s.checked g (reservedZero c 12 4 ++ resultChecks c 16384 ++
      [stateCheck (s.lcIs [lcBlank, lcEnded]) 0x0413]) (fun s =>
        let (k, s) := s.draw 384
        s.completeResult g c [] (s.attestation (slice c.params 16 32) k) true) }

def execAttest (c : Cmd) (s : State) : Host.Outcome State Fault Refusal := .next (s.runCard attestCard c)

/-! ### Owner sessions (R414–R417) -/

/-- A SESSION_ID that is not 0 and not in use, from a draw. -/
def State.newSid (s : State) : Nat × State :=
  let (x, s) := s.draw 64
  let cand := (List.range 66).map (fun i => (x + i) % 2 ^ 64)
  ((cand.find? (fun n => n != 0 && (s.session n).isNone)).getD 1, s)

/-- Bind a ring. -/
def State.bindRing (s : State) (ring sid rebind : Nat) : State :=
  s.modRing ring (fun r => { r with bound := some { sid := sid, rebind := rebind } })

/-- The result of Table 16-4 but for CONFIRM and SIG. -/
def sessionHead (sid rebind : Nat) (eph nonceD confirm : List Byte) : List Byte :=
  leBytes 8 sid ++ beBytes 4 rebind ++ padTo 4 [] ++ padTo 96 eph ++ padTo 32 nonceD ++ padTo 48 confirm

/-- Open a session with the owner's ephemeral key: its keys, its binding and its result. -/
def State.openSession (s : State) (g : Prog) (c : Cmd) : State :=
  let eph := slice c.params 24 96
  let nonceO := slice c.params 120 32
  let (sid, s) := s.newSid
  let (x, s) := s.draw 384
  let (nonceD, s) := s.drawBytes 32
  let (k, s) := s.draw 384
  let d := x % (p384N - 1) + 1
  let z := (ecdh d (ecOfBytes eph)).getD []
  let ses : Session := { sid := sid, rebind := 0, prk := hkdfExtract (nonceO ++ nonceD) z, headers := 0, nonces := [] }
  let s := s.modHost (fun h => { h with sessions := h.sessions ++ [ses] })
  let s := s.bindRing c.ring sid 0
  let confirm := hmac384 (s.kBind sid) (asciiBytes "PM6 confirm" ++ leBytes 8 sid)
  let head := sessionHead sid 0 (ecBytes (ecPublic d)) nonceD confirm
  s.completeResult g c [] (head ++ ecdsaSign s.aliasKey k (head ++ eph ++ nonceO)) false

/-- Checks that both modes share: the reserved fields before the MODE's own, RESULT and MODE. -/
def sessionOpenChecks (s : State) (c : Cmd) (own : List Check) : List Check :=
  reservedZero c 12 4 ++ reservedZero c 17 7 ++ own ++ resultChecks c 288 ++ [rangeCheck (decide (1 < fieldAt c.params 16 1)) 16,
    stateCheck (s.lcIs [lcBlank, lcEnded]) 0x0413, stateCheck (s.ring c.ring).bound.isSome 0x040E]

/-- SESSION_OPEN, MODE 0, with a packet whose MODE is neither. -/
def sessionOpenCard : Card :=
  { opcode := 0x0B02, modes := "SEM", session := false, names := false, waits := false, lengthOk := lenIs 344,
    run := fun c g s =>
      let eph := ecOfBytes (slice c.params 24 96)
      let own := ecOfBytes (slice c.params 152 96)
      s.checked g (sessionOpenChecks s c [] ++ [stateCheck (decide (Config.maxSessions ≤ s.host.sessions.length)) 0x0408,
        stateCheck (!ecOnCurve eph || !ecOnCurve own) 0x0409,
        stateCheck (!ecdsaVerify own (slice c.params 24 224 ++ padTo 16 s.ident.serial) (slice c.params 248 96)) 0x0407])
        (fun s => s.openSession g c) }

def sessionMode (c : Cmd) : Nat := fieldAt c.params 16 1

def execSessionOpen (c : Cmd) (s : State) : Host.Outcome State Fault Refusal :=
  .next (if sessionMode c = 1 then s else s.runCard sessionOpenCard c)

/-- The PROOF that rebinds a ring to a session (R416). -/
def State.rebindProof (s : State) (ring : Nat) (x : Session) : List Byte :=
  hmac384 (s.kBind x.sid) (asciiBytes "PM6 rebind" ++ padTo 16 s.ident.serial ++ leBytes 1 ring ++ beBytes 4 (x.rebind + 1))

/-- SESSION_OPEN, MODE 1: bind the ring to an existing session. -/
def sessionRebindCard : Card :=
  { opcode := 0x0B02, modes := "SEM", session := false, names := false, waits := false, lengthOk := lenIs 344,
    run := fun c g s =>
      let sid := fieldAt c.params 24 8
      let good := match s.session sid with
        | some x => s.rebindProof c.ring x == slice c.params 32 48
        | none => false
      let n := ((s.session sid).map (fun x => x.rebind + 1)).getD 0
      s.checked g (sessionOpenChecks s c (reservedZero c 80 264) ++ [stateCheck (!good) 0x0410]) (fun s =>
        let s := s.modHost (fun h => { h with sessions := h.sessions.map (fun x =>
          if x.sid = sid then { x with rebind := x.rebind + 1 } else x) })
        let s := s.bindRing c.ring sid n
        s.completeResult g c [] (sessionHead sid n [] [] [] ++ padTo 96 []) false) }

def execSessionRebind (c : Cmd) (s : State) : Host.Outcome State Fault Refusal :=
  .next (if sessionMode c = 1 then s.runCard sessionRebindCard c else s)

/-- End a session with every binding of it. -/
def State.closeSession (s : State) (sid : Nat) : State :=
  s.modHost (fun h => { h with
    sessions := h.sessions.filter (fun x => x.sid != sid)
    rings := tmap h.rings CmdRing.init (fun r => if r.bound.map Binding.sid = some sid then { r with bound := none } else r) })

/-- A session holds a pasture that is not EMPTY. -/
def State.sessionHolds (s : State) (sid : Nat) : Bool :=
  s.pastures.any (fun p => (p.2.stat.state != .empty) && p.2.comp.sid == sid)

/-- SESSION_CLOSE ends the session of its ring. -/
def sessionCloseCard : Card :=
  { opcode := 0x0B03, modes := "SEM", session := true, names := false, waits := false, lengthOk := lenIs 8,
    run := fun c g s =>
      let sid := (s.ringSid c.ring).getD 0
      s.checked g (reservedZero c 0 8 ++ [stateCheck (s.sessionHolds sid) 0x020A]) (fun s =>
        (s.closeSession sid).complete g 0 []) }

def execSessionClose (c : Cmd) (s : State) : Host.Outcome State Fault Refusal := .next (s.runCard sessionCloseCard c)

/-! ### Life cycle (R420–R422) -/

/-- The transitions of Table 16-6 with the SIGNER of each. -/
def lcSigner : Nat → Nat → Option Nat
  | 0, 1 => some 1
  | 1, 2 => some 0
  | 2, 3 => some 0
  | 3, 2 => some 0
  | 2, 4 => some 0
  | 3, 4 => some 0
  | 0, 4 => some 1
  | 1, 4 => some 1
  | _, _ => none

/-- What the signature of a transition covers. -/
def State.lcMessage (s : State) (target : Nat) (key : List Byte) : List Byte :=
  asciiBytes "PM6 LC" ++ padTo 16 s.ident.serial ++ leBytes 1 s.fuses.lcState ++ leBytes 1 target
    ++ leBytes 1 s.fuses.lcCounter ++ key

/-- The key and the signature of a transition hold. -/
def State.lcAuthentic (s : State) (target signer : Nat) (key sig : List Byte) : Bool :=
  let m := s.lcMessage target key
  let q := if signer = 1 then s.ident.lcPub else ecOfBytes key
  let owner := signer == 1 || s.fuses.lcState == lcProvisioned || sha384 key == s.fuses.ownerHash
  let cert := !(s.fuses.lcState == lcBlank && target == lcProvisioned) ||
    (Config.certChainOk s.fuses.devCert && Config.certKey s.fuses.devCert == ecPublic s.devidKey)
  lcSigner s.fuses.lcState target == some signer && ecOnCurve q && owner && cert && ecdsaVerify q m sig

/-- LC_TRANSITION completes, then the device enters ERASE; fuses burn when its wipe is done. -/
def lcTransitionCard : Card :=
  { opcode := 0x0B04, modes := "SM", session := false, names := false, waits := false, lengthOk := lenIs 200,
    run := fun c g s =>
      let target := fieldAt c.params 0 1
      let signer := fieldAt c.params 1 1
      let key := slice c.params 8 96
      let legal := (lcSigner s.fuses.lcState target).isSome
      s.checked g (reservedZero c 2 6 ++ (if signer = 1 then reservedZero c 8 96 else []) ++
        [rangeCheck (decide (1 < signer)) 1,
         stateCheck (s.lcIs [lcEnded] || (s.lcIs [lcBlank] && !legal)) 0x0413, stateCheck s.anyLive 0x020A,
         stateCheck (!legal) 0x040C,
         stateCheck (s.fuses.lcState == lcField && target == lcReturn && decide (4 ≤ s.fuses.returns)) 0x040D,
         stateCheck (!s.lcAuthentic target signer key (slice c.params 104 96)) 0x040B]) (fun s =>
          (s.complete g 0 []).enterErase (.lifeCycle target key)) }

def execLcTransition (c : Cmd) (s : State) : Host.Outcome State Fault Refusal := .next (s.runCard lcTransitionCard c)

/-- The fuses that a transition burns (Table 16-6). -/
def Fuses.burn (f : Fuses) (target : Nat) (key : List Byte) : Fuses :=
  let f := { f with lcCounter := f.lcCounter + 1 }
  if target = lcField ∧ f.lcState = lcProvisioned then { f with lcState := target, ownerSet := true, ownerHash := sha384 key }
  else if target = lcReturn then { f with lcState := target, returns := f.returns + 1 }
  else if target = lcEnded then { f with lcState := target, uds := List.replicate 48 0xFF, devCert := [] }
  else { f with lcState := target }

end Sys2Proof.Machine
end

