-- ==== Sys2Proof/Machine/Boot.lean ====
section
/-!
DEFINITION. Starts and MINIMAL, the restart of the control complex, supply warnings and HOLD, and the end of ERASE (R21, R27–R30,
R199, R285, R426, R450–R461).
-/

namespace Sys2Proof.Machine

open Sys2Proof

/-! ### Boot stages (R455–R459) -/

/-- Every rail has been valid for 1 ms, and stage 1 begins (R452). -/
def execBootStart (s : State) : Host.Outcome State Fault Refusal :=
  .next (if s.dev.mode = .boot ∧ ¬ s.dev.booting ∧ s.dev.warned = [] then s.modDev (fun d => { d with booting := true }) else s)

/-- Move to a stage. -/
def State.toStage (s : State) (n : Nat) : State := s.modDev (fun d => { d with boot := { d.boot with stage := n } })

/-- A check that fails within a stage ends the start with SWREQ. -/
def State.startFails (s : State) (code detail : Nat) : State := s.deviceReset srcSwreq (some (code, detail))

/-- The slot to be started: the wanted one where it verifies, else the other one; `none` where neither does (R426). -/
def Flash.choose (f : Flash) (wantB : Bool) : Option Bool :=
  let good (b : Bool) : Bool := if b then f.slotB.good else f.slotA.good
  if good wantB then some wantB else if good (!wantB) then some (!wantB) else none

/-- A slot starts. After it, STAGED says whether the slot that does not run still holds the staged image. -/
def State.startSlot (s : State) (wantB b : Bool) : State :=
  let f := s.flash
  let s := { s with flash := { f with activeB := b, staged := f.staged && f.activeB == b } }
  s.modDev (fun d => { d with boot := { d.boot with slot := b, fallback := b != wantB } })

/-- Only the control complex and AON are ON (R458). -/
def minimalDomains : Tab Domain := (List.range domCc).map (fun d => (d, { Domain.init with state := .off }))

/-- The boot ROM's minimal service. The time base runs in FREE (R380). -/
def State.enterMinimal (s : State) : State :=
  let s := s.modPwr (fun w => { w with ladder := 0, domains := minimalDomains })
  let s := (s.modHost (fun h => { h with fnReady := true })).modTime (fun t => { t with running := true })
  let s := s.modDev (fun d => { d with
    booting := false, accepting := true, reduced := true, fullAttempt := false, boot := { d.boot with inMinimal := true } })
  s.setMode .minimal

/-- Settings of Table 12-7: the DAT networks of the sixteen hub ports of E0. -/
def State.bootRegulators (s : State) : State :=
  (List.range 16).foldl (fun s y => s.modRegulator (4 * (284 + y) + 3) (fun g => { g with
    rate := 0xC0, burst := 64, tokens := 256 * 64 })) s

/-- The last stage. -/
def State.enterService (s : State) : State :=
  let (ms, s) := s.draw 16
  let s := s.modDev (fun d => { d with
    booting := false, accepting := true, fullAttempt := false, boot := { d.boot with stage := 10, failCount := 0, bootMs := ms } })
  s.setMode .service

/-- What a stage that ends well leads to. -/
def State.stagePasses (s : State) : State :=
  let b := s.dev.boot
  match b.stage with
  | 1 => if b.failCount = 3 ∧ ¬ s.dev.fullAttempt then s.enterMinimal else s.toStage 2
  | 2 =>
    let wantB := if s.dev.fullAttempt then !s.flash.activeB else s.flash.preferB
    match s.flash.choose wantB with
    | some x => ((s.startSlot wantB x).modHost (fun h => { h with fnReady := true })).toStage 3
    | none => s.startFails 0x10 0
  | 6 => (s.modDev (fun d => { d with boot := { d.boot with hbmOk := 0x3F } })).toStage 7
  | 8 => s.bootRegulators.toStage 9
  | 9 => (s.modTime (fun t => { t with running := true })).enterService
  | n => s.toStage (n + 1)

/-- A boot stage ends. While a supply warning stands the start waits (R29). A result that is no result of the stage changes
nothing. -/
def execBootStageComplete (r : StageResult) (s : State) : Host.Outcome State Fault Refusal :=
  let st := s.dev.boot.stage
  .next (
    if s.dev.mode ≠ .boot ∨ ¬ s.dev.booting ∨ s.dev.warned ≠ [] then s
    else match r with
      | .ok => s.stagePasses
      | .slotVerify => if st = 2 then s.startFails 0x10 0 else s
      | .sramWipe d => if (st = 2 ∧ d = 4) ∨ (st = 4 ∧ d < 4) then s.startFails 0x30 d else s
      | .hbmTrain h => if st = 5 ∧ h < 6 then s.startFails 0x40 h else s
      | .hbmWipe h => if st = 6 ∧ h < 6 then s.startFails 0x41 h else s)

/-- A WAKE pulse: under 10 µs it is ignored; from ladder step OFF it starts the device, in every other mode it is a leaving
event of the ladder (R450). -/
def execWake (pulseNs : Nat) (s : State) : Host.Outcome State Fault Refusal :=
  .next (
    if pulseNs < 10000 then s
    else if s.dev.mode = .off then
      let s := State.modDev { s with pwr := Pwr.fresh s.ident } (fun d => { d with boot := d.boot.restart 1, booting := false })
      s.setMode .boot
    else if s.up then s.ladderEvent .wakePin else s)

/-! ### Restart of the control complex (R460, R461) -/

/-- Commands of an opcode that wait complete. -/
def State.completeOpcode (s : State) (opcode status : Nat) : State :=
  (s.host.prog.filter (fun g => g.opcode == opcode && !s.host.cplWait.any (fun j => j.prog == g))).foldl
    (fun s g => s.finish (plainJob g status [])) s

/-- A watchdog expiry or a lockup of a core: a failed start in BOOT, a device reset when it follows a confined restart within
10 s, else a confined restart. -/
def State.coreFails (s : State) (src code detail cause : Nat) (within10s : Bool) : State :=
  if s.dev.mode = .off then s
  else if s.dev.mode = .boot then
    if s.dev.booting ∧ 2 ≤ s.dev.boot.stage then s.deviceReset src (some (code, detail)) else s
  else if within10s ∧ s.dev.restartedAt then s.deviceReset src none
  else
    let s := s.modDev (fun d => { d with
      restartedAt := true
      cause := { d.cause with
        ccWdog := d.cause.ccWdog || cause == 1
        ccLockup := d.cause.ccLockup || cause == 2 } })
    s.beginRestart cause

/-- A drover core's watchdog expires. -/
def execCcWatchdog (core : Nat) (within10s : Bool) (s : State) : Host.Outcome State Fault Refusal :=
  .next (if core < Config.numCores then s.coreFails srcWdog 0x60 0 1 within10s else s)

/-- A drover core locks up. -/
def execCcLockup (core : Nat) (within10s : Bool) (s : State) : Host.Outcome State Fault Refusal :=
  .next (if core < Config.numCores then s.coreFails srcLockup 0x61 core 2 within10s else s)

/-- Firmware is up again: intake resumes, completions held are written, FW_ACTIVATE completes, and a LOAD and a memory command of DIAG that
the restart overtook complete with CONTROL_RESTART (R309). -/
def State.endRestart (s : State) : State :=
  let s := s.modDev (fun d => { d with restarting := false })
  let s := s.modNoc (fun n => { n with cached := [] })
  (((((s.devEvent evCcReady).flushCpl).completeOpcode 0x0004 0).completeOpcode 0x0201 0x0203).completeOpcode 0x0D02 0x0203).completeOpcode
    0x0D03 0x0203

/-- A restart ends: the boot ROM has verified the slot to be started; where neither verifies it does not end. -/
def execCcRestartComplete (s : State) : Host.Outcome State Fault Refusal :=
  .next (
    if ¬ s.dev.restarting then s
    else if s.dev.mode = .minimal then (if s.dev.warned = [] then s.endRestart else s)
    else match s.flash.choose s.flash.preferB with
      | some x => (s.startSlot s.flash.preferB x).endRestart
      | none => s)

/-- A restart that has not completed within 300 ms becomes a device reset. -/
def execCcRestartTimeout (s : State) : Host.Outcome State Fault Refusal :=
  .next (
    if s.dev.restarting then s.deviceReset (if s.dev.cause.lastCc = 2 then srcLockup else srcWdog) none else s)

/-- Firmware that has run for 24 hours raises SVN_MIN to its own SVN (R426). -/
def execSvnRaise (s : State) : Host.Outcome State Fault Refusal :=
  .next (
    if s.up ∧ s.dev.mode ≠ .minimal ∧ ¬ s.dev.restarting then
      { s with fuses := { s.fuses with svnMin := max s.fuses.svnMin (min 64 s.flash.active.svn) } }
    else s)

/-! ### HOLD and RECOVER (R27, R29, R199, R285) -/

/-- The modes that a supply warning takes to HOLD. -/
def Mode.holds : Mode → Bool
  | .service | .emulate | .recover => true
  | _ => false

/-- A pasture whose rollback the return of the supply brings: with rings, and not EMPTY, LOADING, DRAINING or FAULTED (R285; one that was
recovering is rolled back again, DEDUCED, log 31). -/
def State.dips (s : State) (p : Nat) : Bool :=
  s.ringsOn p && match s.pstate p with
    | .loaded | .running | .stepping | .frozen | .recovering => true
    | _ => false

/-- VDD_CORE of a die below 0.62 V for 200 ns. In BOOT, MINIMAL and ERASE the activity waits (R29). At HOLD entry the pastures that will be
rolled back are stopped and quiesced (R285). -/
def execSupplyWarning (die : Nat) (s : State) : Host.Outcome State Fault Refusal :=
  .next (
    if 4 ≤ die ∨ s.dev.mode = .off then s
    else
      let s := s.modDev (fun d => { d with warned := if d.warned.contains die then d.warned else d.warned ++ [die] })
      if s.dev.mode.holds then
        let s := ((s.setMode .hold).devEvent evSupply).refuseEntries 0x6000
        (numsWhere Config.numPastures s.dips).foldl (fun s p => s.holdStop p) s
      else s)

/-- What the return of the supply does to one pasture (R199). The rollback serves as the recovery of a fault that struck the
pasture in HOLD (R30). A load that the event met is marked once it completes. -/
def State.resumePasture (s : State) (p : Nat) : State :=
  if s.dips p then
    let s := s.modDev (fun d => { d with holdFaults := d.holdFaults.filter (fun e => e.1 != p) })
    let again := s.pstate p == .recovering
    let n := ((s.pas p).ck.recovery.map Recovery.faults).getD 0
    let s := s.modCk p (fun k => { k with attempts := if again then min 3 (k.attempts + 1) else 1 })
    ((s.noteFault p 0x0701).sendFault p 0x0701 none).beginRecovery p 0x0701 n
  else match s.pstate p with
    | .running | .stepping =>
      let s := (s.setPState p .frozen).modStat p (fun t => { t with freezeMid := true, freezeCause := 7 })
      s.markSupply p
    | .frozen | .loaded => s.markSupply p
    | .loading => s.modPas p (fun x => { x with load := x.load.map (fun l => { l with supply := true }) })
    | _ => s

/-- The states that make HOLD end in RECOVER where the pasture has rings (Table 1-8). -/
def PState.recovers : PState → Bool
  | .loaded | .running | .stepping | .frozen => true
  | _ => false

/-- VDD_CORE of every die is back above 0.66 V. -/
def execSupplyReturn (s : State) : Host.Outcome State Fault Refusal :=
  let s0 := s.modDev (fun d => { d with warned := [] })
  .next (
    if s.dev.mode ≠ .hold then s0
    else
      let rec_ := (List.range Config.numPastures).any (fun p => s.ringsOn p && (s.pstate p).recovers)
      let s := s0.setMode (if rec_ then .recover else .service)
      let s := (List.range Config.numPastures).foldl (fun s p => s.resumePasture p) s
      if rec_ then s else s.settleFaults)

/-- A mode in which a supply warning leaves the mode as it is while the activity waits (R29). A start in stage 1 waits for its rails without
bound (R452). -/
def State.supplyWaits (s : State) : Bool :=
  match s.dev.mode with
  | .boot => s.dev.booting && decide (2 ≤ s.dev.boot.stage)
  | .minimal | .erase => true
  | _ => false

/-- The supply is not back within 2 ms: of HOLD entry, or of the warning in BOOT, MINIMAL and ERASE (Table 1-8, R29). -/
def execHoldTimeout (s : State) : Host.Outcome State Fault Refusal :=
  .next (
    if s.dev.mode = .hold ∨ (s.supplyWaits ∧ s.dev.warned ≠ []) then s.deviceReset srcBod (some (0x63, railDetail .core))
    else s)

/-! ### The end of ERASE (R27, R422, R424) -/

/-- The wipe is done. Under a supply warning it is not (R29). -/
def execEraseComplete (s : State) : Host.Outcome State Fault Refusal :=
  .next (
    if s.dev.mode ≠ .erase ∨ s.dev.warned ≠ [] then s
    else
      let w := s.wipeUnits.endSessions
      let w := w.modDev (fun d => { d with erase := .none })
      match s.dev.erase with
      | .none => s
      | .wipe back => (w.completeOpcode 0x0005 0).setMode back
      | .lifeCycle target key => State.deviceReset { w with fuses := w.fuses.burn target key } srcSwreq none)

end Sys2Proof.Machine
end

