-- ==== Sys2Proof/Machine/Image.lean ====
section
/-!
DEFINITION. The Nirlen image as bytes: the header (Table 6-1), the section table (Table 6-2) and what each section holds
(Table 6-3), read into records that the load checks and the final writes share.
-/

namespace Sys2Proof.Machine

open Sys2Proof

/-! ### The header (Table 6-1) -/

def chunkBytes : Nat := 65536
def hdrProfile (h : List Byte) : Nat := fieldAt h 0x06 2
def hdrDepth (h : List Byte) : Nat := fieldAt h 0x08 2
def hdrPasture (h : List Byte) : Nat := fieldAt h 0x0A 1
def hdrFlags (h : List Byte) : Nat := fieldAt h 0x0B 1
def hdrRings (h : List Byte) : Bool := bitOf (hdrFlags h) 0
def hdrSpan (h : List Byte) : Bool := bitOf (hdrFlags h) 1
def hdrEdge (h : List Byte) : Bool := bitOf (hdrFlags h) 2
def hdrSpanDevices (h : List Byte) : Nat := fieldAt h 0x0C 1
def hdrSpanIndex (h : List Byte) : Nat := fieldAt h 0x0D 1
def hdrLength (h : List Byte) : Nat := fieldAt h 0x10 8
def hdrChunks (h : List Byte) : Nat := fieldAt h 0x18 4
def hdrNonce (h : List Byte) : List Byte := slice h 0x20 8
def hdrJobId (h : List Byte) : List Byte := slice h 0x28 16
def hdrSerial (h : List Byte) : List Byte := slice h 0x38 16
def hdrSid (h : List Byte) : Nat := fieldAt h 0x48 8
def hdrDigest (h : List Byte) : List Byte := slice h 0x50 48
def hdrStaging (h : List Byte) : Nat := fieldAt h 0x80 8

/-- `n` rounded up to a multiple of `a`. -/
def roundUp (n a : Nat) : Nat := (n + a - 1) / a * a

/-- MAGIC, FORMAT, FLAGS, the SPAN fields, PAYLOAD_LENGTH, CHUNK_COUNT and the zero fields are well formed, and PASTURE is the
packet's (R160, R314). -/
def hdrWellFormed (h : List Byte) (pasture : Nat) : Bool :=
  let n := hdrLength h
  fieldAt h 0 4 == 0x4C52494E && fieldAt h 4 2 == 1 && decide (hdrFlags h < 8) &&
    decide (1 ≤ hdrSpanDevices h) && decide (hdrSpanDevices h ≤ 64) && (hdrSpan h || hdrSpanDevices h == 1) &&
    decide (hdrSpanIndex h < hdrSpanDevices h) && decide (16 ≤ n) && n % 8 == 0 &&
    hdrChunks h == (n + chunkBytes - 1) / chunkBytes && zeroAt h 0x0E 2 && zeroAt h 0x1C 4 && zeroAt h 0x88 120 &&
    hdrPasture h == pasture

/-! ### Sections (Tables 6-2 and 6-3) -/

def tDecl : Nat := 0x01
def tInstr : Nat := 0x02
def tSide : Nat := 0x03
def tNrf : Nat := 0x04
def tStateMap : Nat := 0x05
def tProbe : Nat := 0x06
def tDmPort : Nat := 0x07
def tScratch : Nat := 0x08
def tDmRegions : Nat := 0x09
def tHbmInit : Nat := 0x0A
def tChannels : Nat := 0x0B
def tTree : Nat := 0x0C
def tImageCopy : Nat := 0x0D
def tRingPlan : Nat := 0x0E
def tAcqPlan : Nat := 0x0F
def tQueues : Nat := 0x10
def tTasks : Nat := 0x11
def tFlowPorts : Nat := 0x12
def tService : Nat := 0x13
def tEdge : Nat := 0x14

/-- An entry of the section table, with the bytes it covers and whether its zero fields are zero. -/
structure Sect where
  typ    : Nat
  target : Nat
  off    : Nat
  len    : Nat
  zeros  : Bool
  body   : List Byte
deriving DecidableEq, Repr

/-- The payload of a load with its header. -/
structure Image where
  header  : List Byte
  payload : List Byte
  count   : Nat
  sects   : List Sect
deriving DecidableEq, Repr

def sectAt (payload : List Byte) (i : Nat) : Sect :=
  let e := slice payload (16 + 32 * i) 32
  { typ := fieldAt e 0 2, target := fieldAt e 4 4, off := fieldAt e 8 8, len := fieldAt e 16 8,
    zeros := zeroAt e 2 2 && zeroAt e 24 8, body := (payload.drop (fieldAt e 8 8)).take (fieldAt e 16 8) }

/-- The end of the section table. -/
def tableEnd (count : Nat) : Nat := 16 + 32 * count

/-- Read a payload. A table that would not lie in the payload is read as empty. -/
def readImage (header payload : List Byte) : Image :=
  let n := fieldAt payload 0 4
  { header := header, payload := payload, count := n,
    sects := if tableEnd n ≤ payload.length then (List.range n).map (sectAt payload) else [] }

/-- The index of the section of a type and target; 0xFFFFFFFF where there is none. -/
def noLoc : Nat := 0xFFFFFFFF
def Image.index (m : Image) (t target : Nat) : Nat :=
  (m.sects.findIdx? (fun x => x.typ == t && x.target == target)).getD noLoc
def Image.sect (m : Image) (t target : Nat) : Option Sect := m.sects.find? (fun x => x.typ == t && x.target == target)
def Image.has (m : Image) (t target : Nat) : Bool := (m.sect t target).isSome
/-- The bytes of a section; none where it is absent. -/
def Image.body (m : Image) (t target : Nat) : List Byte := ((m.sect t target).map Sect.body).getD []
/-- The sections of a type, in ascending target order. -/
def Image.ofType (m : Image) (t : Nat) : List Sect :=
  (m.sects.filter (fun x => x.typ == t)).mergeSort (fun a b => a.target ≤ b.target)

/-! ### Bits of a byte string -/

/-- The positions of the one bits of a byte string whose first byte is number `i`. -/
def onesFrom (i : Nat) : List Byte → List Nat
  | [] => []
  | b :: bs => (if b = 0 then [] else ((List.range 8).filter (fun k => b.getLsbD k)).map (fun k => 8 * i + k)) ++ onesFrom (i + 1) bs

/-! ### The composition (Table 6-4) -/

def Image.pairs (m : Image) : List Nat := onesFrom 0 (slice (m.body tDecl 0) 0 32)
def Image.linkPorts (m : Image) : List Nat := onesFrom 0 (slice (m.body tDecl 0) 32 16)
def Image.edgePorts (m : Image) : List Nat := onesFrom 0 (slice (m.body tDecl 0) 48 2)
def Image.folds (m : Image) : List Nat := foldsOf m.pairs
def Image.regions (m : Image) : List Nat := (m.ofType tEdge).map Sect.target

/-- The tree section (R495). -/
def Image.rootLevel (m : Image) : Nat := fieldAt (m.body tTree 0) 0 1
def Image.parent (m : Image) : Option Nat :=
  let p := fieldAt (m.body tTree 0) 1 1
  if p = 0xFF then none else some p
def Image.children (m : Image) : List Nat :=
  (List.range (fieldAt (m.body tTree 0) 2 1)).map (fun i => fieldAt (m.body tTree 0) (16 + 8 * i) 1)

/-! ### A fold's sections -/

/-- A slot that the image carries: the instructions that are not all zero, by BP, and the side word. -/
structure SlotImage where
  slot  : Nat
  ins   : List (Nat × Nat)
  sideW : Nat
deriving DecidableEq, Repr

/-- What the image gives a fold. -/
structure FoldImage where
  fold   : Nat
  n      : Nat
  slots  : List SlotImage
  nrf    : Tab Bool
  smap   : Tab Bool
  probes : List Nat
  due    : Option (List Nat)
deriving DecidableEq, Repr

/-- The non-zero instructions of a slot's 2,560 bytes. -/
def slotInstrs (bs : List Byte) : List (Nat × Nat) :=
  ((((blocks 10 256 bs).map leNat).zipIdx).filter (fun e => e.1 != 0)).map (fun e => (e.2, e.1))

def Image.foldImage (m : Image) (f : Nat) : FoldImage :=
  let ib := m.body tInstr f
  let n := ib.length / 2560
  let rows := blocks 2560 1024 ib
  let sides := (blocks 16 1024 (m.body tSide f)).map leNat
  let pb := m.body tProbe f
  let db := m.body tDmPort f
  { fold := f, n := n,
    slots := ((rows.zip sides).zipIdx).map (fun e => { slot := e.2, ins := slotInstrs e.1.1, sideW := e.1.2 }),
    nrf := (onesFrom 0 (m.body tNrf f)).map (fun k => (k, true)),
    smap := (onesFrom 0 (m.body tStateMap f)).map (fun k => (512 * (k / 448) + k % 448, true)),
    probes := (blocks 4 64 pb).map leNat,
    due := if db.isEmpty then none else some ((List.range 4).map (fun i => fieldAt db (2 * i) 2)) }

def SlotImage.side (x : SlotImage) : SideWord := decodeSide x.sideW

/-- The slots whose side word carries BARRIER, and the fold's depth (R46). -/
def FoldImage.barriers (x : FoldImage) : List Nat := (x.slots.filter (fun t => t.side.barrier)).map SlotImage.slot
def FoldImage.depth (x : FoldImage) : Nat := (x.barriers.head?.map (· + 1)).getD 0
/-- The slots that the fold executes. -/
def FoldImage.schedule (x : FoldImage) : List SlotImage := x.slots.take x.depth

/-! ### Records of the other sections -/

/-- The DM_REGION words of the image (Table 5-11); zero where the section is absent. -/
def Image.dmWords (m : Image) : List Nat := (List.range 16).map (fun i => fieldAt (m.body tDmRegions 0) (8 * i) 8)

def dmRegionOf (w : Nat) : DmRegion := { valid := bitOf w 0, base := 4096 * bitsOf w 12 26, pages := bitsOf w 40 24 }

/-- The valid deep memory regions by number. -/
def Image.dmRegions (m : Image) : Tab DmRegion :=
  ((m.dmWords.zipIdx).filter (fun e => bitOf e.1 0)).map (fun e => (e.2, dmRegionOf e.1))

/-- The entries of the channel map (Table 4-2). -/
def Image.chanWords (m : Image) : List Nat :=
  let b := m.body tChannels 0
  (blocks 8 (b.length / 8) b).map leNat

/-- The records of a flow section (R232). -/
def flowRecSize (t : Nat) : Nat := if t = tQueues then 72 else if t = tTasks then 40 else 24
def Image.records (m : Image) (t : Nat) : List (List Byte) :=
  let b := m.body t 0
  blocks (flowRecSize t) (fieldAt b 0 4) (b.drop 16)

/-- A queue that the image describes: its number, its record, and bytes 0–15 of its descriptor. -/
structure QueueDesc where
  num : Nat
  row : Nat
  at_ : Nat
  bs  : List Byte
deriving DecidableEq, Repr

def QueueDesc.base (q : QueueDesc) : Nat := fieldAt q.bs 0 8
def QueueDesc.depthLog2 (q : QueueDesc) : Nat := fieldAt q.bs 8 1
def QueueDesc.units (q : QueueDesc) : Nat := fieldAt q.bs 9 1
def QueueDesc.role (q : QueueDesc) : Nat := fieldAt q.bs 10 1
def QueueDesc.notifyEn (q : QueueDesc) : Bool := bitOf (fieldAt q.bs 11 1) 0
def QueueDesc.notifyTask (q : QueueDesc) : Nat := fieldAt q.bs 12 2
def QueueDesc.inHbm (q : QueueDesc) : Bool := q.role == roleHbm || q.role == rolePortIn || q.role == rolePortOut
/-- Bytes of HBM that it occupies (R212). -/
def QueueDesc.area (q : QueueDesc) : Nat := 2 ^ q.depthLog2 * (64 * q.units)

def Image.queues (m : Image) : List QueueDesc :=
  ((m.records tQueues).zipIdx).flatMap (fun e => (List.range 4).map (fun j => {
    num := 4 * fieldAt e.1 0 2 + j, row := e.2, at_ := 8 + 16 * j, bs := slice e.1 (8 + 16 * j) 16 }))

/-- The descriptor of a queue that is not UNUSED. -/
def Image.queueDesc (m : Image) (q : Nat) : Option QueueDesc := m.queues.find? (fun d => d.num == q && d.role != 0)

def Image.taskNums (m : Image) : List Nat := (m.records tTasks).map (fun r => fieldAt r 0 2)

/-- A task entry of the image: bytes 0–31 of the record's entry (Table 8-5). -/
def taskOf (bs : List Byte) (owner : Nat) : Task :=
  { Task.init with
    owner := some owner, op := fieldAt bs 0 1, cyclic := bitOf (fieldAt bs 1 1) 0, initCount := fieldAt bs 2 2,
    rearm := fieldAt bs 4 2, batch := fieldAt bs 6 2, src := fieldAt bs 8 2, dst := fieldAt bs 10 2, vector := fieldAt bs 12 2,
    succs := (List.range (fieldAt bs 14 1)).map (fun i => fieldAt bs (16 + 2 * i) 2), counter := fieldAt bs 2 2 }

def portOf (r : List Byte) : FlowPort :=
  { port := fieldAt r 0 1, region := fieldAt r 1 1, queue := fieldAt r 2 2, slots := fieldAt r 4 2, admitMax := fieldAt r 6 2,
    window := fieldAt r 8 8, appended := 0 }

def Image.ports (m : Image) : List FlowPort := (m.records tFlowPorts).map portOf

/-- The role and entry units of a port's queue. -/
def Image.portRole (m : Image) (f : FlowPort) : Nat := ((m.queueDesc f.queue).map QueueDesc.role).getD 0
def Image.portUnits (m : Image) (f : FlowPort) : Nat := ((m.queueDesc f.queue).map QueueDesc.units).getD 0

/-- A record of SERVICE_REGIONS: 24 bytes, the master in byte 0 (0 DIAG, 1 RING, 2 ACQ, 3 SE), then at offset 8 the word of
Table 5-5 and at offset 16 that of Table 5-6 (DESIGN CHOICE, log 33). -/
def serviceRecBytes : Nat := 24

structure ServiceRec where
  master : Nat
  region : MRegion
  valid  : Bool
deriving DecidableEq, Repr

def serviceRec (r : List Byte) (pasture : Nat) : ServiceRec :=
  let w := fieldAt r 8 8
  { master := fieldAt r 0 1, valid := bitOf w 0,
    region := { valid := bitOf w 0, rd := bitOf w 1, wr := bitOf w 2, setclr := bitOf w 3, pasture := pasture, base := 4096 * bitsOf w 12 36,
                pages := bitsOf (fieldAt r 16 8) 0 36 } }

def Image.services (m : Image) (pasture : Nat) : List ServiceRec :=
  let b := m.body tService 0
  (blocks serviceRecBytes (b.length / serviceRecBytes) b).map (fun r => serviceRec r pasture)

/-! ### The ring plan and the acquisition plan (Tables 10-2 and 9-1) -/

def Image.ringPlan (m : Image) : Option RingPlan :=
  if m.has tRingPlan 0 then
    let b := m.body tRingPlan 0
    let g : RingPlan := {
      storePa := fieldAt b 0 8, undoPa := fieldAt b 8 8, undoSize := fieldAt b 0x10 8, logPa := fieldAt b 0x18 8,
      logSize := fieldAt b 0x20 8, interval := fieldAt b 0x28 4 }
    some g
  else none

/-- The engine of an image's plan. -/
def Image.acq (m : Image) : Acq := { Acq.init with plan := m.body tAcqPlan 0, hasPlan := m.has tAcqPlan 0 }

/-- RS of the image (R250). -/
def Image.recordSize (m : Image) : Nat :=
  let pf := (m.folds.filter (fun f => m.has tProbe f)).length
  roundUp (32 + (if m.acq.measOn then 64 else 0) + 8 * pf) 64

/-! ### Allocations (Table 6-5) -/

/-- The image's allocations in the order of the table, each with the section that names it. -/
def Image.allocs (m : Image) : List (Alloc × Nat) :=
  let copies := m.body tImageCopy 0
  let ring := match m.ringPlan with
    | some g => [({ kind := 4, base := g.storePa, size := 32768 * m.folds.length : Alloc }, m.index tRingPlan 0),
        ({ kind := 5, base := g.undoPa, size := g.undoSize }, m.index tRingPlan 0),
        ({ kind := 6, base := g.logPa, size := g.logSize }, m.index tRingPlan 0)]
    | none => []
  let a := m.acq
  let ai := m.index tAcqPlan 0
  let land := if a.hasPlan then
      [({ kind := 7, base := a.landingPa, size := fieldAt a.plan 8 4 * m.recordSize : Alloc }, ai)] ++
      (if a.snapMode = 0 then [] else
        [({ kind := 8, base := a.snapPa, size := a.snapSize * (if a.snapMode = 2 then 2 else 1) : Alloc }, ai)])
    else []
  [({ kind := 0, base := hdrStaging m.header, size := roundUp (hdrLength m.header) 4096 : Alloc }, noLoc)] ++
  (List.range m.folds.length).map (fun i =>
    ({ kind := 1, base := fieldAt copies (8 * i) 8, size := 0x300000 : Alloc }, m.index tImageCopy 0)) ++
  m.dmRegions.map (fun e => ({ kind := 2, base := e.2.base, size := 4096 * e.2.pages : Alloc }, m.index tDmRegions 0)) ++
  ring ++ land ++
  (m.queues.filter QueueDesc.inHbm).map (fun q => ({ kind := 9, base := q.base, size := q.area : Alloc }, m.index tQueues 0))

end Sys2Proof.Machine
end

