-- ==== Sys2Proof/Machine/LoadCheck.lean ====
section
/-!
DEFINITION. The load-time checks of Table 6-7 in their order, each answering the refusal detail of Table 6-8.
-/

namespace Sys2Proof.Machine

open Sys2Proof

/-- A load refusal (Table 6-8). -/
structure LoadFail where
  status : Nat
  stage  : Nat
  sect   : Nat
  loc0   : Nat
  loc1   : Nat
  loc2   : Nat
  loc3   : Nat
deriving DecidableEq, Repr

def LoadFail.bytes (x : LoadFail) : List Byte :=
  leBytes 2 x.status ++ leBytes 1 x.stage ++ leBytes 1 0 ++ leBytes 4 x.sect ++ leBytes 4 x.loc0 ++ leBytes 4 x.loc1
    ++ leBytes 4 x.loc2 ++ leBytes 4 x.loc3

/-- A refusal whose LOC fields have no meaning. -/
def failAt (status stage sect : Nat) : LoadFail :=
  { status := status, stage := stage, sect := sect, loc0 := 0, loc1 := 0, loc2 := 0, loc3 := 0 }

/-- The refusal where a check fails. -/
def failIf (bad : Bool) (x : LoadFail) : Option LoadFail := if bad then some x else none

/-- The first refusal of a list of checks. -/
def firstFailure (l : List (Option LoadFail)) : Option LoadFail := l.findSome? id

/-! ### Places in HBM (R166) -/

def meets (a n b k : Nat) : Bool := decide (a < b + k) && decide (b < a + n)

/-- Whether a range meets a device-reserved block (R169). -/
def meetsReserved (a n : Nat) : Bool := (List.range 6).any (fun h => meets a n (h * Config.stackBytes) Config.reservedBytes)

/-- Another pasture with an allocation that a range meets. -/
def State.meetsOther (s : State) (p a n : Nat) : Option Nat :=
  s.livePastures.find? (fun q => q != p && (s.pas q).comp.allocs.any (fun x => meets a n x.base x.size))

/-- R166 against bounds, reserved blocks and other pastures: LOC1 of the refusal. -/
def State.placeLoc (s : State) (p a n : Nat) : Option Nat :=
  if a % 4096 ≠ 0 ∨ Config.hbmEnd < a + n then some noLoc
  else if meetsReserved a n then some 0xFF
  else s.meetsOther p a n

def overlapFail (stage kind sect loc1 : Nat) : LoadFail :=
  { failAt 0x050D stage sect with loc0 := kind, loc1 := loc1 }

/-! ### Stage 1 -/

/-- The profiles that a stepping supports (R179). -/
def profileOk (st : Stepping) (profile : Nat) : Bool := profile == 0x0600 || (profile == 0x0601 && st == .b0)

/-- Whether a session can take a header with this nonce (R161, R417). -/
def State.nonceOk (s : State) (sid : Nat) (nonce : List Byte) : Bool :=
  match s.session sid with
  | some x => decide (x.headers < 65536) && !(x.nonces.contains nonce)
  | none => false

/-- The checks on the header. -/
def State.stage1 (s : State) (ring p : Nat) (h : List Byte) : Option LoadFail :=
  let f (status : Nat) : LoadFail := failAt status 1 noLoc
  firstFailure [
    failIf (hdrSid h == 0 || s.ringSid ring != some (hdrSid h)) (f 0x0401),
    failIf (hdrSerial h != padTo 16 s.ident.serial) (f 0x0404),
    failIf (!(hdrWellFormed h p)) (f 0x0501),
    failIf (decide (16 ≤ hdrPasture h)) (f 0x0302),
    failIf (s.pstate p != .empty) (f 0x0201),
    failIf (!(profileOk s.ident.stepping (hdrProfile h))) (f 0x0504),
    failIf (decide (hdrDepth h < 16) || decide (1024 < hdrDepth h)) (f 0x050B),
    failIf (!(s.nonceOk (hdrSid h) (hdrNonce h))) (f 0x0402),
    (s.placeLoc p (hdrStaging h) (roundUp (hdrLength h) 4096)).map (fun l => overlapFail 1 0 noLoc l)]

/-! ### Stage 4 (R163, R164, R496) -/

def sectFail (i : Nat) : LoadFail := failAt 0x0502 4 i

/-- The table's own rules for entry `i`. -/
def Image.entryBad (m : Image) (i : Nat) (x : Sect) : Bool :=
  !x.zeros || decide (x.typ = 0) || decide (0x14 < x.typ) || x.off % 8 != 0 || decide (x.off < tableEnd m.count) ||
    decide (m.payload.length < x.off + x.len) ||
    (m.sects.take i).any (fun y => (y.typ == x.typ && y.target == x.target) ||
      (x.len != 0 && y.len != 0 && meets x.off x.len y.off y.len))

/-- Whether the bytes outside the table and the sections, from position `pos` on, are zero: `l` are the sections by offset. -/
def strayZero (bytes : List Byte) (pos : Nat) : List Sect → Bool
  | [] => bytes.all (fun b => b == 0)
  | x :: r =>
    let e := max pos (x.off + x.len)
    (bytes.take (x.off - pos)).all (fun b => b == 0) && strayZero (bytes.drop (e - pos)) e r

def Image.strayOk (m : Image) : Bool :=
  strayZero (m.payload.drop (tableEnd m.count)) (tableEnd m.count) (m.sects.mergeSort (fun a b => a.off ≤ b.off))

/-- Types whose TARGET is 0. -/
def zeroTarget (t : Nat) : Bool :=
  [tDecl, tDmRegions, tChannels, tTree, tImageCopy, tRingPlan, tAcqPlan, tQueues, tTasks, tFlowPorts, tService].contains t

/-- Table 6-14. -/
def Image.lengthOk (m : Image) (x : Sect) : Bool :=
  let n := x.len
  if x.typ = tDecl then n == 128
  else if x.typ = tInstr then decide (0 < n) && n % 2560 == 0
  else if x.typ = tSide then decide (0 < n) && n % 16 == 0 && n / 16 == (m.body tInstr x.target).length / 2560
  else if x.typ = tNrf then n == 16384
  else if x.typ = tStateMap then n == 14336
  else if x.typ = tProbe then n == 256
  else if x.typ = tDmPort then n == 8
  else if x.typ = tScratch then decide (2 ≤ n) && decide (n ≤ 65536) && n % 2 == 0
  else if x.typ = tDmRegions then n == 128
  else if x.typ = tHbmInit then decide (8 < n)
  else if x.typ = tChannels then decide (8 ≤ n) && n % 8 == 0
  else if x.typ = tTree then n == 16 + 8 * fieldAt x.body 2 1
  else if x.typ = tImageCopy then n == 8 * m.folds.length
  else if x.typ = tRingPlan then n == 64
  else if x.typ = tAcqPlan then n == 2208
  else if x.typ = tQueues ∨ x.typ = tTasks ∨ x.typ = tFlowPorts then n == 16 + fieldAt x.body 0 4 * flowRecSize x.typ
  else if x.typ = tService then n % serviceRecBytes == 0
  else n == 1573248 + edgeFlashLen x.body

/-- The side words that a fold executes: as far as its BARRIER. -/
def upToBarrier : List Nat → List Nat
  | [] => []
  | w :: r => if bitOf w 127 then [w] else w :: upToBarrier r

/-- A fold issues a deep memory operation and declares no port (Table 6-3). -/
def Image.portMissing (m : Image) (f : Nat) : Bool :=
  !(m.has tDmPort f) && (upToBarrier ((blocks 16 1024 (m.body tSide f)).map leNat)).any (fun w => bitsOf w 18 2 != 0)

/-- Stage 4. A TARGET other than 0 where Table 6-3 gives 0, and an EDGE_CONFIG TARGET that is no edge region, are refused here as a breach of
the section set: the spec names no status for them (DESIGN CHOICE, log 21). -/
def Image.stage4 (m : Image) : Option LoadFail :=
  let indexed := m.sects.zipIdx
  let required := [tDecl, tTree, tImageCopy].any (fun t => !(m.has t 0)) ||
    m.folds.any (fun f => [tInstr, tSide, tNrf, tStateMap].any (fun t => !(m.has t f)))
  firstFailure [
    failIf (decide (m.payload.length < tableEnd m.count) || !(zeroAt m.payload 4 12)) (sectFail noLoc),
    (indexed.find? (fun e => m.entryBad e.2 e.1)).map (fun e => sectFail e.2),
    failIf (!m.strayOk) (sectFail noLoc),
    (indexed.find? (fun e => (zeroTarget e.1.typ && e.1.target != 0) ||
      (e.1.typ == tEdge && decide (16 ≤ e.1.target)))).map (fun e => sectFail e.2),
    failIf required (sectFail noLoc),
    failIf (m.has tRingPlan 0 != hdrRings m.header) (sectFail (m.index tRingPlan 0)),
    failIf ((m.sects.any (fun x => x.typ == tEdge)) != hdrEdge m.header)
      (sectFail ((m.sects.findIdx? (fun x => x.typ == tEdge)).getD noLoc)),
    (indexed.find? (fun e => !(m.lengthOk e.1))).map (fun e => sectFail e.2),
    failIf (m.folds.any m.portMissing) (sectFail noLoc)]

/-! ### Stage 5 (R165, R181) -/

/-- The pasture, other than `p`, whose composition has a property. -/
def State.holder (s : State) (p : Nat) (f : PComp → Bool) : Option Nat :=
  s.livePastures.find? (fun q => q != p && f (s.pas q).comp)

/-- The refusal for resource `n` of a kind that another pasture holds. -/
def heldFail (stage sect kind n : Nat) (q : Option Nat) : Option LoadFail :=
  q.map (fun q => { failAt 0x0307 stage sect with loc0 := kind, loc1 := n, loc2 := q })

/-- Whether an endpoint lies in the composition; a reserved kind is left to stage 8. -/
def Image.endInside (m : Image) (kind id : Nat) : Bool :=
  match kind with
  | 0 => m.folds.contains (id / 8)
  | 1 => m.edgePorts.contains (id / 4)
  | 2 => m.linkPorts.contains (id / 16)
  | _ => true

/-- Types whose TARGET is a fold. -/
def foldTarget (t : Nat) : Bool := [tInstr, tSide, tNrf, tStateMap, tProbe, tDmPort].contains t

/-- Stage 5. SECTION names no section where the check is of the composition as a whole (0x0508, 0x0307 and 0x0503 of R181), though
PASTURE_DECL carries it: the spec does not say whether a section applies (DESIGN CHOICE, log 21). The zero bytes of PASTURE_DECL are checked
here, with the status of Table 6-10, since no row of Table 6-7 names them (DESIGN CHOICE, log 21). -/
def State.stage5 (s : State) (p : Nat) (m : Image) : Option LoadFail :=
  let outside (x : Sect) : Bool :=
    (foldTarget x.typ && !(m.folds.contains x.target)) || (x.typ == tScratch && !(m.pairs.contains (x.target / 8)))
  let ports := m.parent.toList ++ m.children
  let bondSplit := m.linkPorts.any (fun t => (s.linkPorts t).contains t && (s.linkPorts t).any (fun q => !(m.linkPorts.contains q)))
  firstFailure [
    failIf m.pairs.isEmpty (failAt 0x0503 5 noLoc),
    failIf (!(zeroAt (m.body tDecl 0) 50 2) || !(zeroAt (m.body tDecl 0) 56 72)) (failAt 0x0503 5 (m.index tDecl 0)),
    failIf (m.pairs.any (fun q => !(s.pairEnabled q))) (failAt 0x0508 5 noLoc),
    m.pairs.findSome? (fun q => heldFail 5 noLoc 0 q (s.holder p (fun c => c.pairs.contains q))),
    m.edgePorts.findSome? (fun e => heldFail 5 noLoc 1 e (s.holder p (fun c => c.edgePorts.contains e))),
    m.linkPorts.findSome? (fun t => heldFail 5 noLoc 2 t (s.holder p (fun c => c.linkPorts.contains t))),
    (m.sects.findIdx? outside).map (fun i => failAt 0x050C 5 i),
    failIf (m.chanWords.any (fun w => !(m.endInside (bitsOf w 61 3) (bitsOf w 48 13)) ||
      !(m.endInside (bitsOf w 45 3) (bitsOf w 32 13)))) (failAt 0x050C 5 (m.index tChannels 0)),
    failIf (ports.any (fun t => !(m.linkPorts.contains t))) (failAt 0x050C 5 (m.index tTree 0)),
    failIf bondSplit (failAt 0x0503 5 noLoc)]

/-! ### Stage 6 (R141, R233) -/

/-- A refusal that names a record and a field (R233). -/
def recordFail (status stage sect row field : Nat) : LoadFail :=
  { failAt status stage sect with loc0 := sect, loc1 := row, loc2 := field }

/-- Flows and tasks of other pastures, and region registers in use of a master. -/
def State.flowHeld (s : State) (p f : Nat) : Bool := match tget s.flow.owners none f with
  | some q => q != p
  | none => false
def State.taskHeld (s : State) (p t : Nat) : Bool := match (s.task t).owner with
  | some q => q != p
  | none => false
def State.regionsUsed (s : State) (master : Nat) : Nat :=
  (s.mregions.filter (fun e => e.1 / 16 == master)).length

def State.stage6 (s : State) (p : Nat) (m : Image) : Option LoadFail :=
  let q := m.index tQueues 0
  let t := m.index tTasks 0
  let o := m.index tFlowPorts 0
  let flows := (m.records tQueues).map (fun r => fieldAt r 0 2)
  let ports := (m.records tFlowPorts).map (fun r => fieldAt r 0 1)
  let free := Config.numTasks - (s.flow.tasks.filter (fun e => e.2.owner.isSome)).length
  let svc := (m.services p).filter ServiceRec.valid
  firstFailure [
    (flows.findIdx? (fun f => decide (Config.numFlows ≤ f) || s.flowHeld p f)).map (fun i => recordFail 0x0301 6 q i 0),
    (m.taskNums.findIdx? (fun n => s.taskHeld p n)).map (fun i => recordFail 0x0303 6 t i 0),
    failIf (decide (free < m.taskNums.length)) (recordFail 0x0303 6 t free 0),
    (ports.findIdx? (fun n => decide (64 ≤ n))).map (fun i => recordFail 0x0306 6 o i 0),
    failIf (decide (64 < ports.length)) (recordFail 0x0306 6 o 64 0),
    failIf ((List.range 4).any (fun k => decide (16 < s.regionsUsed k + (svc.filter (fun r => r.master == k)).length)))
      (failAt 0x0305 6 (m.index tService 0))]

/-! ### Stage 7 (R93) -/

/-- A refusal at a place of a fold's schedule. -/
def placeFail (status stage sect fold bp slot value : Nat) : LoadFail :=
  { status := status, stage := stage, sect := sect, loc0 := fold, loc1 := bp, loc2 := slot, loc3 := value }

def Image.stage7 (m : Image) (fis : List FoldImage) : Option LoadFail :=
  fis.findSome? (fun x =>
    let i := m.index tInstr x.fold
    let d := m.index tSide x.fold
    x.slots.findSome? (fun t =>
      (t.ins.findSome? (fun e =>
        let op := (decodeBp e.2).op
        if op = 4 ∨ op = 7 ∨ op = 9 then some (placeFail 0x0506 7 i x.fold e.1 t.slot op)
        else if 0x0A ≤ op then some (placeFail 0x0505 7 i x.fold e.1 t.slot op)
        else none)).or
      ([t.side.spa, t.side.spb].findSome? (fun f =>
        if 6 ≤ f.sop then some (placeFail 0x0505 7 d x.fold noLoc t.slot f.sop) else none))))

/-! ### Stage 8: the schedule -/

/-- The field use of Table 3-4, and R38. -/
def instrBad (smap : Tab Bool) (bp w : Nat) : Bool :=
  let i := decodeBp w
  match i.op with
  | 0 => w != 0
  | 2 => !(tget smap false (nrfKey bp i.dst))
  | 3 => i.tt / 256 != 0
  | 6 => i.tt != 0 || i.b != 0 || i.c != 0 || i.d != 0
  | 8 => i.tt != 0 || i.a != 0 || i.b != 0 || i.c != 0 || i.d != 0 || i.dst != 0
  | _ => false

/-- R83. -/
def SpField.bad (f : SpField) : Bool :=
  let n := 2 ^ f.wid
  f.res != 0 || (match f.sop with
    | 0 => f.spx != 0 || f.wid != 0 || f.ag != 0 || f.dg != 0 || f.rg != 0
    | 1 => f.dg != 0 || decide (15 < f.rg + n - 1)
    | 5 => f.wid != 0 || f.dg != 0
    | _ => f.rg != 0 || decide (15 < f.dg + n - 1))

/-- R86. -/
def ChField.bad (f : ChField) : Bool := f.res != 0 || (!f.v && (f.ep != 0 || f.g != 0))

/-- R88. -/
def DmField.bad (f : DmField) : Bool :=
  if f.dop = 0 then f.due != 0 || f.region != 0 || f.ag != 0 || f.dg != 0 || f.mg != 0
  else (f.dop != 1 && f.due != 0) || (f.dop != 3 && f.mg != 0) || decide (14 < f.ag) || decide (12 < f.dg)

/-- R87: one endpoint in both fields, or an endpoint that the map leaves unconnected. -/
def chPairBad (a b : ChField) (fold : Nat) (mapped : List Nat) : Bool :=
  (a.v && b.v && a.ep == b.ep) || [a, b].any (fun f => f.v && !(mapped.contains (8 * fold + f.ep)))

/-- An RD or WIDE whose result would come after the BARRIER slot (R84). -/
def spLate (w : SideWord) (slot depth latency : Nat) : Bool :=
  decide (slot < depth) && decide (depth ≤ slot + latency) && [w.spa, w.spb].any (fun f => f.sop == 1 || f.sop == 5)

/-- The field rules of a fold, in slot order. A DUE value out of range has no BP and no slot: LOC1 and LOC2 read 0xFFFF_FFFF, as for a side
word, since Table 6-8 does not speak of it (DESIGN CHOICE, log 21) (R38, R47, R76, R83, R84, R86, R87, R88, R91, Table 6-3). -/
def Image.fieldFail (m : Image) (latency : Nat) (outs ins : List Nat) (x : FoldImage) : Option LoadFail :=
  let i := m.index tInstr x.fold
  let d := m.index tSide x.fold
  let ring := (x.slots.find? (fun t => t.side.ring)).map SlotImage.slot
  let afterRing (t : Nat) : Bool := (ring.map (fun r => decide (r < t))).getD false
  firstFailure [
    failIf ((x.due.getD []).any (fun n => decide (n < 256) || decide (16383 < n)))
      (placeFail 0x0503 8 (m.index tDmPort x.fold) x.fold noLoc noLoc 0),
    x.slots.findSome? (fun t =>
      let w := t.side
      (t.ins.findSome? (fun e => failIf (instrBad x.smap e.1 e.2 || ((decodeBp e.2).op == 2 && afterRing t.slot))
        (placeFail 0x0503 8 i x.fold e.1 t.slot (decodeBp e.2).op))).or
      (failIf (w.spa.bad || w.spb.bad || w.snd0.bad || w.snd1.bad || w.rcv0.bad || w.rcv1.bad || w.dmf.bad ||
        spLate w t.slot x.depth latency || chPairBad w.snd0 w.snd1 x.fold outs || chPairBad w.rcv0 w.rcv1 x.fold ins)
        (placeFail 0x0503 8 d x.fold noLoc t.slot (if w.spa.bad then w.spa.sop else if w.spb.bad then w.spb.sop else 0)))),
    failIf (x.probes.any (fun n => n / 2 ^ 17 != 0)) (placeFail 0x0503 8 (m.index tProbe x.fold) x.fold 0 0 0)]

/-- The words due in the slots of a fold, as slot and group (R43). -/
def FoldImage.dues (x : FoldImage) (latency : Nat) : List (Nat × Nat) :=
  x.schedule.flatMap (fun t =>
    let w := t.side
    ([w.rcv0, w.rcv1].filterMap (fun f => if f.v then some (t.slot, f.g) else none)) ++
    ([w.spa, w.spb].flatMap (fun f =>
      if f.sop = 1 then (List.range (2 ^ f.wid)).map (fun k => (t.slot + latency, f.rg + k))
      else if f.sop = 5 then (List.range 16).map (fun k => (t.slot + latency, k))
      else [])) ++
    (if w.dmf.dop = 1 then
      (List.range 4).map (fun k => ((t.slot + (x.due.getD []).getD w.dmf.due 0) % x.depth, w.dmf.dg + k))
    else []))

/-- The lowest group on which two words are due in a slot. -/
def twiceDue (dues : List (Nat × Nat)) (slot : Nat) : Option Nat :=
  let gs := (dues.filter (fun e => e.1 == slot)).map Prod.snd
  (List.range 16).find? (fun g => decide (2 ≤ gs.count g))

/-- R43 and R51. -/
def Image.conflictFail (m : Image) (latency : Nat) (x : FoldImage) : Option LoadFail :=
  let dues := x.dues latency
  x.slots.findSome? (fun t =>
    (t.ins.findSome? (fun e =>
      let b := decodeBp e.2
      failIf ((b.op == 1 || b.op == 2 || b.op == 3 || b.op == 6) && b.dst == 448 + b.xdst)
        (placeFail 0x0509 8 (m.index tInstr x.fold) x.fold e.1 t.slot 0))).or
    ((twiceDue dues t.slot).map (fun g => placeFail 0x0509 8 (m.index tSide x.fold) x.fold noLoc t.slot g)))

/-- R100: whether entry `i` of the map breaks a rule. -/
def chanEntryBad (ws : List Nat) (i w : Nat) : Bool :=
  let sk := bitsOf w 61 3
  let dk := bitsOf w 45 3
  bitsOf w 0 16 != 0 || decide (1024 < bitsOf w 16 16) || decide (2 < sk) || decide (2 < dk) || (sk != 0 && dk != 0) ||
    (ws.take i).any (fun v => bitsOf v 48 16 == bitsOf w 48 16 || bitsOf v 32 16 == bitsOf w 32 16)

/-- Sends, or receives, of an endpoint over a fold's schedule (R102). -/
def FoldImage.opsOn (x : FoldImage) (ep : Nat) (receive : Bool) : Nat :=
  (x.schedule.map (fun t =>
    ((if receive then [t.side.rcv0, t.side.rcv1] else [t.side.snd0, t.side.snd1]).filter (fun f => f.v && f.ep == ep)).length)).sum

/-- R102. -/
def Image.countFail (m : Image) (fis : List FoldImage) : Option LoadFail :=
  ((m.chanWords).zipIdx).findSome? (fun e =>
    let w := e.1
    let n := bitsOf w 16 16
    let ops (kind id : Nat) (receive : Bool) : Option Nat :=
      if kind = 0 then (fis.find? (fun x => x.fold == id / 8)).map (fun x => x.opsOn (id % 8) receive) else none
    let a := ops (bitsOf w 61 3) (bitsOf w 48 13) false
    let b := ops (bitsOf w 45 3) (bitsOf w 32 13) true
    failIf ((a.getD n != n) || (b.getD n != n))
      { status := 0x050A, stage := 8, sect := m.index tChannels 0, loc0 := e.2, loc1 := a.getD noLoc, loc2 := b.getD noLoc,
        loc3 := n })

/-- Deep memory reads outstanding after slot `t` in the steady state (R146). -/
def FoldImage.occupancy (x : FoldImage) (t : Nat) : Nat :=
  (x.schedule.map (fun y =>
    if y.side.dmf.dop = 1 then
      let d := (x.due.getD []).getD y.side.dmf.due 0
      (y.slot + d - t + x.depth - 1) / x.depth - (if y.slot ≤ t then 0 else 1)
    else 0)).sum

def Image.dmQueueFail (m : Image) (x : FoldImage) : Option LoadFail :=
  (List.range x.depth).findSome? (fun t =>
    failIf (decide (64 < x.occupancy t)) (placeFail 0x0304 8 (m.index tSide x.fold) x.fold noLoc t (x.occupancy t)))

/-- R154, stage 8. -/
def dmWordBad (w : Nat) : Bool :=
  if bitOf w 0 then
    bitsOf w 1 11 != 0 || bitsOf w 38 2 != 0 || decide (bitsOf w 40 24 = 0) || decide (8388608 < bitsOf w 40 24)
  else w != 0

def Image.stage8 (m : Image) (fis : List FoldImage) : Option LoadFail :=
  let latency := spLatency (hdrProfile m.header)
  let ws := m.chanWords
  let ends (kindAt idAt : Nat) : List Nat := (ws.filter (fun w => bitsOf w kindAt 3 == 0)).map (fun w => bitsOf w idAt 13)
  firstFailure [
    fis.findSome? (fun x => failIf (decide (1024 < x.n)) (placeFail 0x050B 8 (m.index tInstr x.fold) x.fold 0 0 0)),
    fis.findSome? (fun x => failIf (x.barriers.length != 1)
      (placeFail 0x0503 8 (m.index tSide x.fold) x.fold noLoc (x.barriers.getD 1 noLoc) 0)),
    failIf (hdrDepth m.header != (fis.map FoldImage.depth).foldl max 0) (failAt 0x0503 8 noLoc),
    fis.findSome? (m.fieldFail latency (ends 61 48) (ends 45 32)),
    failIf (m.dmWords.any dmWordBad) (failAt 0x0503 8 (m.index tDmRegions 0)),
    fis.findSome? (m.conflictFail latency),
    failIf ((ws.zipIdx).any (fun e => chanEntryBad ws e.2 e.1)) (failAt 0x0503 8 (m.index tChannels 0)),
    m.countFail fis,
    fis.findSome? m.dmQueueFail]

/-! ### Stage 9 (R154, R166, R393) -/

/-- The staging area may overlap landings, undo logs and ingress logs of its own pasture (Table 6-5). -/
def shareOk (a b : Nat) : Bool := (a == 0 && (b == 5 || b == 6 || b == 7)) || (b == 0 && (a == 5 || a == 6 || a == 7))

/-- Every allocation against its bounds, other pastures and the allocations before it. -/
def State.allocFail (s : State) (p : Nat) (l : List (Alloc × Nat)) : Option LoadFail :=
  (l.zipIdx).findSome? (fun e =>
    let a := e.1.1
    match s.placeLoc p a.base a.size with
    | some loc => some (overlapFail 9 a.kind e.1.2 loc)
    | none =>
      failIf ((l.take e.2).any (fun b => meets a.base a.size b.1.base b.1.size && !(shareOk a.kind b.1.kind)))
        (overlapFail 9 a.kind e.1.2 p))

/-- R154: HBM_INIT data lies in a valid region. -/
def Image.hbmInitFail (m : Image) : Option LoadFail :=
  (m.ofType tHbmInit).findSome? (fun x =>
    let r := tget m.dmRegions DmRegion.init x.target
    failIf (!r.valid || decide (4096 * r.pages < fieldAt x.body 0 8 + (x.len - 8)))
      (overlapFail 9 3 (m.index tHbmInit x.target) noLoc))

/-- How far the allocations, in rising order, cover from `pos`. -/
def coverEnd (l : List Alloc) (pos : Nat) : Nat :=
  (l.mergeSort (fun a b => a.base ≤ b.base)).foldl (fun q a => if a.base ≤ q then max q (a.base + a.size) else q) pos

/-- Whether a service region lies within the pasture's allocations or the scratchpads of its pairs. -/
def Image.serviceInside (m : Image) (r : MRegion) : Bool :=
  let n := 4096 * r.pages
  n == 0 || (match padPlace r.base with
    | some x =>
      let o := r.base % 2 ^ 32
      decide (o + n ≤ 0x8000000) &&
        (List.range ((o + n - 1) / 0x80000 + 1 - x.pair)).all (fun i => m.pairs.contains (x.pair + i))
    | none => decide (r.base + n ≤ coverEnd (m.allocs.map Prod.fst) r.base))

/-- Whether a reserved field of a SERVICE_REGIONS record is not zero (R12, Tables 5-5, 5-6). -/
def serviceReserved (r : List Byte) : Bool :=
  !(zeroAt r 1 7) || bitsOf (fieldAt r 8 8) 8 4 != 0 || bitsOf (fieldAt r 8 8) 48 16 != 0 || bitsOf (fieldAt r 16 8) 36 28 != 0

/-- Service regions, with LOC1 as for an allocation. A reserved field is refused with the status of Table 6-10; in which stage is not stated
(DESIGN CHOICE, log 33). -/
def State.serviceFail (s : State) (p : Nat) (m : Image) : Option LoadFail :=
  let b := m.body tService 0
  (failIf ((blocks serviceRecBytes (b.length / serviceRecBytes) b).any serviceReserved) (failAt 0x0503 9 (m.index tService 0))).orElse fun _ =>
  ((m.services p).filter ServiceRec.valid).findSome? (fun r =>
    let n := 4096 * r.region.pages
    let loc := if (padPlace r.region.base).isSome then noLoc else (s.placeLoc p r.region.base n).getD noLoc
    failIf (decide (4 ≤ r.master) || !(m.serviceInside r.region)) (overlapFail 9 10 (m.index tService 0) loc))

/-- Probe pins that a section claims (Table 15-3). -/
def sectPins (x : Sect) : List Nat :=
  (numsWhere 8 (fun j => bitOf (edgeProbePins x.body) j)).map (fun j => 8 * (x.target / 8) + j)

/-- The claims of R393. -/
def State.edgeHeldFail (s : State) (p : Nat) (m : Image) : Option LoadFail :=
  let secs := m.ofType tEdge
  let other (r : Option Nat) : Option Nat := match r with
    | some x => (s.region x).owner.filter (fun q => q != p)
    | none => none
  let i (x : Sect) : Nat := m.index tEdge x.target
  firstFailure [
    secs.findSome? (fun x => heldFail 9 (i x) 3 x.target (other (some x.target))),
    secs.findSome? (fun x => (sectPins x).findSome? (fun n => heldFail 9 (i x) 4 n (other (tget s.edge.probePins none n)))),
    secs.findSome? (fun x => if edgeFlash x.body then heldFail 9 (i x) 5 0 (other s.edge.flashOwner) else none)]

def State.stage9 (s : State) (p : Nat) (m : Image) : Option LoadFail :=
  firstFailure [s.allocFail p m.allocs, m.hbmInitFail, s.serviceFail p m, s.edgeHeldFail p m]

/-! ### Stage 10: tree (R112, R495) -/

/-- The lowest node that covers a composition: 1 row, 2 die, 3 package. -/
def coverLevel (pairs : List Nat) : Nat :=
  let row (q : Nat) : Nat := 100 * dieOfPair q + pairRouter q / 16
  if (pairs.map row).dedup.length ≤ 1 then 1 else if (pairs.map dieOfPair).dedup.length ≤ 1 then 2 else 3

def Image.treeBad (m : Image) : Bool :=
  let b := m.body tTree 0
  let ports := m.parent.toList ++ m.children
  m.rootLevel != coverLevel m.pairs || decide (15 < m.children.length) || (!(hdrSpan m.header) && !ports.isEmpty) ||
    ports.any (fun t => !(m.linkPorts.contains t)) || ports.dedup.length != ports.length || !(zeroAt b 3 13) ||
    (List.range m.children.length).any (fun i => !(zeroAt b (16 + 8 * i + 1) 7))

/-! ### Stage 10: ring plan (R265, R267) -/

def ringFail (m : Image) (loc0 loc2 loc3 : Nat) : LoadFail :=
  { failAt 0x0511 10 (m.index tRingPlan 0) with loc0 := loc0, loc2 := loc2, loc3 := loc3 }

/-- Scratchpad words written per ecycle, by scratchpad (8·pair + k). -/
def spWrites (fis : List FoldImage) : List (Nat × Nat) :=
  fis.flatMap (fun x => x.schedule.flatMap (fun t => [t.side.spa, t.side.spb].filterMap (fun f =>
    if f.sop = 2 ∨ f.sop = 3 ∨ f.sop = 4 then some (8 * pairOf x.fold + f.spx, 2 ^ f.wid) else none)))

/-- M_sp of a scratchpad and M_dm. -/
def mSp (ws : List (Nat × Nat)) (k : Nat) : Nat := ((ws.filter (fun e => e.1 == k)).map Prod.snd).sum
def Image.mDm (m : Image) (fis : List FoldImage) : Nat :=
  (fis.map (fun x => (x.schedule.filter (fun t => decide (2 ≤ t.side.dmf.dop))).length)).sum +
    (m.ports.map (fun f => if m.portRole f = rolePortIn then f.admitMax * 8 * m.portUnits f + 1 else 1)).sum

/-- B_e of R267. -/
def Image.blockMax (m : Image) : Nat :=
  let words := ((m.chanWords.filter (fun w => bitsOf w 61 3 == 1)).map (fun w => bitsOf w 16 16 + 50)).sum
  let admits := ((m.ports.filter (fun f => m.portRole f == rolePortIn)).map (fun f => f.admitMax * (8 + 64 * m.portUnits f))).sum
  roundUp (24 + 4 * words + admits) 8

def Image.ringPlanFail (m : Image) (fis : List FoldImage) : Option LoadFail :=
  match m.ringPlan with
  | none => none
  | some g =>
    let n := g.interval
    let ws := spWrites fis
    let pads := m.pairs.flatMap (fun q => (List.range 8).map (fun k => 8 * q + k))
    let md := m.mDm fis
    let undo := 32 * ((pads.map (fun k => min (11999 + mSp ws k) (n * mSp ws k))).sum + min (95999 + md) (n * md)) + 4096
    let log := (n + min n 512 + 1) * m.blockMax + 4096
    firstFailure [
      failIf ([g.storePa, g.undoPa, g.undoSize, g.logPa, g.logSize].any (fun a => a % 4096 != 0) || decide (n = 0) ||
        decide (1048576 < n) || !(zeroAt (m.body tRingPlan 0) 0x2C 20)) (ringFail m 0 0 0),
      (pads.find? (fun k => decide (8000 < mSp ws k))).map (fun k => ringFail m k noLoc (mSp ws k)),
      failIf (decide (64000 < md)) (ringFail m noLoc noLoc md),
      failIf (decide (g.undoSize < undo)) (ringFail m 0 0x10 0),
      failIf (decide (g.logSize < log)) (ringFail m 0 0x20 0)]

/-! ### Stage 10: acquisition plan (R243–R245, R254, R257) -/

/-- The lowest offset among faults. -/
def firstOffset (l : List (Bool × Nat)) : Option Nat := (l.find? (fun e => e.1)).map Prod.snd

/-- SRC of a measurement type (Table 9-6). -/
def measSrcOk (t src : Nat) : Bool :=
  if t = 7 then true else if t = 8 ∨ t = 9 then decide (src < 8) else if t = 0xA then decide (src < 4) else src == 0

/-- The part of the plan that ACQ_PROGRAM replaces, bytes 0x040 to 0x89F: the offset of the first field that breaks a rule.
`listed` are the folds of the pasture that have a probe list. -/
def acqBodyFault (plan : List Byte) (listed : List Nat) : Option Nat :=
  let at_ (o n : Nat) : Nat := fieldAt plan o n
  let comps := (List.range 32).flatMap (fun k =>
    let o := 0x40 + 24 * k
    [(at_ (o + 2) 1 != 0 && !(listed.contains (at_ o 2)), o), (decide (2 < at_ (o + 2) 1), o + 2), (!(zeroAt plan (o + 3) 5), o + 3)])
  let edges := (List.range 8).flatMap (fun k =>
    let o := 0x340 + 4 * k
    [(at_ (o + 3) 1 != 0 && !(listed.contains (at_ o 2)), o), (decide (63 < at_ (o + 2) 1), o + 2), (decide (3 < at_ (o + 3) 1), o + 3)])
  let tallies := (List.range 4).map (fun k => (!(zeroAt plan (0x360 + 8 * k + 6) 2), 0x360 + 8 * k + 6))
  let meas := (List.range 16).map (fun k =>
    let w := at_ (0x380 + 2 * k) 2
    (decide (0xC ≤ bitsOf w 0 4) || bitsOf w 9 7 != 0 || !(measSrcOk (bitsOf w 0 4) (bitsOf w 4 5)), 0x380 + 2 * k))
  let states := (List.range 16).flatMap (fun st =>
    let h := 0x3A0 + 80 * st
    [(decide (1 < at_ h 1), h), (!(zeroAt plan (h + 1) 15), h + 1)] ++
    (List.range 4).flatMap (fun i =>
      let o := h + 16 + 16 * i
      let act := at_ (o + 13) 2
      let off := !(bitOf act 15)
      [(bitsOf (at_ o 6) 46 2 != 0 || (off && at_ o 6 != 0), o), (bitsOf (at_ (o + 6) 6) 46 2 != 0 || (off && at_ (o + 6) 6 != 0), o + 6),
        (decide (15 < at_ (o + 12) 1) || (off && at_ (o + 12) 1 != 0), o + 12),
        (bitsOf act 9 6 != 0 || (bitsOf act 1 4 &&& bitsOf act 5 4) != 0 || (off && act != 0), o + 13),
        (at_ (o + 15) 1 != 0, o + 15)]))
  firstOffset (comps ++ edges ++ tallies ++ meas ++ states)

/-- The head of the plan (Table 9-1). -/
def acqHeadFault (plan : List Byte) (rings : Bool) : Option Nat :=
  let a : Acq := { Acq.init with plan := plan }
  let records := fieldAt plan 8 4
  let seg := a.segLen
  let l := if seg = 0 then records else seg
  let flags := fieldAt plan 0x14 4
  firstOffset [
    (fieldAt plan 0 8 % 4096 != 0, 0), (decide (records < 2) || decide (65536 < records), 8),
    (seg != 0 && (decide (seg < 2) || records % seg != 0), 0x0C), (decide (l ≤ fieldAt plan 0x10 4), 0x10),
    (flags / 64 != 0 || a.snapMode == 3 || (a.snapMode != 0 && !rings), 0x14), (a.snapMode == 0 && a.snapPa != 0, 0x18),
    (a.snapSize % 4096 != 0, 0x20), (!(zeroAt plan 0x2A 22), 0x2A)]

def Image.acqPlanFail (m : Image) : Option LoadFail :=
  if m.has tAcqPlan 0 then
    let plan := m.body tAcqPlan 0
    let listed := m.folds.filter (fun f => m.has tProbe f)
    ((acqHeadFault plan (hdrRings m.header)).or (acqBodyFault plan listed)).map (fun o =>
      { failAt 0x0510 10 (m.index tAcqPlan 0) with loc2 := o })
  else none

/-! ### Stage 10: queues, tasks and flow ports (R211–R233) -/

/-- The roles that an operation's source and sink may have (Table 8-6). -/
def srcRoleOk (op role : Nat) : Bool :=
  if op = opMoveIn then role == roleHostIn else role == roleHbm || role == rolePortOut
def dstRoleOk (op role : Nat) : Bool :=
  if op = opMoveOut then role == roleHostOut else role == roleHbm || role == rolePortIn

/-- The fields of a queue's descriptor; of an UNUSED one, the reserved ones. -/
def Image.queueFaults (m : Image) (q : QueueDesc) : List (Bool × Nat) :=
  let bound := (m.ports.filter (fun f => f.queue == q.num)).length
  if q.role = 0 then [(decide (1 < fieldAt q.bs 11 1), q.at_ + 11), (!(zeroAt q.bs 14 2), q.at_ + 14)]
  else [
    (q.base % 4096 != 0, q.at_), (decide (20 < q.depthLog2), q.at_ + 8), (decide (q.units = 0) || decide (64 < q.units), q.at_ + 9),
    (decide (5 < q.role) || ((q.role == rolePortIn || q.role == rolePortOut) && bound != 1), q.at_ + 10),
    (decide (1 < fieldAt q.bs 11 1), q.at_ + 11), (q.notifyEn && !(m.taskNums.contains q.notifyTask), q.at_ + 12),
    (!(zeroAt q.bs 14 2), q.at_ + 14)]

/-- The fields of a task record, whose place among the records is `i`. -/
def Image.taskFaults (m : Image) (i : Nat) (r : List Byte) : List (Bool × Nat) :=
  let x := taskOf (r.drop 8) 0
  let src := m.queueDesc x.src
  let dst := m.queueDesc x.dst
  let earlier := (m.records tTasks).take i
  let units (q : Option QueueDesc) : Nat := (q.map QueueDesc.units).getD 0
  [((earlier.any (fun y => fieldAt y 0 2 == fieldAt r 0 2)), 0), (!(zeroAt r 2 6), 2),
    (decide (x.op = 0) || decide (5 < x.op), 8), (decide (1 < fieldAt r 9 1), 9), (x.cyclic == (x.rearm == 0), 12),
    ((if x.moves then decide (x.batch = 0) || decide (1024 < x.batch) else x.batch != 0), 14),
    ((if x.moves then !((src.map (fun q => srcRoleOk x.op q.role)).getD false) ||
        earlier.any (fun y => let z := taskOf (y.drop 8) 0; z.moves && z.src == x.src)
      else x.src != 0), 16),
    ((if x.moves then !((dst.map (fun q => dstRoleOk x.op q.role)).getD false) || units src != units dst
      else x.dst != 0), 18),
    ((if x.op = opNotify then decide (x.vector < 128) || decide (2047 < x.vector) else x.vector != 0), 20),
    (decide (8 < fieldAt r 22 1), 22), (fieldAt r 23 1 != 0, 23)] ++
  (List.range 8).map (fun k =>
    let u := fieldAt r (24 + 2 * k) 2
    ((if k < fieldAt r 22 1 then !(m.taskNums.contains u) else u != 0), 24 + 2 * k))

/-- The fields of a flow port record. -/
def Image.portFaults (m : Image) (i : Nat) (r : List Byte) : List (Bool × Nat) :=
  let f := portOf r
  let role := m.portRole f
  let rg := tget m.dmRegions DmRegion.init f.region
  [((((m.records tFlowPorts).take i).any (fun y => fieldAt y 0 1 == f.port)), 0), (decide (15 < f.region) || !rg.valid, 1),
    (role != rolePortIn && role != rolePortOut, 2), (decide (f.slots = 0) || decide (1024 < f.slots), 4),
    ((if role = rolePortIn then decide (f.admitMax = 0) || decide (f.slots < f.admitMax) else f.admitMax != 0), 6),
    (f.window % 4096 != 0 || decide (4096 * rg.pages < f.window + 64 + f.slots * (64 * m.portUnits f)), 8), (!(zeroAt r 16 8), 16)]

/-- The head of a flow section (R232). -/
def flowHeadFault (t : Nat) (b : List Byte) : Option Nat :=
  firstOffset [(t != tQueues && !(zeroAt b 4 4), 4), (!(zeroAt b 8 8), 8)]

def Image.queuePlanFail (m : Image) : Option LoadFail :=
  let head (t : Nat) : Option LoadFail :=
    if m.has t 0 then (flowHeadFault t (m.body t 0)).map (fun o => recordFail 0x050F 10 (m.index t 0) noLoc o) else none
  let recs (t : Nat) (faults : Nat → List Byte → List (Bool × Nat)) : Option LoadFail :=
    ((m.records t).zipIdx).findSome? (fun e => (firstOffset (faults e.2 e.1)).map (fun o => recordFail 0x050F 10 (m.index t 0) e.2 o))
  let flowFaults (i : Nat) (r : List Byte) : List (Bool × Nat) :=
    [((((m.records tQueues).take i).any (fun y => fieldAt y 0 2 == fieldAt r 0 2)), 0), (!(zeroAt r 2 6), 2)] ++
      (m.queues.filter (fun q => q.row == i)).flatMap m.queueFaults
  firstFailure [head tQueues, recs tQueues flowFaults, head tTasks, recs tTasks m.taskFaults, head tFlowPorts,
    recs tFlowPorts m.portFaults]

def Image.stage10 (m : Image) (fis : List FoldImage) : Option LoadFail :=
  firstFailure [failIf m.treeBad (failAt 0x0503 10 (m.index tTree 0)), m.ringPlanFail fis, m.acqPlanFail, m.queuePlanFail]

/-! ### Stage 11 (R393, R394, R401) -/

def edgeFail (status sect region col row off : Nat) : LoadFail :=
  { status := status, stage := 11, sect := sect, loc0 := region, loc1 := col, loc2 := row, loc3 := off }

/-- The declarations that stand for a region's shared bank beside its own. -/
def State.otherDecls (s : State) (m : Image) (r : Nat) : List Nat :=
  let held := ((s.bank (sharedBank r)).declBy.filter (fun e => e.1 != r)).map Prod.snd
  let own := if r % 2 = 1 ∧ m.has tEdge (r - 1) then [edgeVccoS (m.body tEdge (r - 1))] else []
  held ++ own

/-- One section (R394). -/
def State.edgeSectFail (s : State) (m : Image) (x : Sect) : Option LoadFail :=
  let r := x.target
  let i := m.index tEdge r
  let tiles := sectionTiles x.body
  let v := edgeVccoS x.body
  match edgeFault x.body r tiles with
  | some (some (c, w), o) => some (edgeFail 0x0512 i r c w o)
  | some (none, o) => some (edgeFail 0x0512 i r noLoc noLoc o)
  | none =>
    if v ≠ 7 ∧ (s.otherDecls m r).any (fun d => d != 7 && d != v) then some (edgeFail 0x0513 i r noLoc noLoc 3)
    else (multiDriver tiles).map (fun w => edgeFail 0x0507 i r w.1 w.2.1 w.2.2)

def State.stage11 (s : State) (m : Image) : Option LoadFail :=
  let secs := m.ofType tEdge
  let indexed := secs.zipIdx
  firstFailure [
    (m.edgePorts.find? (fun e => !(m.has tEdge e))).map (fun e => edgeFail 0x0512 noLoc e noLoc noLoc noLoc),
    (indexed.find? (fun e => (sectPins e.1).any (fun n => (secs.take e.2).any (fun y => (sectPins y).contains n)))).map
      (fun e => edgeFail 0x0512 (m.index tEdge e.1.target) e.1.target noLoc noLoc 9),
    (indexed.find? (fun e => edgeFlash e.1.body && (secs.take e.2).any (fun y => edgeFlash y.body))).map
      (fun e => edgeFail 0x0512 (m.index tEdge e.1.target) e.1.target noLoc noLoc 18),
    secs.findSome? (fun x => s.edgeSectFail m x)]

/-- Stages 4 to 11. Each stage is judged only where the stages before it pass. -/
def State.laterStages (s : State) (p : Nat) (m : Image) : Option LoadFail :=
  match m.stage4 with
  | some x => some x
  | none => match s.stage5 p m with
    | some x => some x
    | none => match s.stage6 p m with
      | some x => some x
      | none =>
        let fis := m.folds.map m.foldImage
        match m.stage7 fis with
        | some x => some x
        | none => match m.stage8 fis with
          | some x => some x
          | none => match s.stage9 p m with
            | some x => some x
            | none => match m.stage10 fis with
              | some x => some x
              | none => s.stage11 m

end Sys2Proof.Machine
end

