-- ==== Sys2Proof/Machine/AcqCards.lean ====
section
/-!
DEFINITION. The acquisition commands (R248, R260, R261, R419, Table 9-9).
-/

namespace Sys2Proof.Machine

open Sys2Proof

/-- The pasture states in which acquisition commands are permitted. -/
def PState.acqs : PState → Bool
  | .loaded | .running | .stepping | .frozen | .faulted => true
  | _ => false

/-- The state checks of an acquisition command: the pasture's state, then the engine's. -/
def State.acqChecks (s : State) (p : Nat) (l : List AcqState) : List Check :=
  [stateCheck (!(s.pstate p).acqs) 0x0201, stateCheck (!(l.contains (s.acqOf p).state)) 0x0206]

def acqCard (opcode : Nat) (l : List AcqState) (act : Cmd → Prog → State → State) : Card :=
  { opcode := opcode, modes := "SE", session := true, names := true, waits := true, lengthOk := lenIs 0,
    run := fun c g s => s.checked g (s.acqChecks c.pasture l) (act c g) }

/-- ACQ_ARM: DETAIL returns TS at arming. -/
def execAcqArm (c : Cmd) (s : State) : Host.Outcome State Fault Refusal :=
  .next (s.runCard (acqCard 0x0501 [.idle, .done] (fun c g s => (s.acqArm c.pasture).complete g 0 (leBytes 4 s.ts))) c)

/-- ACQ_DISARM: it completes when the next capture has taken the engine to DONE. -/
def execAcqDisarm (c : Cmd) (s : State) : Host.Outcome State Fault Refusal :=
  .next (s.runCard (acqCard 0x0502 [.armed, .post] (fun c _ s => s.modAcq c.pasture (fun a => { a with disarm := true }))) c)

/-- ACQ_FORCE: it completes when the next capture has fired. -/
def execAcqForce (c : Cmd) (s : State) : Host.Outcome State Fault Refusal :=
  .next (s.runCard (acqCard 0x0503 [.armed] (fun c _ s => s.modAcq c.pasture (fun a => { a with force := true }))) c)

/-! ### ACQ_READ -/

/-- Area 2: the tallies, then the sequencer's state (DESIGN CHOICE, log 37). -/
def Acq.stateArea (a : Acq) : List Byte := a.tallies.flatMap (leBytes 8) ++ leBytes 8 a.seqState

/-- The landing slot of a record (R251). -/
def Acq.slotOf (a : Acq) (w : Nat) : Nat := a.segment * a.segRecords + w % a.segRecords

def areaOf (c : Cmd) : Nat := fieldAt c.params 16 1
def firstOf (c : Cmd) : Nat := fieldAt c.params 24 8
def countOf (c : Cmd) : Nat := fieldAt c.params 32 4

/-- Whether the range lies in the area: the valid records of the segment, the bytes of the kept snapshot, or those of area 2. -/
def State.areaHolds (s : State) (c : Cmd) : Bool :=
  let a := s.acqOf c.pasture
  let n := s.snap c.pasture
  match areaOf c with
  | 0 => decide (a.written - min a.written a.segRecords ≤ firstOf c) && decide (firstOf c + countOf c ≤ a.written)
  | 1 => n.has && decide (firstOf c + countOf c ≤ n.keptLen)
  | 2 => decide (firstOf c + countOf c ≤ a.stateArea.length)
  | _ => false

/-- The bytes of the range in the clear. -/
def State.areaBytes (s : State) (c : Cmd) : List Byte :=
  let p := c.pasture
  let a := s.acqOf p
  match areaOf c with
  | 0 => (List.range (countOf c)).flatMap (fun i =>
      memRead s.hbm (a.landingPa + s.recordSize p * a.slotOf (firstOf c + i)) (s.recordSize p))
  | 1 => memRead s.hbm (a.snapBuf (s.snap p).bufB + firstOf c) (countOf c)
  | _ => slice a.stateArea (firstOf c) (countOf c)

/-- Bytes that the range spans. -/
def State.areaLen (s : State) (c : Cmd) : Nat := if areaOf c = 0 then s.recordSize c.pasture * countOf c else countOf c

/-- The offset of the range in its area (R419). -/
def State.areaOffset (s : State) (c : Cmd) : Nat :=
  if areaOf c = 0 then s.recordSize c.pasture * (s.acqOf c.pasture).slotOf (firstOf c) else firstOf c

/-- Take the next READ_NO. -/
def State.takeReadNo (s : State) (p : Nat) : State := s.modPFlow p (fun w => { w with readNo := w.readNo + 1 })

/-- The readback and its DETAIL: WRITTEN twice, then READ_NO. -/
def State.acqReadBack (s : State) (c : Cmd) (g : Prog) : State :=
  let p := c.pasture
  let w := (s.acqOf p).written
  let n := (s.pas p).flow.readNo
  (s.takeReadNo p).completeResult g c (leBytes 4 w ++ leBytes 4 w ++ leBytes 4 n)
    (readCrypt (s.kRead p) p (areaOf c) n (s.areaOffset c) (s.areaBytes c)) false

/-- ACQ_READ. With no plan there is no area, and the state checks decide alone (DESIGN CHOICE, log 37). -/
def acqReadCard : Card :=
  { opcode := 0x0504, modes := "SE", session := true, names := true, waits := true, lengthOk := lenIs 40,
    run := fun c g s =>
      let p := c.pasture
      let has := (s.acqOf p).state != .none
      s.checked g (reservedZero c 12 4 ++ reservedZero c 17 7 ++ reservedZero c 36 4
          ++ [rangeCheck (fieldAt c.params 0 8 % 64 != 0) 0, rangeCheck (has && decide (fieldAt c.params 8 4 < s.areaLen c)) 8,
              (has && decide (2 < areaOf c), 0x0105, 16), (has && !s.areaHolds c, 0x0105, 24)]
          ++ s.acqChecks p [.idle, .armed, .post, .done]
          ++ [stateCheck (decide (2 ^ 32 ≤ (s.pas p).flow.readNo)) 0x0412]) (fun s => s.acqReadBack c g) }

def execAcqRead (c : Cmd) (s : State) : Host.Outcome State Fault Refusal := .next (s.runCard acqReadCard c)

/-! ### ACQ_PROGRAM -/

/-- The plan with bytes 0x040–0x89F replaced. -/
def Acq.program (a : Acq) (body : List Byte) : Acq := { a with plan := padTo 0x40 a.plan ++ body }

/-- ACQ_PROGRAM, checked as R243 checks the plan. -/
def acqProgramCard : Card :=
  { opcode := 0x0505, modes := "SE", session := true, names := true, waits := true, lengthOk := lenIs 2144,
    run := fun c g s =>
      let p := c.pasture
      let a := s.acqOf p
      let bad := acqBodyFault (a.program c.params).plan (s.probeFolds p)
      s.checked g ([(a.state != .none && bad.isSome, 0x0510, 0)] ++ s.acqChecks p [.idle, .done]) (fun s =>
        (s.modAcq p (fun a => a.program c.params)).complete g 0 []) }

def execAcqProgram (c : Cmd) (s : State) : Host.Outcome State Fault Refusal := .next (s.runCard acqProgramCard c)

end Sys2Proof.Machine
end

