-- ==== Sys2Proof/Machine/CoreTrace.lean ====
section
/-!
DEFINITION. The events of core trace (R466–R472).
-/

namespace Sys2Proof.Machine

open Sys2Proof

/-- An event in START_MASK moves an ARMED trace to TRACING (R470). -/
def execTraceStartEvent (bit : Nat) (s : State) : Host.Outcome State Fault Refusal :=
  .next (if s.trace.state = .armed ∧ bit < 8 ∧ bitOf s.trace.cfg.startMask bit then s.traceBegin bit else s)

/-- An event in STOP_MASK moves the trace to STOPPING (R470); a full landing does so by itself (TraceOps). -/
def execTraceStopEvent (bit : Nat) (s : State) : Host.Outcome State Fault Refusal :=
  .next (if s.trace.state = .tracing ∧ bit < 8 ∧ bitOf s.trace.cfg.stopMask bit then s.traceTo .stopping bit else s)

/-- The FIFOs empty into the landing and the trace becomes STOPPED; the source byte of that EVENT packet is not stated
and is a free value (DESIGN CHOICE, log 6). -/
def execTraceStoppingComplete (s : State) : Host.Outcome State Fault Refusal :=
  .next (if s.trace.state = .stopping then
    let s := s.modTrace (fun t => t.drainAll s.time.ns)
    let (src, s) := s.draw 8
    let s := s.traceTo .stopped src
    s.modTrace (fun t => t.drainAll s.time.ns)
  else s)

/-- 2^TS_LOG2 ns after its last TIME a tracing core emits TIME (R468). -/
def execTraceTimeTimer (core : Nat) (s : State) : Host.Outcome State Fault Refusal :=
  .next (if s.trace.state = .tracing ∧ core ∈ s.tracedCores ∧ ¬ (s.encoder core).gap then
    s.modTrace (fun t => t.emit core (t.encoder core).ref none (pktTime core s.time.ns t.wraps false))
  else s)

/-- Room has freed after drops: OVERFLOW with the packets lost, then IFULL and TIME (R472). -/
def execTraceOverflow (core : Nat) (s : State) : Host.Outcome State Fault Refusal :=
  let e := s.encoder core
  .next (if e.lost ≠ 0 ∧ s.trace.fifoUsed core + 21 ≤ traceFifo then
    s.modTrace (fun t =>
      let t := t.modEncoder core (fun e => { e with lost := 0 })
      let t := t.emit core e.ref none (pktOverflow core e.lost)
      t.emitFull s.time.ns core (e.nextAddr.getD e.ref))
  else s)

/-- Whether comparator `i` matches an execution or an access by a core (Table 19-2). -/
def TraceCfg.hits (c : TraceCfg) (i : Nat) (data : Bool) (core addr : Nat) : Bool :=
  let w := c.comps.getD i 0
  bitOf w 48 == data && (bitOf w 53 || bitsOf w 49 4 == core) && bitsOf w 0 48 == addr % 2 ^ 48

/-- Judge the four comparators. -/
def State.traceCompare (s : State) (data : Bool) (core addr : Nat) : State :=
  (List.range 4).foldl (fun s i => if s.trace.cfg.hits i data core addr then s.traceEvent i else s) s

/-- The data packets of one access (R467). -/
def State.traceAccess (s : State) (core addr size : Nat) (store : Bool) (value : Nat) : State :=
  let c := s.trace.cfg
  if c.data = 0 ∨ ¬ ((c.base = 0 ∧ c.limit = 0) ∨ (c.base ≤ addr ∧ addr < c.limit)) then s
  else
    let e := s.encoder core
    let d : Int := (addr : Int) - (e.dataAddr : Int)
    let fl := dflags store size
    let bytes := if e.dfull || decide (d < -2147483648) || decide (2147483647 < d) then pktDfull core fl addr
      else pktDaddr core fl d
    let values := c.data == 2 && s.fuses.lcState == 3
    s.modTrace (fun t =>
      let t := t.emit core e.ref (some addr) bytes
      let t := if values then t.emit core e.ref none (pktDvalue core (value % 2 ^ (8 * 2 ^ (size % 4)))) else t
      t.modEncoder core (fun e => { e with dataAddr := addr, dfull := false }))

/-- One instruction retires: the next address and ICOUNT advance, and an instruction packet follows a branch or a full
ICOUNT (R466). -/
def State.traceRetire (s : State) (core next : Nat) (branch traced : Bool) : State :=
  let s := s.modEncoder core (fun e => { e with
    nextAddr := some next, icount := if traced then e.icount + 1 else 0,
    ref := if traced then e.ref else next })
  if traced && (branch || (s.encoder core).icount == 255) then
    s.modTrace (fun t => t.emitInstr s.time.ns core next)
  else s

/-- A drover core retires an instruction or wakes from a wait (R466, R467, R471). A core in a gap retires nothing until it
wakes. -/
def droverStep (core pc : Nat) (k : DcKind) (s : State) : State :=
  match k with
  | .wake target => if (s.encoder core).gap then s.traceWake core target else s
  | _ =>
    if (s.encoder core).gap then s
    else
      let traced := s.trace.state == .tracing && decide (core ∈ s.tracedCores)
      let s := if traced && (s.encoder core).full then s.modTrace (fun t => t.emitFull s.time.ns core pc) else s
      let s := match k with
        | .access addr size store value =>
          let s := if traced then s.traceAccess core addr size store value else s
          (s.traceRetire core (pc + 4) false traced).traceCompare true core addr
        | .branch target => s.traceRetire core target true traced
        | .wait => (s.traceRetire core (pc + 4) false traced).traceGap core 0
        | _ => s.traceRetire core (pc + 4) false traced
      s.traceCompare false core pc

def execDroverCoreInstruction (core pc : Nat) (k : DcKind) (s : State) : Host.Outcome State Fault Refusal :=
  .next (if core < Config.numCores then droverStep core pc k s else s)

end Sys2Proof.Machine
end

