-- ==== Sys2Proof/Machine/DiagCards.lean ====
section
/-!
DEFINITION. The diagnostic commands: DIAG_REG_READ (R315), DIAG_MEM_READ and DIAG_MEM_WRITE (R136, R140, R272, R419).
-/

namespace Sys2Proof.Machine

open Sys2Proof

/-- What a register answer refuses with. -/
def RegAnswer.checks (a : RegAnswer) : List Check :=
  [rangeCheck (a == .badReg) 0, rangeCheck (a == .badIndex) 4, stateCheck (a == .closing) 0x0702]

def RegAnswer.word : RegAnswer → Nat
  | .value v => v
  | _ => 0

def diagRegReadCard : Card :=
  { opcode := 0x0D01, modes := "SEMH", session := false, names := false, waits := false, lengthOk := lenIs 8,
    run := fun c g s =>
      let a := s.diagReg (fieldAt c.params 0 2) (fieldAt c.params 4 4)
      s.checked g (reservedZero c 2 2 ++ a.checks) (fun s => s.complete g 0 (leBytes 8 a.word)) }

def execDiagRegRead (c : Cmd) (s : State) : Host.Outcome State Fault Refusal := .next (s.runCard diagRegReadCard c)

/-! ### Memory -/

/-- The initiator code of DIAG in a header word. -/
def diagWord (p : Nat) : Nat := 0x35 * 2 ^ 20 + p * 2 ^ 55 + 2 ^ 59

/-- A range cut where its 4,096-byte pages end: address and length of each piece. Regions are whole pages, so a piece lies in a
region exactly where each of its accesses does (R134, R140). -/
def pieces (a n : Nat) : List (Nat × Nat) :=
  let first := a / 4096
  let last := (a + n - 1) / 4096
  if n = 0 then []
  else (List.range (last + 1 - first)).map (fun i =>
    let lo := max a (4096 * (first + i))
    let hi := min (a + n) (4096 * (first + i + 1))
    (lo, hi - lo))

/-- Whether every access of a range lies in a region of DIAG that permits it and names the pasture, which holds the target. -/
def State.diagPermits (s : State) (p a n : Nat) (write : Bool) : Bool :=
  (pieces a n).all (fun x =>
    s.targetHolder x.1 x.2 == some p &&
      s.regionPermits 0 p x.1 x.2 write (((padPlace x.1).map (fun y => y.win != 0)).getD false))

/-- Table 5-3 for DIAG; reads of HBM are not bound to a state (DEDUCED, log 38). -/
def State.diagState (s : State) (p a : Nat) (write : Bool) : Bool :=
  if write ∨ (padPlace a).isSome then padStateOk 0x35 (s.pstate p) write else true

/-- A denied command is recorded in MREGION_STATUS, once, however many accesses its range would have needed: it is refused at the first,
and the spec does not say whether the others are made (R143; DESIGN CHOICE, log 38). -/
def State.diagDenied (s : State) (p : Nat) (ok write : Bool) : State := if ok then s else s.denied (diagWord p) write

/-- Pasture, first address and length of a memory command of DIAG (Table 11-16). -/
def DiagJob.pasture (j : DiagJob) : Nat := j.cmd.pasture
def DiagJob.addr (j : DiagJob) : Nat := fieldAt j.cmd.params (if j.write then 0 else 16) 8
def DiagJob.size (j : DiagJob) : Nat := fieldAt j.cmd.params (if j.write then 8 else 24) 4

/-- The domains that a range lies in. -/
def rangeDomains (a n : Nat) : List Nat :=
  ((pieces a n).map (fun x => match padPlace x.1 with
    | some y => domFabric (dieOfPair y.pair)
    | none => domHbm (x.1 / Config.stackBytes))).dedup

/-- The scratchpads that a range lies in. -/
def rangePads (a n : Nat) : List (Nat × Nat) :=
  ((pieces a n).filterMap (fun x => (padPlace x.1).map (fun y => (y.pair, y.pad)))).dedup

/-- The bytes of a range. -/
def State.diagBytes (s : State) (a n : Nat) : List Byte × State :=
  (pieces a n).foldl (fun x e =>
    let (bs, s) := x.2.serviceRead e.1 e.2
    (x.1 ++ bs, s)) ([], s)

/-- The readback, under the next READ_NO. -/
def State.diagFinishRead (s : State) (j : DiagJob) (bs : List Byte) : State :=
  let p := j.pasture
  let k := (s.pas p).flow.readNo
  let bs := readCrypt (s.kRead p) p 3 k j.addr bs
  (s.modPFlow p (fun w => { w with readNo := w.readNo + 1 })).completeResult j.prog j.cmd (leBytes 4 k) bs false

/-- The write of the whole range, which enters no undo log and makes the held barrier a ring point (R272). -/
def State.diagStore (s : State) (p a : Nat) (bs : List Byte) : State :=
  ((pieces a bs.length).foldl (fun s x => s.serviceWrite x.1 0 (slice bs (x.1 - a) x.2)) s).hostWrote p

/-- Whether every access of the rest of a command can be made now: the units are awake with their ports open (R433), the scratchpads'
ports are free, and no scheduled access can come between two accesses (R134, R135). -/
def State.diagNow (s : State) (j : DiagJob) : Bool :=
  let a := j.addr + j.next
  let n := j.size - j.next
  (rangeDomains a n).all (fun d => s.domPort d == 0) && (rangePads a n).all (fun x => s.padFree x.1 x.2) &&
    ((rangePads a n).isEmpty || !(s.pstate j.pasture).runs || decide (a % 32 + n ≤ 32))

/-- The rest of a command, at once. -/
def State.diagRest (s : State) (j : DiagJob) : State :=
  let a := j.addr + j.next
  let n := j.size - j.next
  let s := (rangePads a n).foldl (fun s x => s.padTake x.1 x.2) s
  if j.write then (s.diagStore j.pasture j.addr (slice j.cmd.params 16 j.size)).complete j.prog 0 []
  else
    let (bs, s) := s.diagBytes a n
    s.diagFinishRead j (j.got ++ bs)

/-- A command that cannot go on now waits: for a unit to wake, or for the port of a scratchpad, for a write one whose port is not free. -/
def State.diagWait (s : State) (j : DiagJob) : State :=
  let a := j.addr + j.next
  let ds := rangeDomains a (j.size - j.next)
  let pads := rangePads a (j.size - j.next)
  let place := if ds.all (fun d => s.domPort d == 0) then
      (if j.write then (pads.find? (fun x => !s.padFree x.1 x.2)).orElse (fun _ => pads.head?) else pads.head?)
    else none
  (s.demandWakes ds).padQueue { place := place, master := 0, steps := 0, task := .diag j }

/-- A command goes on: its rest at once, or it waits. -/
def State.diagGo (s : State) (j : DiagJob) : State := if s.diagNow j then s.diagRest j else s.diagWait j

/-- Whether the command is still in progress. -/
def State.diagLives (s : State) (j : DiagJob) : Bool :=
  s.host.prog.any (fun g => g.ring == j.prog.ring && g.seq == j.prog.seq)

/-- Whether the regions and the pasture's state still permit what is left (R136, R140). -/
def State.diagStill (s : State) (j : DiagJob) : Bool :=
  s.diagPermits j.pasture (j.addr + j.next) (j.size - j.next) j.write && s.diagState j.pasture j.addr j.write

/-- A port grants a command of DIAG its turn: a write is made where all its ports are free; a read makes one access, of at most 32 bytes
within a row, and waits for the next. A command that its pasture's state no longer permits completes with the status of its card. -/
def State.diagTurn (s : State) (j : DiagJob) : State :=
  if ¬ s.diagLives j then s
  else if ¬ s.diagStill j then s.complete j.prog 0x0209 []
  else if j.write ∨ s.diagNow j then s.diagGo j
  else
    let a := j.addr + j.next
    let n := min (32 - a % 32) (j.size - j.next)
    let (bs, s) := s.serviceRead a n
    let j := { j with next := j.next + n, got := j.got ++ bs }
    if j.next = j.size then s.diagFinishRead j j.got else s.diagWait j

/-- A waiting command of DIAG whose units are awake takes its place at a port. -/
def State.diagTick (s : State) : State :=
  let l := s.noc.padWait.filter (fun w => w.place.isNone)
  if s.dev.restarting then s
  else l.foldl (fun s w => match w.task with
    | .diag j =>
      let s := s.modNoc (fun n => { n with padWait := n.padWait.erase w })
      if ¬ s.diagLives j then s else if ¬ s.diagStill j then s.complete j.prog 0x0209 [] else s.diagGo j
    | .packet _ => s) s

/-! ### The turns at a scratchpad (R134) -/

/-- A step in which an access of a master waits while the port performs a scheduled access; the longest wait in units of 16 steps
(Table 5-8). -/
def Steal.defer (t : Steal) : Steal := { t with deferred := satTo 20 (t.deferred + 1) }
def Steal.waited (t : Steal) (steps : Nat) : Steal := { t with maxWait := max t.maxWait (min 255 (steps / 16)) }
def Pair.steal (q : Pair) (master : Nat) (f : Steal → Steal) : Pair :=
  match master with
  | 0 => { q with diag := f q.diag }
  | 1 => { q with ring := f q.ring }
  | 2 => { q with acq := f q.acq }
  | _ => q

/-- The master whose turn it is among those with an access waiting. -/
def nextMaster (turn : Nat) (l : List PadWait) : Option Nat :=
  ((List.range 4).map (fun i => (turn + i) % 4)).find? (fun m => l.any (fun w => w.master == m))

/-- One step of the accesses that wait at scratchpad `k` of pair `q`: where the port performed a scheduled access they wait on; else the
next master in turn has its oldest one performed, under the checks as they then stand. In HOLD and RECOVER they wait (R136). -/
def State.padStep (s : State) (q k : Nat) : State :=
  let here (w : PadWait) : Bool := w.place == some (q, k)
  let l := s.noc.padWait.filter here
  if l.isEmpty ∨ s.dev.mode = .hold ∨ s.dev.mode = .recover then s
  else
    let older (s : State) : State := s.modNoc (fun n => { n with padWait := n.padWait.map (fun w =>
      if here w then { w with steps := w.steps + 1 } else w) })
    if (s.pair q).busy.contains k then
      (older s).modPair q (fun x => (l.map PadWait.master).dedup.foldl (fun x m => x.steal m Steal.defer) x)
    else match nextMaster (tget (s.pair q).turn 0 k) l with
      | none => s
      | some m => match l.find? (fun w => w.master == m) with
        | none => s
        | some w =>
          let s := s.modNoc (fun n => { n with padWait := n.padWait.erase w })
          let s := (older s).modPair q (fun x => { (x.steal m (fun t => t.waited w.steps)) with turn := tput x.turn 0 k ((m + 1) % 4) })
          match w.task with
          | .packet p => s.access p (fun s => (s.padTake q k).perform p)
          | .diag j => s.diagTurn j

/-- The turns at the scratchpads of a pair in one step. -/
def State.serviceStep (s : State) (q : Nat) : State :=
  if s.noc.padWait.isEmpty then s else (List.range 8).foldl (fun s k => s.padStep q k) s

def diagMemReadCard : Card :=
  { opcode := 0x0D02, modes := "SE", session := true, names := true, waits := true, lengthOk := lenIs 32,
    run := fun c g s =>
      let p := c.pasture
      let a := fieldAt c.params 16 8
      let n := fieldAt c.params 24 4
      let sized : Bool := decide (2 ≤ n) && decide (n ≤ 1048576) && n % 2 == 0
      let ok := !sized || a % 2 != 0 || s.diagPermits p a n false
      let checks := reservedZero c 12 4 ++ reservedZero c 28 4 ++ resultChecks c n
        ++ [rangeCheck (a % 2 != 0) 16, (!ok, 0x0109, 16), rangeCheck (!sized) 24, stateCheck (!s.diagState p a false) 0x0209,
            stateCheck (decide (2 ^ 32 ≤ (s.pas p).flow.readNo)) 0x0412]
      let s := s.diagDenied p ((firstFail checks).map Prod.fst != some 0x0109) false
      s.checked g checks (fun s => s.diagGo { cmd := c, prog := g, write := false, next := 0, got := [] }) }

def execDiagMemRead (c : Cmd) (s : State) : Host.Outcome State Fault Refusal := .next (s.runCard diagMemReadCard c)

/-- The packet's length, with data padded to a multiple of 8. -/
def diagWriteLength (bs : List Byte) : Bool := decide (24 ≤ bs.length) && decide (bs.length ≤ 16 + 262144)

def diagMemWriteCard : Card :=
  { opcode := 0x0D03, modes := "SE", session := true, names := true, waits := true, lengthOk := diagWriteLength,
    run := fun c g s =>
      let p := c.pasture
      let a := fieldAt c.params 0 8
      let n := fieldAt c.params 8 4
      let sized : Bool := decide (2 ≤ n) && n % 2 == 0 && 16 + (n + 7) / 8 * 8 == c.params.length
      let ok := !sized || a % 2 != 0 || s.diagPermits p a n true
      let checks := reservedZero c 12 4 ++ (if sized then reservedZero c (16 + n) (c.params.length - (16 + n)) else [])
        ++ [rangeCheck (a % 2 != 0) 0, (!ok, 0x0109, 0), rangeCheck (!sized) 8, stateCheck (!s.diagState p a true) 0x0209]
      let s := s.diagDenied p ((firstFail checks).map Prod.fst != some 0x0109) true
      s.checked g checks (fun s => s.diagGo { cmd := c, prog := g, write := true, next := 0, got := [] }) }

def execDiagMemWrite (c : Cmd) (s : State) : Host.Outcome State Fault Refusal := .next (s.runCard diagMemWriteCard c)

end Sys2Proof.Machine
end

