-- ==== Sys2Proof/Machine/FlowCards.lean ====
section
/-!
DEFINITION. FLOW_HOLDINGS, TASK_KICK and FLOW_TALLIES (R237, Table 8-8).
-/

namespace Sys2Proof.Machine

open Sys2Proof

/-- A map of `n` bytes with bit k set where the test holds of k. -/
def bitMap (n : Nat) (p : Nat → Bool) : List Byte :=
  (List.range n).map (fun i => BitVec.ofNat 8 ((List.range 8).foldl (fun a j => if p (8 * i + j) then a + 2 ^ j else a) 0))

/-- The maps of held flows and held tasks. -/
def State.holdings (s : State) : List Byte :=
  bitMap 512 (fun n => (tget s.flow.owners none n).isSome) ++ bitMap 8192 (fun t => (s.task t).owner.isSome)

def flowHoldingsCard : Card :=
  { opcode := 0x0401, modes := "SE", session := true, names := false, waits := false, lengthOk := lenIs 16,
    run := fun c g s => s.checked g (reservedZero c 12 4 ++ resultChecks c 8704) (fun s =>
      s.completeResult g c [] s.holdings true) }

def execFlowHoldings (c : Cmd) (s : State) : Host.Outcome State Fault Refusal := .next (s.runCard flowHoldingsCard c)

/-- The states in which TASK_KICK is permitted. -/
def PState.kicks : PState → Bool
  | .loaded | .running | .stepping | .frozen => true
  | _ => false

/-- A PARKED task is unparked; any other meets one decrement (R228, R230). -/
def State.kick (s : State) (t : Nat) : State := if (s.task t).tstate = .parked then s.unpark t else s.taskDec t

def taskKickCard : Card :=
  { opcode := 0x0402, modes := "SE", session := true, names := true, waits := true, lengthOk := lenIs 8,
    run := fun c g s =>
      let t := fieldAt c.params 0 2
      s.checked g (reservedZero c 2 6 ++ [rangeCheck ((s.task t).owner != some c.pasture) 0,
          stateCheck (!(s.pstate c.pasture).kicks) 0x0201]) (fun s => (s.kick t).complete g 0 []) }

def execTaskKick (c : Cmd) (s : State) : Host.Outcome State Fault Refusal := .next (s.runCard taskKickCard c)

/-- Bytes 16 to 63 of a queue descriptor (Table 8-2). -/
def Queue.owned (q : Queue) : List Byte :=
  leBytes 4 q.head ++ leBytes 4 q.tail ++ leBytes 4 q.highWater ++ leBytes 2 q.lateAdmits ++ leBytes 2 q.dbReject
    ++ q.hist.flatMap (leBytes 4)

/-- Bytes 32 to 63 of a task entry (Table 8-5); `use_` are the two bytes of device use. -/
def Task.owned (t : Task) (use_ : Nat) : List Byte :=
  leBytes 2 t.counter ++ leBytes 2 t.early ++ leBytes 1 t.tstate.code ++ leBytes 1 t.lastEngine ++ leBytes 2 use_
    ++ leBytes 8 t.runs ++ leBytes 8 t.moved ++ leBytes 8 t.busyNs

def tallyNq (c : Cmd) : Nat := fieldAt c.params 16 1
def tallyNt (c : Cmd) : Nat := fieldAt c.params 17 1
/-- The i-th number that a FLOW_TALLIES packet lists. -/
def tallyNum (c : Cmd) (i : Nat) : Nat := fieldAt c.params (24 + 2 * i) 2

/-- The packet's length: the numbers padded to a multiple of 8. -/
def tallyLength (bs : List Byte) : Bool :=
  let n := 2 * (fieldAt bs 16 1 + fieldAt bs 17 1)
  decide (24 ≤ bs.length) && bs.length == 24 + (n + 7) / 8 * 8

/-- The result: the device-owned bytes in the order listed. The bytes of device use are free values (DESIGN CHOICE, log 6). -/
def State.tallies (s : State) (c : Cmd) : List Byte × State :=
  let qs := (List.range (tallyNq c)).flatMap (fun i => (s.queue (tallyNum c i)).owned)
  (List.range (tallyNt c)).foldl (fun (a : List Byte × State) (i : Nat) =>
    let (x, s) := a.2.draw 16
    (a.1 ++ (s.task (tallyNum c (tallyNq c + i))).owned x, s)) (qs, s)

def flowTalliesCard : Card :=
  { opcode := 0x0403, modes := "SE", session := true, names := true, waits := true, lengthOk := tallyLength,
    run := fun c g s =>
      let nq := tallyNq c
      let nt := tallyNt c
      let used := 24 + 2 * (nq + nt)
      let p := c.pasture
      s.checked g (reservedZero c 12 4 ++ reservedZero c 18 6 ++ reservedZero c used (c.params.length - used)
          ++ resultChecks c (48 * nq + 32 * nt) ++ [rangeCheck (decide (64 < nq)) 16, rangeCheck (decide (64 < nt)) 17]
          ++ (List.range nq).map (fun i => rangeCheck (s.queueOwner (tallyNum c i) != some p) (24 + 2 * i))
          ++ (List.range nt).map (fun i => rangeCheck ((s.task (tallyNum c (nq + i))).owner != some p) (24 + 2 * (nq + i)))
          ++ [stateCheck (s.pstate p == .empty) 0x0201]) (fun s =>
        let (bs, s) := s.tallies c
        s.completeResult g c [] bs true) }

def execFlowTallies (c : Cmd) (s : State) : Host.Outcome State Fault Refusal := .next (s.runCard flowTalliesCard c)

end Sys2Proof.Machine
end

