-- ==== Sys2Proof/Machine/Load.lean ====
section
/-!
DEFINITION. LOAD and LOAD_ABORT: the header and the chunks, the claims, and the writes that make a pasture of an image (R33,
R157–R173, R264, R314, R499).
-/

namespace Sys2Proof.Machine

open Sys2Proof

/-! ### What a load writes -/

/-- The 11 bytes of an instruction and the 18 of a side word in an image copy (R168). -/
def copyInstr (w : Nat) : List Byte := leBytes 11 (w + 2 ^ 80 * (Config.secdedInstr w).toNat)
def copySide (w : Nat) : List Byte := leBytes 18 (w + 2 ^ 128 * (Config.secdedSide w).toNat)

/-- The image copy of a fold: 1,024 records of 3,072 bytes (R168). -/
def FoldStore.copyBytes (x : FoldStore) : List Byte :=
  (List.range Config.numSlots).flatMap (fun t =>
    padTo 3072 ((List.range Config.numBps).flatMap (fun b => copyInstr (tget x.instr 0 (256 * t + b))) ++ copySide (tget x.side 0 t)))

/-- The stores of a fold. -/
def FoldImage.store (x : FoldImage) : FoldStore :=
  { instr := x.slots.flatMap (fun t => t.ins.map (fun e => (256 * t.slot + e.1, e.2))),
    side := (x.slots.filter (fun t => t.sideW != 0)).map (fun t => (t.slot, t.sideW)), smap := x.smap,
    probes := x.probes.map (fun w => (bitsOf w 0 8, bitsOf w 8 9)), due := x.due.getD [0, 0, 0, 0] }

/-- A fold as a load leaves it, waiting at barrier 0: next values and ring shadows equal the initial values (R40), and ring 0
holds them (R264). The deep memory tallies are cleared (R155); those of FOLD_ECC count since reset. -/
def FoldImage.loaded (x : FoldImage) (p : Nat) (rings : Bool) (old : Fold) : Fold :=
  let st := x.nrf.filter (fun e => tget x.smap false e.1)
  { Fold.init with
    pasture := some p, store := x.store, nrf := { cur := x.nrf, nxt := st, shd := st },
    seq := { FoldSeq.init with lastSlot := x.depth - 1, arrived := true, stateFinal := true },
    ecc := { old.ecc with errs := [] },
    ringC := if rings then { cells := st, reads := [] } else FoldRing.init }

/-- The words of a scratchpad from its initial bytes, those that are not zero. -/
def padWords (pad : Nat) (bs : List Byte) : Tab (BitVec 16) :=
  (((blocks 2 32768 bs).zipIdx).map (fun e => (32768 * pad + e.2, BitVec.ofNat 16 (leNat e.1)))).filter (fun e => e.2 != 0)

/-- A queue from its descriptor. -/
def QueueDesc.queue (q : QueueDesc) : Queue :=
  { Queue.init with base := q.base, depthLog2 := q.depthLog2, units := q.units, role := q.role, notifyEn := q.notifyEn,
                    notifyTask := q.notifyTask }

/-- The composition and identity of an image (Tables 6-1 and 6-4). -/
def Image.comp (m : Image) : PComp :=
  let h := m.header
  { pairs := m.pairs, edgePorts := m.edgePorts, linkPorts := m.linkPorts, regions := m.regions, sid := hdrSid h,
    nonce := hdrNonce h, jobId := hdrJobId h, digest := hdrDigest h, profile := hdrProfile h, depth := hdrDepth h,
    rootLevel := m.rootLevel, parent := m.parent, children := m.children, allocs := m.allocs.map Prod.fst,
    dmRegions := m.dmRegions, engines := fieldAt (m.body tQueues 0) 4 4 }

/-- Give a service region the lowest free register of its master (R140, R141). -/
def State.addRegion (s : State) (r : ServiceRec) : State :=
  match (List.range 16).find? (fun i => !(s.mregions.any (fun e => e.1 == 16 * r.master + i))) with
  | some i => { s with mregions := tput s.mregions MRegion.init (16 * r.master + i) r.region }
  | none => s

/-- The claims of stages 5 to 9 (R172, R393): composition, flows and tasks, region registers, allocations, edge regions. -/
def State.claimImage (s : State) (p : Nat) (m : Image) : State :=
  let s := s.modPas p (fun x => { x with comp := m.comp })
  let s := s.modFlow (fun w => { w with
    owners := (m.records tQueues).foldl (fun t r => tput t none (fieldAt r 0 2) (some p)) w.owners
    queues := (m.queues).foldl (fun t q => tput t Queue.init q.num q.queue) w.queues
    tasks := (m.records tTasks).foldl (fun t r => tput t Task.init (fieldAt r 0 2) (taskOf (r.drop 8) p)) w.tasks })
  let s := ((m.services p).filter ServiceRec.valid).foldl (fun s r => s.addRegion r) s
  let s := m.folds.foldl (fun s f => s.modFold f (fun x => { x with pasture := some p })) s
  (m.ofType tEdge).foldl (fun s x => s.claimRegion x.target p (x.body.take edgeHeadLen)) s

/-- The writes of the fold stores, NRFs, scratchpads and image copies; the conflict tallies of the pairs are cleared (R144). -/
def State.writeFolds (s : State) (p : Nat) (m : Image) : State :=
  let rings := hdrRings m.header
  let copies := m.body tImageCopy 0
  let s := (m.folds.zipIdx).foldl (fun (s : State) (e : Nat × Nat) =>
    let x := m.foldImage e.1
    let s := s.modFold e.1 (fun old => x.loaded p rings old)
    { s with hbm := memWrite s.hbm (fieldAt copies (8 * e.2) 8) x.store.copyBytes }) s
  m.pairs.foldl (fun (s : State) (q : Nat) =>
    s.modPair q (fun x => { x with
      pads := (List.range 8).flatMap (fun k => padWords k (m.body tScratch (8 * q + k)))
      port := [], busy := [], rowSt := 0, orderSt := 0, diag := Steal.init, ring := Steal.init, acq := Steal.init })) s

/-- The writes of HBM_INIT; data that an earlier tenant left in a region was wiped when it left. -/
def State.writeHbmInit (s : State) (m : Image) : State :=
  (m.ofType tHbmInit).foldl (fun (s : State) (x : Sect) =>
    let r := tget m.dmRegions DmRegion.init x.target
    { s with hbm := memWrite s.hbm (r.base + fieldAt x.body 0 8) (x.body.drop 8) }) s

/-- The counts of every port window are zero at load (R217), whatever HBM_INIT holds there. -/
def State.zeroWindows (s : State) (p : Nat) : State :=
  (s.pas p).flow.ports.foldl (fun (s : State) f => { s with hbm := memZero s.hbm (s.windowAddr p f) 16 }) s

/-- PASTURE_WDOG from the image, unless a SET_WDOG has been accepted since the header passed stage 1 (R126). -/
def PWdog.fromImage (w : PWdog) (v : Nat) : PWdog :=
  if w.written then { w with counter := 0 } else { w with periodLog2 := bitsOf v 0 6, enable := bitOf v 6, counter := 0 }

/-- Ring 0, its undo log and its ingress log (R264): block 0 takes the words that reach the pasture before its first RUN. -/
def PRing.load (plan : Option RingPlan) : PRing :=
  match plan with
  | none => PRing.init
  | some g =>
    let b : IngressBlock := { ecycle := 0, ringPoint := true, admits := [], words := [] }
    { PRing.init with plan := some g, undo := [.marker 0 0], log := [b] }

/-- The pasture's own record after a load (R208, R499). -/
def Pasture.load_ (x : Pasture) (m : Image) : Pasture :=
  let span := hdrSpan m.header
  { x with
    stat := { x.stat with
      rings := hdrRings m.header, spanIndex := hdrSpanIndex m.header, spanDevices := hdrSpanDevices m.header,
      join := b2n span, root := span && m.parent.isNone }
    wdog := x.wdog.fromImage (fieldAt (m.body tDecl 0) 52 4)
    load := none
    chans := m.chanWords.filterMap decodeChan
    flow := { PFlow.init with ports := m.ports }
    ck := PRing.load m.ringPlan }

/-- The final writes: everything of the image, then the staging area is zeroed (R167), the pasture is LOADED, tasks whose
INIT_COUNT is 0 become READY in ascending order (R231), and the engine arms where AUTO_ARM asks for it. The image is read from
the staging area. -/
def State.finishLoad (s : State) (p : Nat) (l : PLoad) : State :=
  let m := readImage l.header (memRead s.hbm l.staging l.length)
  let s := (s.writeFolds p m).writeHbmInit m
  let s := (m.ofType tEdge).foldl (fun s x => s.configureRegion x.target p x.body) s
  let s := { s with hbm := memZero s.hbm l.staging (roundUp l.length 4096) }
  let s := (s.modPas p (fun x => x.load_ m)).zeroWindows p
  let s := if m.has tAcqPlan 0 then
      { s with acq := tput s.acq Acq.init p { m.acq with state := .idle } }
    else s
  let s := s.setPState p .loaded
  let zero := (m.taskNums.filter (fun t => (s.task t).initCount == 0)).mergeSort (fun a b => a ≤ b)
  let s := zero.foldl (fun (s : State) (t : Nat) => s.makeReady t) s
  let s := if m.has tAcqPlan 0 && (s.acqOf p).autoArm then s.acqArm p else s
  let s := if l.supply then s.markSupply p else s
  let s := s.joinStep p
  s.finishAll 0x0201 p 0

/-- A load whose checks have passed ends once its folds are awake, unless the device is in HOLD (R173, R202). -/
def State.settleLoad (s : State) (p : Nat) : State :=
  match (s.pas p).load with
  | some l =>
    if s.pstate p = .loading ∧ l.nextChunk = hdrChunks l.header ∧ s.foldsOn p ∧ s.dev.mode ≠ .hold then s.finishLoad p l else s
  | none => s

/-! ### The packets -/

/-- A refused load leaves nothing behind, and its status stays in LAST_STATUS (R33, R171). -/
def State.refuseLoad (s : State) (g : Prog) (p : Nat) (x : LoadFail) : State :=
  (((s.emptyPasture p).setLastStatus p x.status).complete g x.status x.bytes).finishAll 0x0201 p 0x0201

/-- A header refused at stage 1 reaches nothing: a pasture that is not EMPTY keeps what it is (R314). -/
def State.refuseHeader (s : State) (g : Prog) (p : Nat) (x : LoadFail) : State :=
  let s := if s.pstate p = .empty then s.setLastStatus p x.status else s
  s.complete g x.status x.bytes

/-- A header that passes stage 1: its nonce is used, its staging area is claimed, the pasture block returns to its reset values
but for PASTURE_EVENTS, and the pasture is LOADING (R161, R172, R499). -/
def State.beginLoad (s : State) (p ring : Nat) (h : List Byte) : State :=
  let sid := hdrSid h
  let s := s.modHost (fun x => { x with sessions := x.sessions.map (fun y =>
    if y.sid = sid then { y with headers := y.headers + 1, nonces := y.nonces ++ [hdrNonce h] } else y) })
  let l : PLoad := { header := h, ring := ring, nextChunk := 0, staging := hdrStaging h, length := hdrLength h, supply := false }
  let stage : Alloc := { kind := 0, base := hdrStaging h, size := roundUp (hdrLength h) 4096 }
  let s := s.modPas p (fun x => { x with
    stat := { PStat.init with state := x.stat.state, events := x.stat.events }
    ext := PExt.init, assert := PAssert.init, fault := PFault.init
    wdog := { x.wdog with written := false }
    run := PRun.init
    comp := { PComp.init with sid := sid, nonce := hdrNonce h, jobId := hdrJobId h, digest := hdrDigest h,
                              profile := hdrProfile h, depth := hdrDepth h, allocs := [stage] }
    load := some l })
  s.setPState p .loading

/-- The payload bytes of a chunk. -/
def chunkLen (h : List Byte) (i : Nat) : Nat :=
  if i + 1 < hdrChunks h then chunkBytes else hdrLength h - chunkBytes * (hdrChunks h - 1)

/-- Stage 2 of a chunk: its order and length, then its tag; the plaintext where it passes (R161, R162). -/
def State.openChunk (s : State) (l : PLoad) (i : Nat) (body : List Byte) : Except LoadFail (List Byte) :=
  let f (status : Nat) : LoadFail := { failAt status 2 noLoc with loc0 := i }
  let n := chunkLen l.header i
  if i ≠ l.nextChunk ∨ hdrChunks l.header ≤ i ∨ body.length ≠ n + 16 then .error (f 0x0501)
  else match gcmOpen (s.kImg (hdrSid l.header)) (hdrNonce l.header ++ beBytes 4 i) l.header (body.take n) (body.drop n) with
    | some pt => .ok pt
    | none => .error (f 0x0402)

/-- Stage 3, and the stages after it, on the payload in the staging area. -/
def State.judgeImage (s : State) (p : Nat) (l : PLoad) : Option LoadFail :=
  let payload := memRead s.hbm l.staging l.length
  if sha384 payload ≠ hdrDigest l.header then some (failAt 0x0403 3 noLoc)
  else s.laterStages p (readImage l.header payload)

/-- A chunk: deciphered into the staging area; after the last one the image is checked, claimed and, once its folds are awake,
written. Its command completes with the load. -/
def State.takeChunk (s : State) (g : Prog) (p : Nat) (l : PLoad) (i : Nat) (body : List Byte) : State :=
  match s.openChunk l i body with
  | .error x => s.refuseLoad g p x
  | .ok pt =>
    let s := { s with hbm := memWrite s.hbm (l.staging + chunkBytes * i) pt }
    let l := { l with nextChunk := i + 1 }
    let s := s.modPas p (fun x => { x with load := some l })
    if i + 1 < hdrChunks l.header then s.complete g 0 []
    else match s.judgeImage p l with
      | some x => s.refuseLoad g p x
      | none =>
        let s := s.claimImage p (readImage l.header (memRead s.hbm l.staging l.length))
        (s.demandWakes (s.pasDomains p)).settleLoad p

/-- The parameter length of LOAD (R314). -/
def loadLength (bs : List Byte) : Bool :=
  if fieldAt bs 0 1 = 0 then bs.length == 264
  else if fieldAt bs 0 1 = 1 then decide (32 ≤ bs.length) && decide (bs.length ≤ 65560)
  else decide (8 ≤ bs.length)

/-- A LOAD packet. A refusal that no check of Table 6-7 makes carries zero DETAIL. -/
def loadRun (c : Cmd) (g : Prog) (s : State) : State :=
  let part := fieldAt c.params 0 1
  let i := fieldAt c.params 4 4
  let p := c.pasture
  let l := (s.pas p).load
  let ring := (l.map PLoad.ring).getD c.ring
  s.checked g (reservedZero c 1 3 ++ [rangeCheck (decide (1 < part)) 0, rangeCheck (part == 0 && i != 0) 4,
      stateCheck (s.pstate p == .loading && ring != c.ring) 0x0208, stateCheck (part == 1 && s.pstate p != .loading) 0x0201])
    (fun s =>
      if part = 0 then
        let h := slice c.params 8 256
        match s.stage1 c.ring p h with
        | some x => s.refuseHeader g p x
        | none => (s.beginLoad p c.ring h).complete g 0 []
      else match l with
        | some l => s.takeChunk g p l i (c.params.drop 8)
        | none => s)

def loadCard : Card :=
  { opcode := 0x0201, modes := "SE", session := true, names := true, waits := true, lengthOk := loadLength, run := loadRun }

/-- LOAD with the header (R314); this row also takes a packet whose PART selects neither part. -/
def execLoadHeader (c : Cmd) (s : State) : Host.Outcome State Fault Refusal :=
  .next (if fieldAt c.params 0 1 = 1 then s else s.runCard loadCard c)

/-- LOAD with a chunk (R314). -/
def execLoadChunk (c : Cmd) (s : State) : Host.Outcome State Fault Refusal :=
  .next (if fieldAt c.params 0 1 = 1 then s.runCard loadCard c else s)

/-- LOAD_ABORT (R186): the load is abandoned and wiped; a last chunk that still waits for its folds completes with the state
status. -/
def loadAbortCard : Card :=
  { opcode := 0x0202, modes := "SE", session := true, names := true, waits := true, lengthOk := lenIs 0,
    run := fun c g s =>
      let ring := ((s.pas c.pasture).load.map PLoad.ring).getD c.ring
      s.checked g [stateCheck (s.pstate c.pasture != .loading) 0x0201, stateCheck (ring != c.ring) 0x0208] (fun s =>
        ((s.finishAll 0x0201 c.pasture 0x0201).emptyPasture c.pasture).complete g 0 []) }

def execLoadAbort (c : Cmd) (s : State) : Host.Outcome State Fault Refusal := .next (s.runCard loadAbortCard c)

end Sys2Proof.Machine
end

