-- ==== Sys2Proof/Machine/RunControl.lean ====
section
/-!
DEFINITION. RUN, FREEZE and SET_WDOG (R126, R186–R197, R205), and the REPLAY logs that RUN takes (R192, R193, R275).
-/

namespace Sys2Proof.Machine

open Sys2Proof

/-! ### Reading a log (Table 10-5) -/

/-- The admission records at the head of a byte string: how many to read, the records, and what follows; `none` where they do
not fit. -/
def readAdmits : Nat → List Byte → Option (List (Nat × List Byte) × List Byte)
  | 0, bs => some ([], bs)
  | n + 1, bs =>
    let len := 64 * fieldAt bs 2 1
    if bs.length < 8 + len then none
    else (readAdmits n (bs.drop (8 + len))).map (fun x => ((fieldAt bs 0 1, (bs.drop 8).take len) :: x.1, x.2))

/-- The word records at the head of a byte string. -/
def readWords : Nat → List Byte → Option (List (Nat × BitVec 16))
  | 0, _ => some []
  | n + 1, bs =>
    if bs.length < 4 then none
    else (readWords n (bs.drop 4)).map (fun x => (fieldAt bs 2 1, BitVec.ofNat 16 (fieldAt bs 0 2)) :: x)

/-- One block from its bytes. -/
def readBlock (bs : List Byte) : Option IngressBlock :=
  match readAdmits (fieldAt bs 12 4) (bs.drop 24) with
  | none => none
  | some (admits, rest) => (readWords (fieldAt bs 16 4) rest).map (fun words =>
      { ecycle := fieldAt bs 0 8, ringPoint := bitOf (fieldAt bs 20 1) 0, admits := admits, words := words })

/-- The blocks of a log that starts at address `a` with ecycle `e`; it ends at the first place that is not the block of the next
ecycle (DEDUCED, log 35). `none` where a block runs past the end of the region. -/
def State.readLog (s : State) (a limit e : Nat) : Nat → Option (List IngressBlock)
  | 0 => some []
  | n + 1 =>
    if limit < a + 24 then some []
    else
      let len := leNat (memRead s.hbm (a + 8) 4)
      if leNat (memRead s.hbm a 8) ≠ e ∨ len < 24 ∨ len % 8 ≠ 0 then some []
      else if limit < a + len then none
      else match readBlock (memRead s.hbm a len) with
        | none => some []
        | some b => (s.readLog (a + len) limit (e + 1) n).map (fun r => b :: r)

/-- Whether the ecycle of a block has begun: a block opened for words or at a host's ring point may still wait for its release. -/
def Pasture.begun (x : Pasture) (arrived : Bool) (e : Nat) : Bool :=
  decide (e < x.ck.asrtNext) || (e == x.stat.ecycle && !arrived)

/-- The blocks of the pasture's own log. -/
def State.ownBlocks (s : State) (p : Nat) : List IngressBlock :=
  let x := s.pas p
  x.ck.log.filter (fun b => x.begun (s.allArrived p) b.ecycle)

/-- The log that REPLAY takes, or `none` where R193 refuses it. -/
def State.replaySource (s : State) (p region offset : Nat) : Option (List IngressBlock) :=
  let x := s.pas p
  let e := x.stat.ecycle
  let log := if region = 0xFF then (if s.ringsOn p then some (s.ownBlocks p) else none)
    else
      let r := tget x.comp.dmRegions DmRegion.init region
      if r.valid then s.readLog (r.base + offset) (r.base + 4096 * r.pages) e (4096 * r.pages / 24) else none
  match log with
  | some (b :: bs) => if b.ecycle = e then some (b :: bs) else none
  | _ => none

/-! ### The log where a run starts (DEDUCED, log 36) -/

/-- The first words of each channel, as many as its budget. -/
def trimWords (budget : Nat → Nat) (seen : Tab Nat) : List (Nat × BitVec 16) → List (Nat × BitVec 16) × Tab Nat
  | [] => ([], seen)
  | w :: r =>
    let n := tget seen 0 w.1
    let (l, t) := trimWords budget (tput seen 0 w.1 (n + 1)) r
    (if n < budget w.1 then w :: l else l, t)

def trimBlocks (budget : Nat → Nat) (seen : Tab Nat) : List IngressBlock → List IngressBlock
  | [] => []
  | b :: r =>
    let (l, t) := trimWords budget seen b.words
    { b with words := l } :: trimBlocks budget t r

/-- COUNT of the channel of an edge-port endpoint toward the folds. -/
def Pasture.edgeCount (x : Pasture) (e : Nat) : Nat :=
  ((x.chans.find? (fun c => c.srcKind == .edge && c.srcId == e)).map Chan.count).getD 0

/-- The words on the paths and in the fold-side FIFOs of fabric-to-fold channels. -/
def Pasture.inFlight (x : Pasture) : List (Nat × BitVec 16) :=
  x.chans.flatMap (fun c => if c.srcKind = .edge then (c.dstFifo ++ c.path.map Prod.snd).map (fun w => (c.srcId, w)) else [])

/-- Those paths and FIFOs emptied. -/
def Pasture.dropInFlight (x : Pasture) : Pasture :=
  { x with chans := x.chans.map (fun c => if c.srcKind = .edge then { c with path := [], dstFifo := [] } else c) }

/-- The log cut back to the present barrier: the blocks before it keep the words that its ecycles took, and a new block holds the
words still in flight. -/
def Pasture.cutLog (x : Pasture) : Pasture :=
  let b := x.stat.ecycle
  let k := x.ck
  let old := trimBlocks (fun e => x.edgeCount e * (b - k.logFrom)) [] (k.log.filter (fun y => decide (y.ecycle < b)))
  let now : IngressBlock := { ecycle := b, ringPoint := b == k.cEcycle, admits := [], words := x.inFlight }
  { x with ck := { k with log := old ++ [now], replayLog := [] } }

/-- A run with live inputs from a barrier that the log has passed, after a rollback or a REPLAY that stopped early, continues from
what is in flight. -/
def State.startLive (s : State) (p : Nat) : State :=
  let x := s.pas p
  let passed := (s.ownBlocks p).any (fun b => decide (x.stat.ecycle ≤ b.ecycle)) || !x.ck.replayLog.isEmpty
  let s := if s.ringsOn p && passed then s.modPas p Pasture.cutLog else s
  s.modCk p (fun k => { k with runLog := [] })

/-- REPLAY starts: the log is armed and nothing the fabric sent before reaches a fold. -/
def State.startReplay (s : State) (p region : Nat) (log : List IngressBlock) : State :=
  let s := s.modPas p Pasture.dropInFlight
  let stop := ((log.getLast?).map (fun b => b.ecycle + 1))
  let s := if region = 0xFF then s.modCk p (fun k => { k with replayLog := log, runLog := [] })
    else (if s.ringsOn p then s.modPas p Pasture.cutLog else s).modCk p (fun k => { k with runLog := log })
  s.modRun p (fun r => { r with logEnd := stop, ownLog := region == 0xFF })

/-! ### RUN (R189, R190, R193) -/

def runModeOf : Nat → RunMode
  | 0 => .free
  | 1 => .count
  | 2 => .step
  | 3 => .toTrigger
  | 4 => .extclk
  | _ => .replay

/-- The range checks of R189, by rising offset. -/
def State.runRanges (s : State) (c : Cmd) : List Check :=
  let f (o n : Nat) : Nat := fieldAt c.params o n
  let m := f 0 1
  let x := s.pas c.pasture
  [(decide (5 < m), 0x0102, 0), rangeCheck (decide (2 < f 1 1)) 1,
   rangeCheck (if m = 4 then decide (1 < f 2 1) else f 2 1 != 0) 2,
   rangeCheck (if m = 4 then !x.comp.edgePorts.contains (f 3 1) else f 3 1 != 0) 3,
   rangeCheck (if m = 5 then decide (1 < f 4 1) else f 4 1 != 0) 4,
   rangeCheck (if m = 1 then f 8 8 == 0 || decide (2 ^ 48 ≤ f 8 8) else f 8 8 != 0) 8,
   rangeCheck (if f 1 1 = 2 then f 16 4 == 0 else f 16 4 != 0) 16,
   rangeCheck (if m = 5 then decide (16 ≤ f 20 1) && f 20 1 != 0xFF else f 20 1 != 0) 20,
   rangeCheck (if m = 5 then f 24 8 % 4096 != 0 || (f 20 1 == 0xFF && f 24 8 != 0) else f 24 8 != 0) 24]

/-- Whether a FREEZE of the pasture is still pending (R188). -/
def State.freezePending (s : State) (p : Nat) : Bool := s.host.prog.any (fun g => g.opcode == 0x0302 && g.pasture == p)

/-- The state checks of RUN, in the order of its card; the range of a REPLAY log comes last, and its DETAIL names REPLAY_REGION, at offset
20, whichever of the two fields is at fault: R306 names no place and no field for it (DESIGN CHOICE, log 63). -/
def State.runStates (s : State) (c : Cmd) : List Check :=
  let p := c.pasture
  let x := s.pas p
  let m := fieldAt c.params 0 1
  [stateCheck (!(x.stat.state == .loaded || x.stat.state == .frozen) || s.freezePending p) 0x0201,
   stateCheck (s.spanning p && !s.isRoot p) 0x0204,
   stateCheck (s.spanning p && x.stat.join != 2) 0x0205,
   stateCheck (m == 3 && !(s.acqOf p).live) 0x0206,
   stateCheck (x.stat.lastStatus == 0x0701) 0x0701,
   (m == 5 && (s.replaySource p (fieldAt c.params 20 1) (fieldAt c.params 24 8)).isNone, 0x0104, 20)]

/-- The parameters of an accepted RUN (R190, R195, Tables 7-4, 7-9, 7-10). -/
def Pasture.setRun (x : Pasture) (c : Cmd) : Pasture :=
  let f (o n : Nat) : Nat := fieldAt c.params o n
  let m := runModeOf (f 0 1)
  let b := x.stat.ecycle
  { x with
    stat := { x.stat with
      runMode := m, target := wrapTo 64 (match m with
        | .count => b + f 8 8
        | .step => b + 1
        | _ => 0) }
    ext := { PExt.init with heldEv := if m = .extclk then 0 else x.ext.heldEv }
    run := { x.run.unreleased with
      assertAction := f 1 1, assertLimit := f 16 4, ovrPolicy := f 2 1
      extPort := if m = .extclk then some (f 3 1) else x.run.extPort
      outMode := f 4 1, stops := [], holdAt := none, logEnd := none, ownLog := false, climb := 64 } }

/-- Words that a REPLAY with OUT_MODE 1 sent and that are still on their way to the fabric: they are dropped as those that have
reached the edge port were (R192). -/
def Pasture.dropReplayed (x : Pasture) : Pasture :=
  if x.stat.runMode = .replay ∧ x.run.outMode = 1 then
    { x with chans := x.chans.map (fun c =>
        if c.dstKind = .edge then
          let n := c.srcFifo.length + c.path.length
          { c with srcFifo := [], path := [], delivered := c.delivered + (n - (c.delivered - c.headNo)) }
        else c) }
  else x

/-- RUN takes effect: the folds are woken (R432), and the held barrier may release. -/
def State.startRun (s : State) (c : Cmd) : State :=
  let p := c.pasture
  let log := (s.replaySource p (fieldAt c.params 20 1) (fieldAt c.params 24 8)).getD []
  let s := s.modPas p (fun x => x.dropReplayed.setRun c)
  let m := (s.pas p).stat.runMode
  let s := if m = .replay then s.startReplay p (fieldAt c.params 20 1) log else s.startLive p
  let s := s.modAcq p (fun a => { a with segDone := false })
  let s := s.setPState p (if m = .step then .stepping else .running)
  let s := s.demandWakes (s.pasDomains p)
  if s.ready p then s.modExt p (fun e => { e with readyFor := some 0 }) else s

def runCard_ : Card :=
  { opcode := 0x0301, modes := "SE", session := true, names := true, waits := true, lengthOk := lenIs 32,
    run := fun c g s =>
      s.checked g (reservedZero c 5 3 ++ reservedZero c 21 3 ++ s.runRanges c ++ s.runStates c) (fun s =>
        (s.startRun c).complete g 0 []) }

def execRun (c : Cmd) (s : State) : Host.Outcome State Fault Refusal := .next (s.runCard runCard_ c)

/-! ### FREEZE (R190, R197) -/

/-- The first barrier whose release is not decided. -/
def State.nextHeld (s : State) (p : Nat) : Nat :=
  let x := s.pas p
  match x.ck.recovery with
  | some r => r.released
  | none => if s.allArrived p ∧ ¬ x.committed then x.stat.ecycle else x.stat.ecycle + 1

/-- FREEZE in a state other than LOADED and FROZEN: the stop is kept, and applies at once at a complete barrier. -/
def State.freeze (s : State) (p : Nat) : State :=
  let s := s.modRun p (fun r => { r with holdAt := some (s.nextHeld p) })
  s.stopNow p

/-- FREEZE completes when the pasture is FROZEN. -/
def freezeCard : Card :=
  { opcode := 0x0302, modes := "SE", session := true, names := true, waits := false, lengthOk := lenIs 0,
    run := fun c g s =>
      let st := s.pstate c.pasture
      let rests : Bool := st == .loaded || st == .frozen
      s.checked g [stateCheck (!(rests || st.evaluates)) 0x0201, stateCheck (s.spanning c.pasture && !s.isRoot c.pasture) 0x0204]
        (fun s => if rests then s.complete g 0 [] else s.freeze c.pasture) }

def execFreeze (c : Cmd) (s : State) : Host.Outcome State Fault Refusal := .next (s.runCard freezeCard c)

/-! ### SET_WDOG (R126) -/

def setWdogCard : Card :=
  { opcode := 0x0303, modes := "SE", session := true, names := true, waits := true, lengthOk := lenIs 8,
    run := fun c g s =>
      let v := fieldAt c.params 0 4
      s.checked g ([(decide (2 ^ 7 ≤ v), 0x0101, 0)] ++ reservedZero c 4 4 ++ [stateCheck (s.pstate c.pasture == .empty) 0x0201])
        (fun s => (s.modWdog c.pasture (fun w => { w with
          periodLog2 := bitsOf v 0 6, enable := bitOf v 6, written := true, counter := 0, fresh := true })).complete g 0 []) }

def execSetWdog (c : Cmd) (s : State) : Host.Outcome State Fault Refusal := .next (s.runCard setWdogCard c)

end Sys2Proof.Machine
end

