-- ==== Sys2Proof/Machine/RingCards.lean ====
section
/-!
DEFINITION. RING_INFO and RING_ROLLBACK (R288, Table 10-11).
-/

namespace Sys2Proof.Machine

open Sys2Proof

/-- The states in which RING_INFO is permitted. -/
def PState.ringInfo : PState → Bool
  | .loaded | .running | .stepping | .frozen | .faulted => true
  | _ => false

/-- The six words of RING_INFO. -/
def State.ringWords (s : State) (p : Nat) : List Nat :=
  let k := (s.pas p).ck
  let none_ := 2 ^ 64 - 1
  let log := s.ownBlocks p
  [k.status, k.cEcycle, k.recWord, k.faultEcy, ((log.head?).map IngressBlock.ecycle).getD none_,
   ((log.getLast?).map IngressBlock.ecycle).getD none_]

def ringInfoCard : Card :=
  { opcode := 0x0601, modes := "SE", session := true, names := true, waits := true, lengthOk := lenIs 16,
    run := fun c g s =>
      let p := c.pasture
      s.checked g (reservedZero c 12 4 ++ resultChecks c 48 ++ [stateCheck (!(s.pstate p).ringInfo) 0x0201,
          stateCheck (!s.ringsOn p) 0x0207]) (fun s => s.completeResult g c [] ((s.ringWords p).flatMap (leBytes 8)) true) }

def execRingInfo (c : Cmd) (s : State) : Host.Outcome State Fault Refusal := .next (s.runCard ringInfoCard c)

/-- What a rollback by command leaves of the outputs: DELIVERED becomes COUNT × R, APPENDED the restored RELEASED, and words on
their way to the fabric, which the run will send again, are dropped (DEDUCED, log 36). -/
def State.resetOutputs (s : State) (p : Nat) : State :=
  let r := (s.pas p).stat.ecycle
  s.modPas p (fun x => { x with
    chans := x.chans.map (fun c =>
      if c.dstKind = .edge then
        { c with srcFifo := [], path := [], dstFifo := [], delivered := c.count * r, sent := c.count * r }
      else c)
    flow := { x.flow with ports := x.flow.ports.map (fun f =>
      if s.portRole f = rolePortOut then { f with appended := leNat (memRead s.hbm (s.windowAddr p f + 8) 8) } else f) } })

/-- Steps 3, 4 and 6 of Table 10-8 to ring C (Table 10-11); the pasture stays FROZEN, held there. -/
def State.ringRollback (s : State) (p : Nat) : State :=
  let s := s.demandWakes (s.pasDomains p)
  let s := (s.pas p).comp.pairs.foldl (fun s q => s.modPair q (fun x => { x with port := [] })) s
  ((s.rollback p false).resetOutputs p).modCk p (fun k => { k with replayLog := [], afterRec := true })

def ringRollbackCard : Card :=
  { opcode := 0x0602, modes := "SE", session := true, names := true, waits := true, lengthOk := lenIs 0,
    run := fun c g s =>
      s.checked g [stateCheck (s.pstate c.pasture != .frozen) 0x0201, stateCheck (!s.ringsOn c.pasture) 0x0207] (fun s =>
        (s.ringRollback c.pasture).complete g 0 []) }

def execRingRollback (c : Cmd) (s : State) : Host.Outcome State Fault Refusal := .next (s.runCard ringRollbackCard c)

end Sys2Proof.Machine
end

