-- ==== Sys2Proof/Machine/Intake.lean ====
section
/-!
DEFINITION. The command rings: packets in host memory, the halting checks, sequence numbers, authentication, and the taking of
packets in ring order (R292–R302, R307, R308).
-/

namespace Sys2Proof.Machine

open Sys2Proof

/-! ### Cards by opcode -/

/-- One card of each opcode of Tables 11-13 to 11-15 other than PAD. -/
def cards : List Card :=
  [deviceInfoCard, echoCard, fwStageCard, fwActivateCard, wipeCard, bringupCard (fun _ s => s) false, laneEqCard, laneBitslipCard,
   laneLoopbackCard, laneStatusCard, fabricReleaseCard, powerCapCard, clockFloorCard, ladderSelectCard, padReleaseCard,
   timeAcceptCard, timeConfigCard, attestCard, sessionOpenCard, sessionCloseCard, lcTransitionCard,
   traceCard armChecks (fun _ s => s), traceReadCard, unloadCard, loadCard, loadAbortCard, runCard_, freezeCard, setWdogCard,
   flowHoldingsCard, taskKickCard, flowTalliesCard, acqCard 0x0501 [] (fun _ _ s => s), acqCard 0x0502 [] (fun _ _ s => s),
   acqCard 0x0503 [] (fun _ _ s => s), acqReadCard, acqProgramCard, ringInfoCard, ringRollbackCard, diagRegReadCard,
   diagMemReadCard, diagMemWriteCard]

def cardOf (op : Nat) : Option Card := cards.find? (fun k => k.opcode == op)

/-- The state an outcome leads to. -/
def after (o : Host.Outcome State Fault Refusal) (s : State) : State :=
  match o with
  | .next t => t
  | _ => s

/-- The meanings of an opcode; where several rows share one, each acts on its own packets. -/
def meaningsOf (op : Nat) : List (Cmd → State → Host.Outcome State Fault Refusal) :=
  match op with
  | 0x0001 => [execDeviceInfo]
  | 0x0002 => [execEcho]
  | 0x0003 => [execFwStage]
  | 0x0004 => [execFwActivate]
  | 0x0005 => [execWipe]
  | 0x0701 => [execLaneBringup, execLaneRetrain, execLaneTakeDown]
  | 0x0702 => [execLaneEq]
  | 0x0703 => [execLaneBitslip]
  | 0x0704 => [execLaneLoopback]
  | 0x0705 => [execLaneStatus]
  | 0x0801 => [execFabricRelease]
  | 0x0901 => [execPowerCap]
  | 0x0902 => [execClockFloor]
  | 0x0903 => [execLadderSelect]
  | 0x0904 => [execPadRelease]
  | 0x0A01 => [execTimeAccept]
  | 0x0A02 => [execTimeConfig]
  | 0x0B01 => [execAttest]
  | 0x0B02 => [execSessionOpen, execSessionRebind]
  | 0x0B03 => [execSessionClose]
  | 0x0B04 => [execLcTransition]
  | 0x0C01 => [execTraceArm, execTraceDisable, execTraceStop, execProbeConfig]
  | 0x0C02 => [execTraceRead]
  | 0x0101 => [execUnload]
  | 0x0201 => [execLoadHeader, execLoadChunk]
  | 0x0202 => [execLoadAbort]
  | 0x0301 => [execRun]
  | 0x0302 => [execFreeze]
  | 0x0303 => [execSetWdog]
  | 0x0401 => [execFlowHoldings]
  | 0x0402 => [execTaskKick]
  | 0x0403 => [execFlowTallies]
  | 0x0501 => [execAcqArm]
  | 0x0502 => [execAcqDisarm]
  | 0x0503 => [execAcqForce]
  | 0x0504 => [execAcqRead]
  | 0x0505 => [execAcqProgram]
  | 0x0601 => [execRingInfo]
  | 0x0602 => [execRingRollback]
  | 0x0D01 => [execDiagRegRead]
  | 0x0D02 => [execDiagMemRead]
  | 0x0D03 => [execDiagMemWrite]
  | _ => []

def State.runOpcode (s : State) (op : Nat) (c : Cmd) : State := (meaningsOf op).foldl (fun s f => after (f c s) s) s

/-! ### Halting (R302) -/

/-- A halting failure: its completion carries the next sequence number, which stays unused. -/
def State.halt (s : State) (n opcode tag pasture status : Nat) (noIrq : Bool) : State :=
  let g : Prog := {
    ring := n, seq := (s.ring n).seq, tag := tag, opcode := opcode, pasture := pasture, session := false, noIrq := noIrq,
    key := [], live := true }
  let s := s.writeCpl (plainJob g status (if status / 256 = 1 then leBytes 4 0xFFFFFFFF else []))
  (s.modRing n (fun r => { r with halted := true })).devEvent evCrHalt

def State.haltAt (s : State) (n : Nat) (h : List Byte) (status : Nat) : State :=
  s.halt n (fieldAt h 0 2) (fieldAt h 4 4) (fieldAt h 8 1) status (bitOf (fieldAt h 2 2) 2)

/-- A packet whose header did not arrive: what the completion copies from it is open (DESIGN CHOICE, log 6). -/
def State.haltUnread (s : State) (n : Nat) : State :=
  let (op, s) := s.logAer.draw 16
  let (tag, s) := s.draw 32
  let (p, s) := s.draw 8
  s.halt n op tag p 0x060E false

/-! ### Taking a packet -/

/-- Units that TAIL covers from HEAD. -/
def CmdRing.offered (r : CmdRing) : Nat := wrapSub 32 r.cmdTail r.cmdHead

def State.advanceRing (s : State) (n len : Nat) : State :=
  s.modRing n (fun r => { r with cmdHead := wrapTo 32 (r.cmdHead + len) })

/-- The packet of a header and what follows it, with its parameters as carried. -/
def packetCmd (n : Nat) (h body : List Byte) : Cmd :=
  let flags := fieldAt h 2 2
  { ring := n, tag := fieldAt h 4 4, pasture := fieldAt h 8 1, session := bitOf flags 0, fence := bitOf flags 1,
    noIrq := bitOf flags 2, params := if bitOf flags 0 then body.take (body.length - 16) else body }

/-- A packet refused before its card is reached; it was not authenticated. -/
def State.refusePacket (s : State) (n len op : Nat) (c : Cmd) (status : Nat) : State :=
  let (g, s) := (s.advanceRing n len).begin_ c op false
  s.refuse g status 0xFFFFFFFF

/-- The parameters in the clear, where the packet is to be authenticated (R300). -/
def State.openParams (s : State) (n : Nat) (h body : List Byte) (c : Cmd) : Option (List Byte) :=
  if body.length < 16 then none
  else gcmOpen (s.ringKey n) (cmdIv n 0 (s.ring n).seq) h c.params (body.drop (body.length - 16))

/-- Checks 3 and later of Table 11-9; `none` where the packet waits. -/
def State.judgePacket (s : State) (n len : Nat) (h body : List Byte) : Option State :=
  let op := fieldAt h 0 2
  let c := packetCmd n h body
  if op = 0 ∧ fieldAt h 2 2 = 0 ∧ c.pasture = 0xFF then some (s.advanceRing n len)
  else
    let verdict := s.modeVerdict (((cardOf op).map Card.modes).getD "")
    if ¬ s.ringServes n c.fence ∨ verdict = .wait then none
    else if op = 0 ∨ 8 ≤ fieldAt h 2 2 ∨ fieldAt h 11 3 ≠ 0 then some (s.refusePacket n len op c 0x0101)
    else match cardOf op with
      | none => some (s.refusePacket n len op c 0x0103)
      | some card =>
        if ¬ s.takes card c then none
        else if c.session ∧ (s.ring n).bound.isSome ∧ verdict = .take then
          match s.openParams n h body c with
          | none => some (s.refusePacket n len op c 0x0405)
          | some ps =>
            let c := { c with params := ps }
            if op = 0x0801 ∧ s.releaseWaits c then none else some ((s.advanceRing n len).runOpcode op c)
        else some ((s.advanceRing n len).runOpcode op c)

/-- The packet at HEAD; `none` where the ring gives nothing now. -/
def State.intakeOne (s : State) (n : Nat) : Option State :=
  let r := s.ring n
  let size := 2 ^ r.cmdLog2
  let o := 8 * r.cmdHead % size
  let a := r.cmdBase + o
  if r.offered < 2 ∨ ¬ s.ringServes n false then none
  else if s.hostBad a 16 then some (s.haltUnread n)
  else
    let h := s.hostRead a 16
    let len := fieldAt h 9 2
    if crc32c (h.take 14) % 65536 ≠ fieldAt h 14 2 then some (s.haltAt n h 0x0107)
    else if len < 2 ∨ size < o + 8 * len then some (s.haltAt n h 0x0106)
    else if r.offered < len then none
    else if s.hostBad a (8 * len) then some (s.logAer.haltAt n h 0x060E)
    else s.judgePacket n len h (s.hostRead (a + 16) (8 * len - 16))

/-- Take packets while the ring gives one. -/
def State.intake (s : State) (n : Nat) : Nat → State
  | 0 => s
  | k + 1 => match s.intakeOne n with
    | some t => t.intake n k
    | none => s

def State.serveRing (s : State) (n : Nat) : State := s.intake n (s.ring n).offered
def State.serveRings (s : State) : State := (s.host.rings.map Prod.fst).foldl (fun s n => s.serveRing n) s

/-- A PAD is passed over (R296). -/
def execPad (ring words : Nat) (s : State) : Host.Outcome State Fault Refusal :=
  .next (
    let r := s.ring ring
    if s.ringServes ring false ∧ 2 ≤ words ∧ words ≤ r.offered ∧ 8 * r.cmdHead % 2 ^ r.cmdLog2 + 8 * words ≤ 2 ^ r.cmdLog2 then
      s.advanceRing ring words
    else s)

end Sys2Proof.Machine
end

