-- ==== Sys2Proof/Machine/Window.lean ====
section
/-!
DEFINITION. Writes of window W0: the ring registers, doorbells, status bits, the MSI-X table and everything else a host write
reaches (R11, R215, R290–R295, R302, R311, R382, R463).
-/

namespace Sys2Proof.Machine

open Sys2Proof

/-- Whether the function answers accesses of W0. -/
def State.w0Open (s : State) : Bool := s.host.fnReady && !s.host.d3hot && s.dev.mode != .off

/-- A write of W0 that the function answers: it may end a ladder step first (Table 17-5). -/
def State.w0Write (s : State) (e : LadderEvent) (act : State → State) : State := if s.w0Open then act (s.ladderEvent e) else s

/-! ### Ring registers (Table 11-7) -/

/-- The ring was offered a TAIL that moves backwards or overruns it, or a HEAD past the entries written. -/
def State.badDoorbell (s : State) (n : Nat) : State := s.modRing n (fun r => { r with badDoorbell := true })

/-- CR_CMD_TAIL (R294). -/
def State.setTail (s : State) (n value : Nat) : State :=
  let r := s.ring n
  let v := wrapTo 32 value
  let d := wrapSub 32 v r.cmdHead
  if d < r.offered ∨ 2 ^ r.cmdLog2 / 8 < d then s.badDoorbell n
  else (s.modRing n (fun r => { r with cmdTail := v })).serveRing n

/-- CR_CPL_HEAD (R294). -/
def State.setCplHead (s : State) (n value : Nat) : State :=
  let r := s.ring n
  let v := wrapTo 32 value
  if wrapSub 32 r.cplTail r.cplHead < wrapSub 32 v r.cplHead then s.badDoorbell n
  else (s.modRing n (fun r => { r with cplHead := v })).serveRing n

/-- The bytes that the host wrote into its ring before it moved TAIL, from the old TAIL on, past the end from the base again. -/
def State.placePackets (s : State) (n : Nat) (bs : List Byte) : State :=
  let r := s.ring n
  let size := 2 ^ r.cmdLog2
  let o := 8 * r.cmdTail % size
  let room := size - o
  let s := s.hostWrite (r.cmdBase + o) (bs.take room)
  if bs.length ≤ room then s else s.hostWrite r.cmdBase (bs.drop room)

/-- CR_CTRL: the sizes of a ring that is not enabled, then ENABLE (R293). -/
def State.setCtrl (s : State) (n value : Nat) : State :=
  let r := s.ring n
  if bitOf value 0 then
    if r.enable then s
    else
      let s := s.modRing n (fun r => { r with cmdLog2 := bitsOf value 8 5, cplLog2 := bitsOf value 16 4 })
      let r := s.ring n
      if s.inProgress n = 0 ∧ 12 ≤ r.cmdLog2 ∧ r.cmdLog2 ≤ 22 ∧ 4 ≤ r.cplLog2 ∧ r.cplLog2 ≤ 14 then
        (s.modRing n (fun r => { r with
          enable := true, cmdTail := 0, cmdHead := 0, cplHead := 0, cplTail := 0, seq := 0, bound := none })).sweepSessions
      else s.modRing n (fun r => { r with configErr := true })
  else if r.enable then ((s.modRing n (fun r => { r with enable := false })).quiesceRing n).sweepSessions
  else s.modRing n (fun r => { r with cmdLog2 := bitsOf value 8 5, cplLog2 := bitsOf value 16 4 })

/-- HALTED written 1: intake resumes at HEAD (R302). -/
def State.clearHalted (s : State) (n : Nat) : State := (s.modRing n (fun r => { r with halted := false })).serveRing n

/-- The host writes packets and then CR_CMD_TAIL; the device takes what it can of them at once. -/
def execCrCmdTailWrite (ring value : Nat) (bytes : List Byte) (s : State) : Host.Outcome State Fault Refusal :=
  .next ((s.placePackets ring bytes).w0Write .doorbell (fun s => s.setTail ring value))

def execCrCplHeadWrite (ring value : Nat) (s : State) : Host.Outcome State Fault Refusal :=
  .next (s.w0Write .w0Access (fun s => s.setCplHead ring value))

/-- A write of CR_CTRL with ENABLE 1. -/
def execCrCtrlEnableSet (ring value : Nat) (s : State) : Host.Outcome State Fault Refusal :=
  .next (s.w0Write .w0Access (fun s => s.setCtrl ring (value / 2 * 2 + 1)))

/-- A write of CR_CTRL with ENABLE 0 and the sizes as they stand. -/
def execCrCtrlEnableClear (ring : Nat) (s : State) : Host.Outcome State Fault Refusal :=
  .next (s.w0Write .w0Access (fun s =>
    s.setCtrl ring (packFields [(8, 5, (s.ring ring).cmdLog2), (16, 4, (s.ring ring).cplLog2)])))

def execCrStatusHaltedClear (ring : Nat) (s : State) : Host.Outcome State Fault Refusal :=
  .next (s.w0Write .w0Access (fun s => s.clearHalted ring))

/-- A flow doorbell (R215). -/
def execFlowDoorbellWrite (queue size value : Nat) (s : State) : Host.Outcome State Fault Refusal :=
  .next (s.w0Write .doorbell (fun s => s.doorbell queue size value))

/-- VALID of PASTURE_ASSERT_0 written 1 (R196). -/
def execAssertValidClear (pasture : Nat) (s : State) : Host.Outcome State Fault Refusal :=
  .next (s.w0Write .w0Access (fun s => s.clearAssert pasture))

/-- A misaligned or wrong-size access: a read returns zero, a write is ignored, and BAD_ACCESS is set (R290). -/
def execW0BadAccess (_write : Bool) (s : State) : Host.Outcome State Fault Refusal :=
  .next (s.w0Write .w0Access (fun s => s.devEvent evBadAccess))

/-! ### Other registers -/

/-- A W1C field. -/
def clearBits {w : Nat} (x : BitVec w) (value : Nat) : BitVec w := x &&& ~~~(BitVec.ofNat w value)

/-- A 4-byte or 8-byte write merged into an 8-byte register: `off` is the byte offset in it. -/
def mergeWrite (old off size value : Nat) : Nat :=
  leNat ((List.range 8).map (fun i =>
    if off ≤ i ∧ i < off + size then (leBytes 8 value).getD (i - off) 0 else (leBytes 8 old).getD i 0))

/-- What a write of `size` bytes at byte `off` of an 8-byte register writes to a W1C register: ones only where it writes. -/
def onesWritten (off size value : Nat) : Nat := mergeWrite 0 off size value

/-- RESET_CAUSE (Table 18-8). -/
def ResetCause.clear (c : ResetCause) (v : Nat) : ResetCause :=
  { c with
    cause := (clearBits (BitVec.ofNat 9 c.cause) v).toNat
    ccWdog := c.ccWdog && !bitOf v 20
    ccLockup := c.ccLockup && !bitOf v 21 }

/-- The identity and status block. -/
def State.writeIdent (s : State) (reg off size value : Nat) : State :=
  let v := onesWritten off size value
  if reg = 0x048 then s.modDev (fun d => { d with events := clearBits d.events v })
  else if reg = 0x058 then s.modDev (fun d => { d with cause := d.cause.clear v })
  else if 0x800 ≤ reg then
    let p := (reg - 0x800) / 128
    match (reg - 0x800) % 128 with
    | 0x20 => if bitOf v 36 then s.clearAssert p else s
    | 0x38 => s.modStat p (fun t => { t with events := clearBits t.events v })
    | _ => s
  else s

/-- CR_STATUS: HALTED, CONFIG_ERR and BAD_DOORBELL. -/
def State.clearStatus (s : State) (n v : Nat) : State :=
  let s := s.modRing n (fun r => { r with configErr := r.configErr && !bitOf v 2, badDoorbell := r.badDoorbell && !bitOf v 3 })
  if bitOf v 1 ∧ (s.ring n).halted then s.clearHalted n else s

/-- A ring's register block; base registers are ignored while ENABLE is 1 (R293). -/
def State.writeRing (s : State) (n reg off size value : Nat) : State :=
  let r := s.ring n
  let base (old : Nat) : Nat := mergeWrite old off size value / 4096 * 4096
  let low : Bool := off == 0
  match reg with
  | 0x00 => if r.enable then s else s.modRing n (fun r => { r with cmdBase := base r.cmdBase })
  | 0x08 => if r.enable then s else s.modRing n (fun r => { r with cplBase := base r.cplBase })
  | 0x10 => if low then s.setCtrl n value else s
  | 0x18 => if low then s.setTail n value else s
  | 0x28 => if low then s.setCplHead n value else s
  | 0x38 => s.clearStatus n (onesWritten off size value)
  | _ => s

/-- TIME_STATUS (Table 14-7). -/
def State.writeTime (s : State) (reg off size value : Nat) : State :=
  let v := onesWritten off size value
  if reg = 0x10 then s.modTime (fun t => { t with jumpRefused := t.jumpRefused && !bitOf v 3, gmChanged := t.gmChanged && !bitOf v 4 })
  else s

/-- An MSI-X table entry (PCIe 5.0): a vector that is unmasked sends the message it kept pending. -/
def State.writeMsix (s : State) (v half off size value : Nat) : State :=
  if half = 0 then s.modMsix v (fun m => { m with addr := mergeWrite m.addr off size value / 4 * 4 })
  else
    let w (m : Msix) : Nat := mergeWrite (m.data + 2 ^ 32 * b2n m.masked) off size value
    (s.modMsix v (fun m => { m with data := w m % 2 ^ 32, masked := bitOf (w m) 32 })).flushVector v

/-- A write at an offset of W0 by its register's access code (Tables 11-1, 0-4); a reserved offset ignores it. -/
def State.writeW0 (s : State) (offset size value : Nat) : State :=
  let off := offset % 8
  let reg := offset - off
  if offset < 0x1000 then s.writeIdent reg off size value
  else if offset < 0x2000 then s.writeRing ((reg - 0x1000) / 64) ((reg - 0x1000) % 64) off size value
  else if 0x10000 ≤ offset ∧ offset < 0x30000 then s.doorbell ((reg - 0x10000) / 8) (if off = 0 then size else 4) value
  else if 0x40000 ≤ offset ∧ offset < 0x50000 then s.writeTime (reg - 0x40000) off size value
  else if 0x50000 ≤ offset ∧ offset < 0x58000 then s.writeMsix ((reg - 0x50000) / 16) ((reg - 0x50000) % 16 / 8) off size value
  else s

/-- The ladder event of a write: doorbells and TAIL are doorbells. -/
def w0Event (offset : Nat) : LadderEvent :=
  if (0x10000 ≤ offset ∧ offset < 0x30000) ∨ (0x1000 ≤ offset ∧ offset < 0x2000 ∧ offset % 64 / 8 = 3) then .doorbell else .w0Access

/-- A debug override releases an island from reset before its clock is stable: until its monitor has counted 1,024 stable cycles the
boundaries of the island are not ready (R99, R454). An island is in reset until stage 3 of a start has ended (R453, Table 18-5), and one of a disabled
fold is never started (R3). -/
def State.overrideIsland (s : State) (i : Nat) : State :=
  if s.dev.mode = .boot ∧ s.dev.boot.stage ≤ 3 ∧ i < 608 ∧ ¬ (i < Config.numFolds ∧ s.ident.absent.contains (i / 2)) then
    s.modDev (fun d => { d with early := tput d.early 0 i 1024 })
  else s

/-- A write into the open diagnostic window: a debug override acts; what else the vendor's test structures do there is no part of the manual
(R423). -/
def State.windowWrite (s : State) (offset value : Nat) : Host.Outcome State Fault Refusal :=
  match Config.windowOverride offset value with
  | some i => .next (s.overrideIsland i)
  | none => .refused .diagnosticWindow

/-- A write to a register field. An access that R290 refuses sets BAD_ACCESS; one outside BAR0 is only logged in AER (R366); the diagnostic
window, where it is open, is the vendor's (R423, R454). -/
def execRegisterWrite (offset size value : Nat) (s : State) : Host.Outcome State Fault Refusal :=
  if ¬ s.w0Open then .next s
  else if 0x400000 ≤ offset then .next s.logUr
  else if (size ≠ 4 ∧ size ≠ 8) ∨ offset % size ≠ 0 then .next (s.w0Write .w0Access (fun s => s.devEvent evBadAccess))
  else if 0x100000 ≤ offset then
    if s.diagOpen then (s.ladderEvent .w0Access).windowWrite offset (value % 2 ^ (8 * size)) else .next (s.ladderEvent .w0Access)
  else .next (s.w0Write (w0Event offset) (fun s => s.writeW0 offset size (value % 2 ^ (8 * size))))

end Sys2Proof.Machine
end

