-- ==== Sys2Proof/Machine/Dispatch.lean ====
section
/-!
DEFINITION. One arm per command of the table: each calls the command's meaning.
-/

namespace Sys2Proof.Machine

def exec (i : Instr) (s : State) : Host.Outcome State Fault Refusal :=
  match i with
  | .pad ring words => Sys2Proof.Machine.execPad ring words s
  | .deviceInfo c => Sys2Proof.Machine.execDeviceInfo c s
  | .echo c => Sys2Proof.Machine.execEcho c s
  | .fwStage c => Sys2Proof.Machine.execFwStage c s
  | .fwActivate c => Sys2Proof.Machine.execFwActivate c s
  | .wipe c => Sys2Proof.Machine.execWipe c s
  | .laneBringup c => Sys2Proof.Machine.execLaneBringup c s
  | .laneRetrain c => Sys2Proof.Machine.execLaneRetrain c s
  | .laneTakeDown c => Sys2Proof.Machine.execLaneTakeDown c s
  | .laneEq c => Sys2Proof.Machine.execLaneEq c s
  | .laneBitslip c => Sys2Proof.Machine.execLaneBitslip c s
  | .laneLoopback c => Sys2Proof.Machine.execLaneLoopback c s
  | .laneStatus c => Sys2Proof.Machine.execLaneStatus c s
  | .fabricRelease c => Sys2Proof.Machine.execFabricRelease c s
  | .powerCap c => Sys2Proof.Machine.execPowerCap c s
  | .clockFloor c => Sys2Proof.Machine.execClockFloor c s
  | .ladderSelect c => Sys2Proof.Machine.execLadderSelect c s
  | .padRelease c => Sys2Proof.Machine.execPadRelease c s
  | .timeAccept c => Sys2Proof.Machine.execTimeAccept c s
  | .timeConfig c => Sys2Proof.Machine.execTimeConfig c s
  | .attest c => Sys2Proof.Machine.execAttest c s
  | .sessionOpen c => Sys2Proof.Machine.execSessionOpen c s
  | .sessionRebind c => Sys2Proof.Machine.execSessionRebind c s
  | .sessionClose c => Sys2Proof.Machine.execSessionClose c s
  | .lcTransition c => Sys2Proof.Machine.execLcTransition c s
  | .traceArm c => Sys2Proof.Machine.execTraceArm c s
  | .traceDisable c => Sys2Proof.Machine.execTraceDisable c s
  | .traceStop c => Sys2Proof.Machine.execTraceStop c s
  | .probeConfig c => Sys2Proof.Machine.execProbeConfig c s
  | .traceRead c => Sys2Proof.Machine.execTraceRead c s
  | .unload c => Sys2Proof.Machine.execUnload c s
  | .loadHeader c => Sys2Proof.Machine.execLoadHeader c s
  | .loadChunk c => Sys2Proof.Machine.execLoadChunk c s
  | .loadAbort c => Sys2Proof.Machine.execLoadAbort c s
  | .run c => Sys2Proof.Machine.execRun c s
  | .freeze c => Sys2Proof.Machine.execFreeze c s
  | .setWdog c => Sys2Proof.Machine.execSetWdog c s
  | .flowHoldings c => Sys2Proof.Machine.execFlowHoldings c s
  | .taskKick c => Sys2Proof.Machine.execTaskKick c s
  | .flowTallies c => Sys2Proof.Machine.execFlowTallies c s
  | .acqArm c => Sys2Proof.Machine.execAcqArm c s
  | .acqDisarm c => Sys2Proof.Machine.execAcqDisarm c s
  | .acqForce c => Sys2Proof.Machine.execAcqForce c s
  | .acqRead c => Sys2Proof.Machine.execAcqRead c s
  | .acqProgram c => Sys2Proof.Machine.execAcqProgram c s
  | .ringInfo c => Sys2Proof.Machine.execRingInfo c s
  | .ringRollback c => Sys2Proof.Machine.execRingRollback c s
  | .diagRegRead c => Sys2Proof.Machine.execDiagRegRead c s
  | .diagMemRead c => Sys2Proof.Machine.execDiagMemRead c s
  | .diagMemWrite c => Sys2Proof.Machine.execDiagMemWrite c s
  | .crCmdTailWrite ring value bytes => Sys2Proof.Machine.execCrCmdTailWrite ring value bytes s
  | .crCplHeadWrite ring value => Sys2Proof.Machine.execCrCplHeadWrite ring value s
  | .crCtrlEnableSet ring value => Sys2Proof.Machine.execCrCtrlEnableSet ring value s
  | .crCtrlEnableClear ring => Sys2Proof.Machine.execCrCtrlEnableClear ring s
  | .crStatusHaltedClear ring => Sys2Proof.Machine.execCrStatusHaltedClear ring s
  | .flowDoorbellWrite queue size value => Sys2Proof.Machine.execFlowDoorbellWrite queue size value s
  | .assertValidClear pasture => Sys2Proof.Machine.execAssertValidClear pasture s
  | .w0BadAccess write => Sys2Proof.Machine.execW0BadAccess write s
  | .registerWrite offset size value => Sys2Proof.Machine.execRegisterWrite offset size value s
  | .nop fold bp => Sys2Proof.Machine.execNop fold bp s
  | .eval fold bp => Sys2Proof.Machine.execEval fold bp s
  | .evals fold bp => Sys2Proof.Machine.execEvals fold bp s
  | .evale fold bp => Sys2Proof.Machine.execEvale fold bp s
  | .check fold bp => Sys2Proof.Machine.execCheck fold bp s
  | .copy fold bp => Sys2Proof.Machine.execCopy fold bp s
  | .xonly fold bp => Sys2Proof.Machine.execXonly fold bp s
  | .scratchpadRd fold b => Sys2Proof.Machine.execScratchpadRd fold b s
  | .scratchpadWr fold b => Sys2Proof.Machine.execScratchpadWr fold b s
  | .scratchpadSet fold b => Sys2Proof.Machine.execScratchpadSet fold b s
  | .scratchpadClr fold b => Sys2Proof.Machine.execScratchpadClr fold b s
  | .scratchpadWide fold b => Sys2Proof.Machine.execScratchpadWide fold b s
  | .scratchpadAccess pair pad => Sys2Proof.Machine.execScratchpadAccess pair pad s
  | .channelSend fold k => Sys2Proof.Machine.execChannelSend fold k s
  | .channelReceive fold k => Sys2Proof.Machine.execChannelReceive fold k s
  | .channelWordArrival pasture chan => Sys2Proof.Machine.execChannelWordArrival pasture chan s
  | .dmRd fold => Sys2Proof.Machine.execDmRd fold s
  | .dmWr fold => Sys2Proof.Machine.execDmWr fold s
  | .dmWrm fold => Sys2Proof.Machine.execDmWrm fold s
  | .dmWordReturn fold entry => Sys2Proof.Machine.execDmWordReturn fold entry s
  | .dmWriteAccept fold => Sys2Proof.Machine.execDmWriteAccept fold s
  | .barrierArrival fold => Sys2Proof.Machine.execBarrierArrival fold s
  | .stateFinal fold => Sys2Proof.Machine.execStateFinal fold s
  | .probeLatch fold => Sys2Proof.Machine.execProbeLatch fold s
  | .stallCheck fold => Sys2Proof.Machine.execStallCheck fold s
  | .barrierRelease pasture => Sys2Proof.Machine.execBarrierRelease pasture s
  | .flowTake pasture => Sys2Proof.Machine.execFlowTake pasture s
  | .cycStart port => Sys2Proof.Machine.execCycStart port s
  | .watchdogExpiry pasture => Sys2Proof.Machine.execWatchdogExpiry pasture s
  | .scrubRead fold found => Sys2Proof.Machine.execScrubRead fold found s
  | .scrubRewrite fold copyGood => Sys2Proof.Machine.execScrubRewrite fold copyGood s
  | .ringComplete pasture => Sys2Proof.Machine.execRingComplete pasture s
  | .controlFault src => Sys2Proof.Machine.execControlFault src s
  | .recoveryComplete pasture durationNs => Sys2Proof.Machine.execRecoveryComplete pasture durationNs s
  | .edgePortWordIn port chan word => Sys2Proof.Machine.execEdgePortWordIn port chan word s
  | .edgePortWordOut port chan => Sys2Proof.Machine.execEdgePortWordOut port chan s
  | .epFclkStart port => Sys2Proof.Machine.execEpFclkStart port s
  | .taskDispatch engine => Sys2Proof.Machine.execTaskDispatch engine s
  | .taskRunComplete engine hostErrorAt ns => Sys2Proof.Machine.execTaskRunComplete engine hostErrorAt ns s
  | .acqCapture pasture => Sys2Proof.Machine.execAcqCapture pasture s
  | .snapshotComplete pasture => Sys2Proof.Machine.execSnapshotComplete pasture s
  | .timeBaseWrap => Sys2Proof.Machine.execTimeBaseWrap s
  | .sync port lane twoStep t1 corr => Sys2Proof.Machine.execSync port lane twoStep t1 corr s
  | .followUp port t1 corr => Sys2Proof.Machine.execFollowUp port t1 corr s
  | .delayResp port t4 corr => Sys2Proof.Machine.execDelayResp port t4 corr s
  | .announce port a => Sys2Proof.Machine.execAnnounce port a s
  | .delayReq port lane => Sys2Proof.Machine.execDelayReq port lane s
  | .holdoverTimeout => Sys2Proof.Machine.execHoldoverTimeout s
  | .statusDatagramRequest port src payload => Sys2Proof.Machine.execStatusDatagramRequest port src payload s
  | .ethFrameDropped port badFcs => Sys2Proof.Machine.execEthFrameDropped port badFcs s
  | .dataBlock link syncHeader payload => Sys2Proof.Machine.execDataBlock link syncHeader payload s
  | .linkIdle link => Sys2Proof.Machine.execLinkIdle link s
  | .skip link repeated => Sys2Proof.Machine.execSkip link repeated s
  | .linkAck link cseq => Sys2Proof.Machine.execLinkAck link cseq s
  | .linkNak link cseq => Sys2Proof.Machine.execLinkNak link cseq s
  | .replayTimeout link => Sys2Proof.Machine.execReplayTimeout link s
  | .cap link cseq body => Sys2Proof.Machine.execCap link cseq body s
  | .join link cseq body => Sys2Proof.Machine.execJoin link cseq body s
  | .chancount link cseq body => Sys2Proof.Machine.execChancount link cseq body s
  | .arrive link cseq body => Sys2Proof.Machine.execArrive link cseq body s
  | .assertCount link cseq body => Sys2Proof.Machine.execAssertCount link cseq body s
  | .linkRelease link cseq body => Sys2Proof.Machine.execLinkRelease link cseq body s
  | .linkFault link cseq body => Sys2Proof.Machine.execLinkFault link cseq body s
  | .linkUnload link cseq body => Sys2Proof.Machine.execLinkUnload link cseq body s
  | .credit link cseq body => Sys2Proof.Machine.execCredit link cseq body s
  | .tag link cseq n body => Sys2Proof.Machine.execTag link cseq n body s
  | .trainMark port ready => Sys2Proof.Machine.execTrainMark port ready s
  | .detectPoll lane seen => Sys2Proof.Machine.execDetectPoll lane seen s
  | .trainScanComplete lane coarse hMargin vMargin => Sys2Proof.Machine.execTrainScanComplete lane coarse hMargin vMargin s
  | .marginCheck lane hMargin vMargin => Sys2Proof.Machine.execMarginCheck lane hMargin vMargin s
  | .linkLostTimeout link => Sys2Proof.Machine.execLinkLostTimeout link s
  | .nocRd p => Sys2Proof.Machine.execNocRd p s
  | .nocWr p => Sys2Proof.Machine.execNocWr p s
  | .setw p => Sys2Proof.Machine.execSetw p s
  | .clrw p => Sys2Proof.Machine.execClrw p s
  | .bulkRd p => Sys2Proof.Machine.execBulkRd p s
  | .regRd p => Sys2Proof.Machine.execRegRd p s
  | .regWr p => Sys2Proof.Machine.execRegWr p s
  | .ctl p => Sys2Proof.Machine.execCtl p s
  | .nocAck p => Sys2Proof.Machine.execNocAck p s
  | .rdData p => Sys2Proof.Machine.execRdData p s
  | .err p => Sys2Proof.Machine.execErr p s
  | .inv p => Sys2Proof.Machine.execInv p s
  | .snpAck p => Sys2Proof.Machine.execSnpAck p s
  | .bulkWr p => Sys2Proof.Machine.execBulkWr p s
  | .bulkData p => Sys2Proof.Machine.execBulkData p s
  | .serviceTimeout init txn => Sys2Proof.Machine.execServiceTimeout init txn s
  | .routerReconfigure router nets weights => Sys2Proof.Machine.execRouterReconfigure router nets weights s
  | .regulatorChange point net rate burst => Sys2Proof.Machine.execRegulatorChange point net rate burst s
  | .domainDecision domain tNextUs => Sys2Proof.Machine.execDomainDecision domain tNextUs s
  | .drainComplete domain => Sys2Proof.Machine.execDrainComplete domain s
  | .drainTimeout domain init => Sys2Proof.Machine.execDrainTimeout domain init s
  | .wakeComplete domain => Sys2Proof.Machine.execWakeComplete domain s
  | .retLost domain => Sys2Proof.Machine.execRetLost domain s
  | .ladderLeave e => Sys2Proof.Machine.execLadderLeave e s
  | .thermalStep die tj => Sys2Proof.Machine.execThermalStep die tj s
  | .powerCapStep watts die => Sys2Proof.Machine.execPowerCapStep watts die s
  | .junctionLimit die tj => Sys2Proof.Machine.execJunctionLimit die tj s
  | .thermTimeout die tj => Sys2Proof.Machine.execThermTimeout die tj s
  | .voltageSettle die acked => Sys2Proof.Machine.execVoltageSettle die acked s
  | .pmbAlert die statusWord => Sys2Proof.Machine.execPmbAlert die statusWord s
  | .vccoLoss bank mv => Sys2Proof.Machine.execVccoLoss bank mv s
  | .supplyWarning die => Sys2Proof.Machine.execSupplyWarning die s
  | .supplyReturn => Sys2Proof.Machine.execSupplyReturn s
  | .holdTimeout => Sys2Proof.Machine.execHoldTimeout s
  | .por => Sys2Proof.Machine.execPor s
  | .bod rail => Sys2Proof.Machine.execBod rail s
  | .resetN lowNs => Sys2Proof.Machine.execResetN lowNs s
  | .wake pulseNs => Sys2Proof.Machine.execWake pulseNs s
  | .dbgreq => Sys2Proof.Machine.execDbgreq s
  | .clkfail island => Sys2Proof.Machine.execClkfail island s
  | .bootStart => Sys2Proof.Machine.execBootStart s
  | .bootStageComplete r => Sys2Proof.Machine.execBootStageComplete r s
  | .bootWatchdog => Sys2Proof.Machine.execBootWatchdog s
  | .ccWatchdog core within10s => Sys2Proof.Machine.execCcWatchdog core within10s s
  | .ccLockup core within10s => Sys2Proof.Machine.execCcLockup core within10s s
  | .ccRestartComplete => Sys2Proof.Machine.execCcRestartComplete s
  | .svnRaise => Sys2Proof.Machine.execSvnRaise s
  | .unloadWipeComplete pasture => Sys2Proof.Machine.execUnloadWipeComplete pasture s
  | .eraseComplete => Sys2Proof.Machine.execEraseComplete s
  | .pcieFunctionReset k => Sys2Proof.Machine.execPcieFunctionReset k s
  | .d3hotEntry => Sys2Proof.Machine.execD3hotEntry s
  | .d0Return => Sys2Proof.Machine.execD0Return s
  | .extest pins => Sys2Proof.Machine.execExtest pins s
  | .idcode => Sys2Proof.Machine.execIdcode s
  | .samplePreload cells => Sys2Proof.Machine.execSamplePreload cells s
  | .clamp => Sys2Proof.Machine.execClamp s
  | .highz => Sys2Proof.Machine.execHighz s
  | .bypass code => Sys2Proof.Machine.execBypass code s
  | .traceStartEvent bit => Sys2Proof.Machine.execTraceStartEvent bit s
  | .traceStopEvent bit => Sys2Proof.Machine.execTraceStopEvent bit s
  | .traceStoppingComplete => Sys2Proof.Machine.execTraceStoppingComplete s
  | .traceTimeTimer core => Sys2Proof.Machine.execTraceTimeTimer core s
  | .traceOverflow core => Sys2Proof.Machine.execTraceOverflow core s
  | .blockLock lane => Sys2Proof.Machine.execBlockLock lane s
  | .crcFailure link badHeader => Sys2Proof.Machine.execCrcFailure link badHeader s
  | .protocolError link => Sys2Proof.Machine.execProtocolError link s
  | .trainBoundExpiry port => Sys2Proof.Machine.execTrainBoundExpiry port s
  | .vccoGood bank mv => Sys2Proof.Machine.execVccoGood bank mv s
  | .globalLineStart region line => Sys2Proof.Machine.execGlobalLineStart region line s
  | .ccRestartTimeout => Sys2Proof.Machine.execCcRestartTimeout s
  | .msixVectorUnmask vector => Sys2Proof.Machine.execMsixVectorUnmask vector s
  | .droverCoreInstruction core pc k => Sys2Proof.Machine.execDroverCoreInstruction core pc k s

end Sys2Proof.Machine
end

