-- ==== Sys2Proof/Machine/Fabric.lean ====
section
/-!
DEFINITION. The user logic of the edge fabric: logic cells with their LUTs, LUT RAMs and flip-flops, the wires between them, the global
clock lines, the terminals, and the signals of the edge ports (R384–R391, R395–R400, R404, R405).
-/

namespace Sys2Proof.Machine

open Sys2Proof

/-! ### Cells and wires (R384–R386) -/

/-- The number of a wire by its origin tile and index. -/
def wireKey (c r j : Nat) : Option Nat := (wireOrigin c r j).map (fun o => 2048 * o.1 + 16 * o.2 + j % 16)

/-- A tap reads its wire; a wire that nothing drives reads 0. `t` numbers a tile as 128·column + row. -/
def tapVal (w : Tab Bool) (t j : Nat) : Bool :=
  match wireKey (t / 128) (t % 128) j with
  | some k => tget w false k
  | none => false

/-- i = 32f + 16e + 8d + 4c + 2b + a. -/
def lutAddr (w : Tab Bool) (t cfg : Nat) : Nat :=
  (List.range 6).foldl (fun n k => n + 2 ^ k * b2n (tapVal w t (tileLutSel cfg k))) 0

/-- The bits the LUT of a tile reads: its truth table, or in MODE 1 its RAM. -/
def Region.lutBits (x : Region) (t cfg : Nat) : Nat := if tileMode cfg = 1 then tget x.rams 0 t else bitsOf cfg 0 64

/-- The LUT output. -/
def Region.lutOut (x : Region) (w : Tab Bool) (t cfg : Nat) : Bool := bitOf (x.lutBits t cfg) (lutAddr w t cfg)

/-- The value of flip-flop `k` of a tile. -/
def Region.ff (x : Region) (t k : Nat) : Bool := tget x.ffs false (2 * t + k)

/-- The source of a driver point (Table 15-1). -/
def Region.source (x : Region) (w : Tab Bool) (t cfg src : Nat) : Bool :=
  if src = 0 then x.lutOut w t cfg
  else if src = 1 then x.ff t 0
  else if src = 2 then x.ff t 1
  else if src = 4 then true
  else if 5 ≤ src ∧ src ≤ 68 then tapVal w t (src - 5)
  else if src = 69 then tget x.termIn false t
  else false

/-- The wires that a tile drives to 1. -/
def Region.tileHigh (x : Region) (w : Tab Bool) (t cfg : Nat) : List Nat :=
  (List.range 64).filterMap (fun j =>
    let d := tileDrv cfg j
    if drvEn d && x.source w t cfg (drvSrc d) then wireKey (t / 128) (t % 128) j else none)

/-- The wires, each driven from the values `w`. -/
def Region.drive (x : Region) (w : Tab Bool) : Tab Bool :=
  (x.tiles.flatMap (fun e => x.tileHigh w e.1 e.2)).foldl (fun t k => tput t false k true) []

/-- The wires once the values no longer change, within a bound that every network without a loop keeps. -/
def Region.settle (x : Region) : Nat → Tab Bool → Tab Bool
  | 0, w => w
  | n + 1, w =>
    let w' := x.drive w
    if w' = w then w else x.settle n w'

/-- The terminal outputs at 1: forced to 0 while the region is not RELEASED (R395). -/
def Region.outputs (x : Region) (w : Tab Bool) : Tab Bool :=
  if x.state = .released then
    (x.tiles.filter (fun e => tileTermEn e.2 && tapVal w e.1 (tileTermSel e.2))).map (fun e => (e.1, true))
  else []

/-! ### Clocks (R389, R397) -/

/-- Whether a flip-flop of a region captures on an edge of its clock: it is used, freed, past the third edge after the release point, and its
enable is 1. -/
def Region.captures (x : Region) (t cfg k : Nat) : Bool :=
  let f := tileFf cfg k
  let clk := ffClk f
  ffUsed f && x.state == .released && x.freed.contains (min clk 16) && tget x.guard 0 clk == 0 &&
    (!ffCeUse f || tapVal x.wires t (ffCe f))

/-- The flip-flops of a tile whose clock rises, `up` saying which clocks do. -/
def risen (cfg : Nat) (up : Nat → Bool) : List Nat := (List.range 2).filter (fun k => up (ffClk (tileFf cfg k)))

/-- Flip-flops take the LUT output as D. -/
def Region.capture (x : Region) (up : Nat → Nat → Bool) : Region :=
  { x with ffs := x.tiles.foldl (fun ffs e =>
      (risen e.2 (up e.1)).foldl (fun ffs k =>
        if x.captures e.1 e.2 k then tput ffs false (2 * e.1 + k) (x.lutOut x.wires e.1 e.2) else ffs) ffs) x.ffs }

/-- The LUT RAMs that are written: MODE 1, on the clock of FF0 with its enable. -/
def Region.ramWrites (x : Region) (up : Nat → Nat → Bool) : List (Nat × Nat) :=
  (x.tiles.filter (fun e => tileMode e.2 == 1 && up e.1 (ffClk (tileFf e.2 0)) && x.captures e.1 e.2 0)).map (fun e =>
    (e.1, lutAddr x.wires e.1 e.2))

/-- Bit `i` of a RAM. -/
def ramPut (ram i b : Nat) : Nat := ram - 2 ^ i * (ram / 2 ^ i % 2) + 2 ^ i * b

/-- The edges of a region's clocks take effect: its flip-flops and LUT RAMs. Which bit a LUT RAM takes is not stated, and is a free value. -/
def State.clockCells (s : State) (r : Nat) (up : Nat → Nat → Bool) : State :=
  let x := s.region r
  (x.ramWrites up).foldl (fun s e =>
    let (b, s) := s.draw 1
    s.modRegion r (fun y => { y with rams := tmod y.rams 0 e.1 (fun m => ramPut m e.2 b) })) (s.modRegion r (fun y => y.capture up))

/-- Units of 0.05 ns: a tick, and the shortest period of a 200 MHz oscillator within 15 % with its range (R391). -/
def oscTick : Nat := 16
def oscShort : Nat := 85
def oscRange : Nat := 31

/-- One tick of an oscillator: the time to its next rising edge, whose distance is a free value. -/
def State.oscStep (s : State) (k : Nat) : State :=
  let n := s.edge.osc.getD k 0
  let (d, s) := s.draw 8
  s.modEdge (fun e => { e with osc := e.osc.set k (if n ≤ oscTick then n + oscShort + d % oscRange - oscTick else n - oscTick) })

/-- Whether an oscillator rises in this tick. -/
def Edge.oscRises (e : Edge) (k : Nat) : Bool := decide (e.osc.getD k 0 ≤ oscTick)

/-- The configuration of line `g` of die `d`. -/
def State.lineSource (s : State) (d g : Nat) : Nat := edgeGclk (s.region (8 * d + g / 2)).head (g % 2)

/-- Whether line `g` of die `d` rises in this tick, by its source: a pin's edges are the outside's (a free value), an oscillator's and those of the
interface clock divided by 4 or 5 its own, a terminal's those of its level. -/
def State.lineRises (s : State) (d g : Nat) : Bool × State :=
  let v := s.lineSource d g
  match bitsOf v 0 4 with
  | 1 =>
    let (b, s) := s.draw 1
    (b == 1, s)
  | 2 => (s.edge.oscRises (bitsOf v 4 4), s)
  | 3 => (s.edge.phase % 4 == 0, s)
  | 4 => (s.edge.phase % 5 == 0, s)
  | 5 =>
    let x := s.region (8 * d + g / 2)
    let t := 128 * 124 + 64 + g % 2
    (tget x.termOut false t && !(tget x.termWas false t), s)
  | _ => (false, s)

/-- The global lines (16·die + line) that toggle and rise in this tick. A line from a terminal starts with its first edge. -/
def State.risingLines (s : State) : List Nat × State :=
  (List.range 32).foldl (fun (l, s) n =>
    let d := n / 16
    let g := n % 16
    let src := 8 * d + g / 2
    let x := s.region src
    if x.head.isEmpty then (l, s)
    else
      let (up, s) := s.lineRises d g
      let s := if up ∧ bitsOf (s.lineSource d g) 0 4 = 5 ∧ ¬ (if g % 2 = 0 then x.gclk0 else x.gclk1) then s.lineStart src g else s
      if up && s.lineToggles src g then (n :: l, s) else (l, s)) ([], s)

/-- Whether a clock of region `r` rises: a global line of its die that it may read, or a tap whose wire goes from 0 to 1. -/
def State.clockUp (s : State) (r : Nat) (lines : List Nat) (t clk : Nat) : Bool :=
  let x := s.region r
  if clk < 16 then lines.contains (16 * (r / 8) + clk) && s.lineToggles r clk
  else if clk < 80 then tapVal x.wires t (clk - 16) && !tapVal x.wiresWas t (clk - 16)
  else false

/-! ### Terminals (Table 15-2) -/

/-- The terminal output of a tile. -/
def State.terminal (s : State) (r c row : Nat) : Bool := tget (s.region r).termOut false (128 * c + row)

/-- The facing terminal of a link in the neighbour; a link input reads 0 where the neighbour is absent, not RELEASED, or another pasture's
(R388). -/
def State.linkIn (s : State) (r c row : Nat) : Bool :=
  match linkSide c row with
  | none => false
  | some (dx, dy) =>
    match regionAt r dx dy with
    | none => false
    | some q =>
      (s.region q).state == .released && (s.region q).owner == (s.region r).owner &&
        (if dx = 0 then s.terminal q c (127 - row) else s.terminal q (127 - c) row)

/-- The bank of a region pin. -/
def pinBank (r n : Nat) : Nat := if pinShared r n then sharedBank r else wholeBank r

/-- The level that a region drives on one of its pins, `none` where it does not: before release, with STD 0, with its output enable at 0, and while
the bank's VCCO is not good or its outputs are latched (R397, R402, R404). -/
def State.pinDrive (s : State) (r n : Nat) : Option Bool :=
  let b := s.bank (pinBank r n)
  if (s.region r).driving && bitsOf (edgePin (s.region r).head n) 0 4 != 0 && b.ok && !b.latched && s.terminal r 1 n then
    some (s.terminal r 0 n)
  else none

/-- The level of a region pin at its input: 0 while VCCO is not good, what the region drives, and otherwise the outside's, a free value. -/
def State.pinIn (s : State) (r n : Nat) : Bool × State :=
  if ¬ (s.bank (pinBank r n)).ok then (false, s)
  else match s.pinDrive r n with
    | some v => (v, s)
    | none =>
      let (b, s) := s.draw 1
      (b == 1, s)

/-- What probe pin `q` shows: the probe input that the claiming region selects, and 0 until that region is released (R405). -/
def State.probePin (s : State) (q : Nat) : Bool :=
  match tget s.edge.probePins none q with
  | some r =>
    let sel := fieldAt (s.region r).head (10 + q % 8) 1
    sel != 0xFF && s.terminal r 125 sel
  | none => false

/-- The input of edge-port terminal `n` (Table 15-5). -/
def State.portSignal (s : State) (r n : Nat) : Bool :=
  if n < 68 then
    match s.outValid r (n / 17) with
    | some (_, _, w) => if n % 17 = 16 then true else w.getLsbD (n % 17)
    | none => false
  else if n < 72 then (s.inReady r (n - 68)).isSome
  else if n = 72 then (s.region r).readyIn % 4 / 2 == 1
  else false

/-- The terminal input of a tile; what a hard block answers is a free value (DESIGN CHOICE, log 68). -/
def State.terminalIn (s : State) (r t : Nat) : Bool × State :=
  let c := t / 128
  let row := t % 128
  if c = 0 ∧ row < 78 then s.pinIn r row
  else if (linkSide c row).isSome then (s.linkIn r c row, s)
  else if c = 126 then (s.portSignal r row, s)
  else if c = 124 ∧ row < 32 then
    let (b, s) := s.draw 1
    (b == 1, s)
  else (false, s)

/-- Whether a tile uses its terminal input. -/
def usesTermIn (cfg : Nat) : Bool := (List.range 64).any (fun j => drvEn (tileDrv cfg j) && drvSrc (tileDrv cfg j) == 69)

/-- The terminal inputs of a region in this tick. -/
def State.readTerminals (s : State) (r : Nat) : State :=
  ((s.region r).tiles.filter (fun e => usesTermIn e.2)).foldl (fun s e =>
    let (v, s) := s.terminalIn r e.1
    s.modRegion r (fun x => { x with termIn := tput x.termIn false e.1 v })) s

/-! ### The edge port (R400) -/

/-- The word on IN_DATA of a channel. -/
def State.inData (s : State) (r k : Nat) : BitVec 16 :=
  BitVec.ofNat 16 ((List.range 16).foldl (fun n b => n + 2 ^ b * b2n (s.terminal r 126 (17 * k + b))) 0)

/-- Where VALID and READY of outgoing word port `k` are 1, the word at the head of its channel goes to the fabric (R400). -/
def State.wordOut (s : State) (r k : Nat) : State :=
  match s.outValid r k with
  | some (p, c, w) =>
    if s.terminal r 126 (68 + k) then
      (s.modChan p c (fun h => { h with dstFifo := h.dstFifo.tail, delivered := h.delivered + 1 })).send (.fabricWord r k w)
    else s
  | none => s

/-- Where VALID and READY of incoming word port `k` are 1, its channel takes the fabric's word (R400). -/
def State.wordIn (s : State) (r k : Nat) : State :=
  match s.inReady r k with
  | some (p, c) =>
    if s.terminal r 126 (17 * k + 16) then s.modChan p c (fun h => { h with srcFifo := h.srcFifo ++ [s.inData r k] }) else s
  | none => s

/-- A rising edge of the fabric clock: the words whose VALID and READY are 1 move, CYC_START is sampled, where two samples at 1 after two at 0 are
its rising edge, and PASTURE_READY enters its synchroniser. -/
def State.portEdge (s : State) (r : Nat) : State :=
  let s := (List.range 4).foldl (fun s k => (s.wordOut r k).wordIn r k) s
  let ready := (numsWhere 16 (fun p => (s.pas p).run.extPort == some r)).any (fun p => s.pastureReady p)
  let cyc := (2 * (s.region r).cycIn + b2n (s.terminal r 126 72)) % 16
  let s := s.modRegion r (fun x => { x with readyIn := (2 * x.readyIn + b2n ready) % 4, cycIn := cyc })
  if cyc = 3 then s.cycEdge r else s

/-! ### The tick -/

/-- Lines on which a region still counts the edges to the third after its release point. -/
def Region.countEdges (x : Region) (up : Nat → Bool) : Region :=
  { x with guard := (x.guard.filter (fun e => !(up e.1) || decide (1 < e.2))).map (fun e => if up e.1 then (e.1, e.2 - 1) else e) }

/-- The clocks of one region and its edge port, on the values that stood before the tick. -/
def State.clockRegion (s : State) (lines : List Nat) (r : Nat) : State :=
  let x := s.region r
  if x.head.isEmpty then s
  else
    let up := s.clockUp r lines
    let s' := if x.epFreed ∧ edgeFclk x.head < 16 ∧ up 0 (edgeFclk x.head) then s.portEdge r else s
    (s'.clockCells r up).modRegion r (fun y => y.countEdges (up 0))

/-- A wire whose value a loop does not let settle has a free value (R394). -/
def State.loopWires (s : State) (r : Nat) : State :=
  let x := s.region r
  let w := x.drive x.wires
  ((x.wires ++ w).filter (fun e => tget x.wires false e.1 != tget w false e.1)).foldl (fun s e =>
    let (b, s) := s.draw 1
    s.modRegion r (fun y => { y with wires := tput y.wires false e.1 (b == 1) })) s

/-- The wires and terminal outputs of a region as its inputs, flip-flops and RAMs make them. -/
def State.settleRegion (s : State) (r : Nat) : State :=
  if (s.region r).head.isEmpty then s
  else
    let s := s.readTerminals r
    let s := s.modRegion r (fun x => { x with
      wiresWas := x.wires, wires := x.settle (64 * x.tiles.length + 1) x.wires })
    let s := s.loopWires r
    s.modRegion r (fun x => { x with termWas := x.termOut, termOut := x.outputs x.wires })

/-- One tick of the fabric, where a region is configured. HOLD does not stop it (R399). -/
def State.fabricTick (s : State) : State :=
  if s.edge.regions.isEmpty then s
  else
  let rs := s.edge.regions.map Prod.fst
  let s := s.modEdge (fun e => { e with phase := (e.phase + 1) % 20 })
  let (lines, s) := s.risingLines
  let s := (List.range 4).foldl (fun s k => s.oscStep k) s
  let s := rs.foldl (fun s r => s.clockRegion lines r) s
  rs.foldl (fun s r => s.settleRegion r) s

end Sys2Proof.Machine
end

