-- ==== Sys2Proof/Machine/Tick.lean ====
section
/-!
DEFINITION. One tick of the block's clock, taken where no command waits (DESIGN CHOICE, log 1): the time base, a step of every fold that runs, the
ports, paths, barriers, engines, links, regulators, clocks, and the command rings. What takes a time that the spec leaves open (a
word of HBM, a copy, a run of a task, a wake) comes as an event of its own.
-/

namespace Sys2Proof.Machine

open Sys2Proof

/-- A pasture between load and drain. -/
def PState.counts : PState → Bool
  | .running | .stepping | .recovering | .frozen => true
  | _ => false

/-- The step clocks of the compute dies: a die has an edge in as many ticks of 1,250 as its clock has MHz (R443, R480). -/
def DieClk.tick (c : DieClk) : DieClk :=
  let n := c.phase + c.mhz
  if 1250 ≤ n then { c with phase := n - 1250, edge := true } else { c with phase := n, edge := false }
def State.tickDies (s : State) : State := (List.range 4).foldl (fun s d => s.modDie d DieClk.tick) s

/-- Whether the slowest die of a pasture steps in this tick. -/
def State.pasSteps (s : State) (p : Nat) : Bool :=
  let dies := s.pasDies p
  match (dies.map (fun d => (s.dieClk d).mhz)).min? with
  | some m => (dies.find? (fun d => (s.dieClk d).mhz == m)).any (fun d => (s.dieClk d).edge)
  | none => true

/-- A step of a pair: the ports serve what was granted and the folds of a pasture that runs take theirs; with nothing of this to do every
port is free in the step (R135). Then the service accesses have their turn. -/
def State.pairTick (s : State) (p q : Nat) : State :=
  (if s.running p || !(s.pair q).port.isEmpty then s.pairStep q
   else s.modPair q (fun x => { x with busy := [], served := [] })).serviceStep q

/-- The monitors of islands that a debug override has released count a stable cycle (R454). -/
def State.tickIslands (s : State) : State :=
  if s.dev.early.isEmpty then s
  else s.modDev (fun d => { d with early := (d.early.filter (fun e => decide (1 < e.2))).map (fun e => (e.1, e.2 - 1)) })

/-- The pairs of a pasture whose die steps take one step. -/
def State.tickFolds (s : State) (p : Nat) : State :=
  (s.pas p).comp.pairs.foldl (fun s q => if (s.dieClk (dieOfPair q)).edge then s.pairTick p q else s) s

/-- Folds past their BARRIER slot arrive. -/
def State.tickArrivals (s : State) (p : Nat) : State :=
  (s.pasFolds p).foldl (fun s f =>
    if (s.fold f).seq.ended ∧ ¬ (s.fold f).seq.arrived ∧ s.running p then s.arrive f p else s) s

/-- Each channel whose die steps takes a step (R104, R105). `had` lists the channels whose source FIFO held a word before the folds took
theirs. -/
def State.tickChannels (s : State) (p : Nat) (had : List Nat) : State :=
  (List.range (s.pas p).chans.length).foldl (fun s c =>
    if s.pathsMove p && (s.dieClk ((s.pas p).chan c).die).edge then s.chanStep p c (had.contains c) else s) s

/-- The step counts of the measurements and tallies, at the root's step clock (Tables 8-11, 9-6, 10-3). They count in HOLD too (DEDUCED,
log 27). -/
def State.tickCounts (s : State) (p : Nat) : State :=
  let x := s.pas p
  let wait : Bool := s.allArrived p && decide (3 ≤ x.run.climb)
  let bp := x.flow.bpWait
  let s := s.modRun p (fun r => { r with
    ecySteps := r.ecySteps + 1, waitSteps := r.waitSteps + b2n wait, flowSteps := r.flowSteps + b2n bp })
  if bp then s.modPFlow p (fun w => { w with bpSteps := satTo 32 (w.bpSteps + 1) }) else s

/-- Run time since the last ring point, in ticks of 0.8 ns, without the waits of R114 (Table 10-3). -/
def State.tickRunTime (s : State) (p : Nat) : State :=
  let x := s.pas p
  let waits := s.barrierComplete p && (s.localWait p || s.ringWait p || (s.eventWait p && !x.releasing))
  if x.stat.state.evaluates && !waits then s.modCk p (fun k => { k with runTicks := k.runTicks + 1 }) else s

/-- The steps of the root's clock for which a pasture in EXTCLK has been ready (R195). -/
def State.tickReady (s : State) (p : Nat) : State :=
  let ready := s.pastureReady p
  s.modExt p (fun e => { e with readyFor := if ready then some ((e.readyFor.map (· + 1)).getD 0) else none })

/-- A barrier whose release waits for the acquisition engine is counted once (Table 9-10). -/
def State.tickLanding (s : State) (p : Nat) : State :=
  let b := (s.pas p).stat.ecycle
  if s.acqWaiting p ∧ (s.acqOf p).waitBar ≠ some b then
    s.modAcq p (fun a => { a with landWaits := satTo 40 (a.landWaits + 1), waitBar := some b })
  else s

/-- The die of a pasture's root steps in this tick (R112). -/
def State.rootSteps (s : State) (p : Nat) : Bool := (s.dieClk (s.rootDie p)).edge

/-- The counts of a pasture in one tick. -/
def State.countStep (s : State) (p : Nat) : State :=
  if s.rootSteps p && (s.pstate p).counts then s.tickCounts p else s

/-- Barrier and engines of a pasture, once its folds have stepped. -/
def State.tickPasture (s : State) (p : Nat) : State :=
  let had := (List.range (s.pas p).chans.length).filter (fun c => !((s.pas p).chan c).srcFifo.isEmpty)
  let steps := s.pasSteps p
  let root := s.rootSteps p
  let s := (s.tickFolds p).tickChannels p had
  let s := (s.settleSends p).sendWords p
  let s := ((s.tickArrivals p).tickRunTime p).countStep p
  let s := (((s.flowTake p).tickLanding p).acqOne p).hostRing p
  let s := (if steps then s.watchdogTick p else s).chooseStep p
  let s := s.sendArrive p
  let s := if steps then s.barrierStep p else s
  let s := if root then (s.crossStep p).tickReady p else s
  let s := if (s.pas p).stat.join = 1 then s.joinStep p else s
  (s.unloadDue p).settleLoad p

/-- The ports with a lane in some state. -/
def State.livePorts (s : State) : List Nat := (s.lanes.map (fun e => e.1 / 2)).dedup

/-- A port's line moves on; a retrain that was due begins, and a port in CAP whose exchange is over takes its place in a bond. -/
def State.tickLink (s : State) (t : Nat) : State :=
  let s := (s.lineTick t).retrainDue t
  if s.portState t = .cap then s.formBonds t else s

/-- The service accesses that wait at a pair which no pasture holds have their turn too. -/
def State.strayPads (s : State) : State :=
  (((s.noc.padWait.filterMap PadWait.place).map Prod.fst).dedup.filter (fun q =>
    (s.fold (2 * q)).pasture.isNone && (s.dieClk (dieOfPair q)).edge)).foldl (fun s q =>
      (s.modPair q (fun x => { x with busy := [], served := [] })).serviceStep q) s

/-- One tick. In HOLD the units pause; in BOOT and OFF only the time base may run. -/
def State.tick (s : State) : State :=
  let s := s.timeTick.ethTick.tickDies.tickIslands
  if ¬ s.up then s
  else
    let s := if s.dev.mode = .hold then s.livePastures.foldl (fun s p => s.countStep p) s
      else
        s.livePastures.foldl (fun s p => s.tickPasture p) s
    let s := s.livePorts.foldl (fun s t => s.tickLink t) s
    let s := s.fabricTick.nocTick.diagTick.strayPads
    let ns := s.time.ns
    let s := ((s.settleClocks).traceEvent 7).modTrace (fun t => t.drainOne ns)
    s.serveRings

end Sys2Proof.Machine
end

