-- ==== Sys2Proof/Safety.lean ====
section
/-!
DEFINITION. What counts as a safe run of the block, and the terms in which claims speak of command packets: when a ring gives
its packet, when the card's checks that concern no parameter pass, the command in progress, and its place in the state.
-/

namespace Sys2Proof

open Machine

/-- A step that neither faults nor is refused. -/
def safeStep (s : State) : Prop := ∃ t, step s = .next t

/-- The ring of a packet may give it (R293, R295, R302, R307, R309, R368): enabled, not halted, intake running, the function up and
in D0, a completion entry and a place for a command free, and with FENCE no earlier command of the ring in progress. -/
def ringReady (s : State) (c : Cmd) : Prop :=
  (s.ring c.ring).enable = true ∧ (s.ring c.ring).halted = false ∧ s.dev.accepting = true ∧ s.dev.restarting = false ∧
  s.host.d3hot = false ∧ s.host.fnReady = true ∧
  wrapSub 32 (s.ring c.ring).cplTail (s.ring c.ring).cplHead + s.inProgress c.ring < 2 ^ (s.ring c.ring).cplLog2 ∧
  s.inProgress c.ring < 256 ∧ s.allInProgress < 1024 ∧ (c.fence = true → s.inProgress c.ring = 0)

/-- SESSION stands only where the ring is bound (R299). -/
def sessionBound (s : State) (c : Cmd) : Prop := c.session = true → (s.ring c.ring).bound.isSome = true

/-- A device command is taken: its ring gives it, the mode is one of its card's, PASTURE is 0xFF, and `needs` says that the card
requires a session (R298, R299, R308). -/
def takesDevice (s : State) (c : Cmd) (modes : List Mode) (needs : Bool) : Prop :=
  ringReady s c ∧ s.dev.mode ∈ modes ∧ c.pasture = 0xFF ∧ sessionBound s c ∧ (needs = true → c.session = true)

/-- A command of a pasture is taken: its ring gives it, the mode is SERVICE or EMULATE, it carries a bound session, and a pasture
that is not EMPTY is held by that session (R298, R299, R308, R417). -/
def takesPasture (s : State) (c : Cmd) : Prop :=
  ringReady s c ∧ s.dev.mode ∈ [Mode.service, Mode.emulate] ∧ c.pasture < 16 ∧ c.session = true ∧ sessionBound s c ∧
  (s.pstate c.pasture ≠ .empty → s.ringSid c.ring = some (s.pas c.pasture).comp.sid)

/-- The command in progress that a packet becomes (R300). -/
def cmdOf (s : State) (c : Cmd) (opcode : Nat) : Prog := (s.begin_ c opcode c.session).1

/-- The state in which that command is in progress: its sequence number is taken. -/
def taken (s : State) (c : Cmd) (opcode : Nat) : State := (s.begin_ c opcode c.session).2

/-- Bytes [lo, lo + n) of the parameters are zero. -/
def paramZero (c : Cmd) (lo n : Nat) : Prop := zeroAt c.params lo n = true

/-- The `n`-byte field of the parameters at an offset. -/
def param (c : Cmd) (o n : Nat) : Nat := fieldAt c.params o n

/-- RESULT_ADDR and RESULT_SIZE fit a result of `n` bytes (R305). -/
def resultFits (c : Cmd) (n : Nat) : Prop := param c 0 8 % 64 = 0 ∧ n ≤ param c 8 4

/-- A fold after BP `bp` of its present slot: the BP has executed, its port E write of a current value (if any) and its import stand
among the slot's writes, and its bit is on the step bus where it drives 1. -/
def bpDone (x : Fold) (bp : Nat) (drive : Bool) (cur : Option Bool) : Fold :=
  let i := x.instrNow bp
  { x with
    seq := { x.seq with
      done := bp :: x.seq.done
      wr0 := x.seq.wr0 ++ (cur.map (fun v => { bp := bp, entry := i.dst, val := v })).toList ++
        [{ bp := bp, entry := 448 + i.xdst, val := bitOf x.seq.busPrev i.xsel }]
      bpOut := if drive then x.seq.bpOut ||| 2 ^ bp else x.seq.bpOut } }

/-- BP `bp` of the present slot of fold `f`, of pasture `p`, is to execute `op`: the fold is in a slot, the BP has not executed in
it, and every word due in the slot is there (R48, R81). -/
def bpReady (s : State) (f bp p op : Nat) : Prop :=
  s.inSlot f = some p ∧ bp < Config.numBps ∧ ((s.fold f).instrNow bp).op = op ∧ bp ∉ (s.fold f).seq.done ∧
  ((s.prepare f p).fold f).seq.prepared = true

/-- A fold of pasture `p` is in a slot in which nothing holds it back once the slot is evaluated (R48, R110). -/
def slotRuns (s : State) (f p : Nat) : Prop := s.inSlot f = some p ∧ (s.evaluate f p).stallCause f p = 0

/-- The state in which the grant of a scratchpad operation of fold `f` is decided: its slot, and the other fold's where that fold is
at the same slot, are evaluated. -/
def grantState (s : State) (f p : Nat) : State :=
  let u := s.evaluate f p
  match u.inSlot (otherFold f) with
  | some p' => if (u.fold (otherFold f)).seq.slot = (u.fold f).seq.slot then u.evaluate (otherFold f) p' else u
  | none => u

/-- A control block of a link, or of a port in CAP, comes at a control position of its stream (R344, R347). -/
def blockDue (s : State) (link : Nat) : Prop := s.receives link = true ∧ (s.port link).group = []

/-- The state in which a block that came with a valid header is judged: its lane has seen the header (R341, R349). -/
def blockSeen (s : State) (link : Nat) : State := s.rxHeader link false

/-- The state after the sequence check of an accepted block: the next CSEQ is expected, and one block more is to be acknowledged
(R347). -/
def blockTaken (s : State) (link : Nat) : State :=
  (blockSeen s link).modPort link (fun r => { r with
    rxSeq := ((s.port link).rxSeq + 1) % 256, discard := false, unacked := (s.port link).unacked + 1 })

/-- A packet enters the mesh and crosses it at once: no earlier packet waits at its injection point, tokens for all its flits are there, and no
router of its route is in a hold (R322, R326, R328). -/
def nocMoves (s : State) (p : NocPacket) : Prop :=
  let o := nocOpc p.word0
  s.noc.waiting.any (fun y => nocNet y.opc == nocNet o && injectionPoint y.opc y.pkt.word0 == injectionPoint o p.word0) = false ∧
  1 + nocLen p.word0 ≤ (s.regulator (4 * injectionPoint o p.word0 + nocNet o)).tokens / 256 ∧
  (∀ e ∈ nocRoute o p.word0, s.heldOn e.1 (nocNet o) = false)

/-- Such a packet that is well formed: its parity holds, and its router has its source port (R332, Table 12-2). -/
def nocClear (s : State) (p : NocPacket) : Prop :=
  parityOk p = true ∧ hasPort (nocSrc (nocOpc p.word0) p.word0) (nocSrcPort p.word0) = true ∧ nocMoves s p

/-- The state in which such a packet is ejected: the transaction of a request is open, its flits have taken their tokens, and the probes
and the statistics have seen it (R319, R326, R335, R336). -/
def nocPassed (s : State) (p : NocPacket) : State :=
  let o := nocOpc p.word0
  let u := if isRequest o = true then s.openTxn p else s
  let u := (u.modRegulator (4 * injectionPoint o p.word0 + nocNet o) (fun g => g.take (1 + nocLen p.word0) 0)).probeSee p
  if nocNet o = 3 then u.datSee p else u

/-- A packet of an operation is ejected at once at a port that its router has. -/
def nocArrives (s : State) (p : NocPacket) (opc : Nat) : Prop :=
  nocOpc p.word0 = opc ∧ nocClear s p ∧ hasPort (nocDst p.word0) (nocDstPort p.word0) = true

/-- A request of an operation reaches an OPEN port (R330). -/
def nocReaches (s : State) (p : NocPacket) (opc : Nat) : Prop := nocArrives s p opc ∧ (nocPassed s p).nocPort p = 0

/-- The address of a REG packet is one of a register that the device has; the map is the device's own (DESIGN CHOICE, log 26). -/
def regThere (p : NocPacket) : Bool :=
  match regCount (nocReg p).1 with
  | some m => decide ((nocReg p).2 < m)
  | none => false

/-- A service access of `n` bytes that its regions and its target's state permit, at the unit that is the home of its address, even
and within a row; the scratchpad that it names has its port free (R134, R136, R138–R143). -/
def serviceGood (s : State) (p : NocPacket) (n : Nat) (write joins : Bool) : Prop :=
  s.accessError (nocInit p.word0) (nocAddr p) n write joins = 0 ∧ nocHome p.word0 (nocAddr p) = true ∧ nocAddr p % 2 = 0 ∧
  (∀ x, padPlace (nocAddr p) = some x → nocAddr p % 32 + n ≤ 32 ∧ s.padFree x.pair x.pad = true)

/-- The state in which a permitted access is performed: it has taken the port of the scratchpad that it names, if any (R134). -/
def portTaken (s : State) (p : NocPacket) : State :=
  match padPlace (nocAddr p) with
  | none => s
  | some x => s.padTake x.pair x.pad

end Sys2Proof
end

