-- ==== Sys2Proof/Certificates/Slice0/Obligations.lean ====
section
/-!
DEFINITION. The statements for the provers.
-/

open Sys2Proof Sys2Proof.Machine

/-! ### The step -/

/-- A step takes the command at the front of the queue and runs it on the state with the queue's rest. -/
def Obligations.StepRunsFrontCommand : Prop :=
  ∀ (c : Instr) (rest : List Instr) (s : State),
    step { s with pending := c :: rest } = exec c { s with pending := rest }

/-- On an empty queue the device's clocks advance by one tick: the model's choice (DESIGN CHOICE, log 1). -/
def Obligations.EmptyQueueTicks : Prop := ∀ s : State, s.pending = [] → step s = .next s.tick

/-! ### Command packets -/

/-- DEVICE_INFO and LANE_STATUS return their 4,096-byte blocks and ECHO its parameters (Table 11-13). TIME_ACCEPT arms a step
in REFUSED and has no effect otherwise (R379); TIME_CONFIG sets JUMP_NS (R378). -/
def Obligations.IdentityAndTimeCommandsComplete : Prop :=
  (∀ (s : State) (c : Cmd),
      (takesDevice s c [.service, .emulate, .minimal, .hold, .recover, .erase] false → c.params.length = 16 → paramZero c 12 4 →
        resultFits c 4096 →
        exec (.deviceInfo c) s =
          .next ((taken s c 0x0001).completeResult (cmdOf s c 0x0001) c [] (taken s c 0x0001).identBlock true)) ∧
      (takesDevice s c [.service, .emulate, .minimal, .hold, .recover, .erase] false → c.params.length = 24 →
        exec (.echo c) s = .next ((taken s c 0x0002).complete (cmdOf s c 0x0002) 0 c.params)) ∧
      (takesDevice s c [.service, .emulate, .minimal, .hold, .recover] false → c.params.length = 16 → paramZero c 12 4 →
        resultFits c 4096 →
        exec (.laneStatus c) s =
          .next ((taken s c 0x0705).completeResult (cmdOf s c 0x0705) c [] s.laneBlock true))) ∧
  (∀ (s : State) (c : Cmd), takesDevice s c [.service, .emulate] false → c.params.length = 8 → paramZero c 4 4 →
      (paramZero c 0 4 → s.time.servo = .refused →
        exec (.timeAccept c) s = .next
          (((taken s c 0x0A01).modTime (fun t => { t with stepArmed := true })).complete (cmdOf s c 0x0A01) 0 [])) ∧
      (paramZero c 0 4 → s.time.servo ≠ .refused →
        exec (.timeAccept c) s = .next ((taken s c 0x0A01).complete (cmdOf s c 0x0A01) 0 [])) ∧
      (0 < param c 0 4 → param c 0 4 ≤ 1000000000 →
        exec (.timeConfig c) s = .next
          (((taken s c 0x0A02).modTime (fun t => { t with jumpNs := param c 0 4 })).complete (cmdOf s c 0x0A02) 0 [])))

/-- FW_STAGE writes its data into the slot that does not run; with the byte at TOTAL − 1 the image is judged, and STAGED is set
where it passes (R425, R426). FW_ACTIVATE starts a control-complex restart with the staged slot as the preferred one (R460). -/
def Obligations.FirmwareCommandsComplete : Prop :=
  ∀ (s : State) (c : Cmd),
    (takesDevice s c [.service, .emulate, .minimal] false → 24 ≤ c.params.length → c.params.length ≤ 65552 → paramZero c 8 8 →
      param c 0 4 % 65536 = 0 → param c 0 4 < param c 4 4 → param c 4 4 ≤ 3145728 → s.fuses.lcState ≠ 4 →
      exec (.fwStage c) s = .next (
        let w := (taken s c 0x0003).stageWrite (param c 0 4) (param c 4 4) (c.params.drop 16)
        let x := w.flash.inactive
        if param c 0 4 + (c.params.drop 16).length < param c 4 4 then w.complete (cmdOf s c 0x0003) 0 []
        else if fwVerifies x.bytes = false then w.complete (cmdOf s c 0x0003) 0x040A []
        else if fieldAt x.bytes 8 4 < s.fuses.svnMin then w.complete (cmdOf s c 0x0003) 0x040F []
        else State.complete { w with flash := { w.flash.modInactive FwSlot.verified with staged := true } }
          (cmdOf s c 0x0003) 0 [])) ∧
    (takesDevice s c [.service, .emulate] false → c.params.length = 8 → paramZero c 0 8 → s.flash.staged = true →
      exec (.fwActivate c) s = .next (State.beginRestart
        { taken s c 0x0004 with flash := { s.flash with preferB := !s.flash.activeB } } 0))

/-- With every pasture EMPTY, WIPE takes the device to ERASE, and it completes there (R424); an LC_TRANSITION that is authentic
completes and then enters ERASE, and one that is not is refused (R422). -/
def Obligations.WipeAndTransitionEnterErase : Prop :=
  ∀ (s : State) (c : Cmd),
    (takesDevice s c [.service, .minimal] false → c.params.length = 8 → paramZero c 0 8 → s.anyLive = false →
      exec (.wipe c) s = .next ((taken s c 0x0005).enterErase (.wipe s.dev.mode))) ∧
    (takesDevice s c [.service, .minimal] false → c.params.length = 200 → paramZero c 2 6 → param c 1 1 ≤ 1 →
      (param c 1 1 = 1 → paramZero c 8 96) → s.anyLive = false → s.fuses.lcState ≠ 4 →
      (lcSigner s.fuses.lcState (param c 0 1)).isSome = true → ¬ (s.fuses.lcState = 2 ∧ param c 0 1 = 3 ∧ 4 ≤ s.fuses.returns) →
      exec (.lcTransition c) s = .next (
        let w := taken s c 0x0B04
        if s.lcAuthentic (param c 0 1) (param c 1 1) (slice c.params 8 96) (slice c.params 104 96) = true then
          (w.complete (cmdOf s c 0x0B04) 0 []).enterErase (.lifeCycle (param c 0 1) (slice c.params 8 96))
        else w.complete (cmdOf s c 0x0B04) 0x040B []))

/-- While some pasture is not EMPTY neither command is accepted: the mode and what ERASE is to do stay as they are, and a WIPE
that no earlier check stops completes with 0x020A, as an LC_TRANSITION does (R28). -/
def Obligations.WipeNeedsEmptyPastures : Prop :=
  ∀ (s : State) (c : Cmd), s.anyLive = true →
    (∀ t : State, (exec (.wipe c) s = .next t ∨ exec (.lcTransition c) s = .next t) →
      t.dev.mode = s.dev.mode ∧ t.dev.erase = s.dev.erase) ∧
    (takesDevice s c [.service, .minimal] false → c.params.length = 8 → paramZero c 0 8 →
      exec (.wipe c) s = .next ((taken s c 0x0005).complete (cmdOf s c 0x0005) 0x020A [])) ∧
    (takesDevice s c [.service, .minimal] false → c.params.length = 200 → paramZero c 2 6 → param c 1 1 = 0 →
      s.fuses.lcState ∈ [1, 2, 3] →
      exec (.lcTransition c) s = .next ((taken s c 0x0B04).complete (cmdOf s c 0x0B04) 0x020A []))

/-- POWER_CAP, CLOCK_FLOOR, LADDER_SELECT and PAD_RELEASE take their effect and complete; LADDER_SELECT completes before its step
is entered (R440, R441, R444). -/
def Obligations.PowerCommandsComplete : Prop :=
  ∀ (s : State) (c : Cmd), paramZero c 4 4 → c.params.length = 8 →
    (takesDevice s c [.service, .emulate, .minimal] false → paramZero c 2 2 → (300 ≤ param c 0 2 ∧ param c 0 2 ≤ 1000) →
      exec (.powerCap c) s = .next
        ((((taken s c 0x0901).modPwr (fun x => { x with cap := param c 0 2 })).settleClocks).complete (cmdOf s c 0x0901) 0 [])) ∧
    (takesDevice s c [.service, .emulate, .minimal] false → paramZero c 2 2 → param c 0 2 = 0 →
      exec (.powerCap c) s = .next
        ((State.settleClocks ((List.range 4).foldl (fun t d => t.modDie d (fun x => { x with powCap := 1250 }))
          ((taken s c 0x0901).modPwr (fun x => { x with cap := 0, capUnmet := false })))).complete (cmdOf s c 0x0901) 0 [])) ∧
    (takesDevice s c [.service, .emulate] false → paramZero c 1 1 → param c 0 1 < 4 →
      (param c 2 2 = 0 ∨ (500 ≤ param c 2 2 ∧ param c 2 2 ≤ 1250)) →
      exec (.clockFloor c) s = .next
        ((((taken s c 0x0902).modDie (param c 0 1) (fun x => { x with floor := param c 2 2 })).settleDie (param c 0 1)).complete
          (cmdOf s c 0x0902) 0 [])) ∧
    (paramZero c 1 3 → param c 0 1 < 4 → takesDevice s c [.service, .minimal] false →
      exec (.ladderSelect c) s = .next (((taken s c 0x0903).complete (cmdOf s c 0x0903) 0 []).enterLadder (param c 0 1))) ∧
    (paramZero c 1 3 → param c 0 1 = 4 → takesDevice s c [.service, .minimal] false →
      exec (.ladderSelect c) s = .next ((taken s c 0x0903).complete (cmdOf s c 0x0903) 0 []).ladderOff) ∧
    (paramZero c 1 3 → param c 0 1 = 0xFF → takesDevice s c [.service] false →
      exec (.ladderSelect c) s = .next (((taken s c 0x0903).complete (cmdOf s c 0x0903) 0 []).enterLadder 7)) ∧
    (paramZero c 1 3 → param c 0 1 < 24 → takesDevice s c [.service, .emulate] false →
      (s.domain (602 + param c 0 1)).state = .on → (s.bank (param c 0 1)).ok = true →
      exec (.padRelease c) s = .next
        (((taken s c 0x0904).modBank (param c 0 1) (fun x => { x with latched := false })).complete (cmdOf s c 0x0904) 0 []))

/-- TRACE_CONFIG arms, disables or stops the trace or programs a probe of the service network (R469, R470, R336), and TRACE_READ
returns bytes of the landing with WRITTEN (R473). -/
def Obligations.TraceCommandsComplete : Prop :=
  ∀ (s : State) (c : Cmd), takesDevice s c [.service, .emulate, .minimal] false →
    (c.params.length = 64 → param c 0 1 = 0 → param c 1 1 = 1 → param c 4 1 ≤ 2 → param c 5 1 ≤ 1 → 10 ≤ param c 6 1 →
      param c 6 1 ≤ 30 → paramZero c 9 7 → (∀ k < 4, param c (32 + 8 * k) 8 < 2 ^ 54) →
      exec (.traceArm c) s = .next (((taken s c 0x0C01).armTrace (traceCfgOf c)).complete (cmdOf s c 0x0C01) 0 [])) ∧
    (c.params.length = 64 → param c 0 1 = 0 → param c 1 1 = 0 → paramZero c 9 7 →
      exec (.traceDisable c) s = .next (((taken s c 0x0C01).traceTo .idle 0xFF).complete (cmdOf s c 0x0C01) 0 [])) ∧
    (c.params.length = 64 → param c 0 1 = 0 → param c 1 1 = 2 → paramZero c 2 62 → s.trace.state = .tracing →
      exec (.traceStop c) s = .next (((taken s c 0x0C01).traceTo .stopping 0xFF).complete (cmdOf s c 0x0C01) 0 [])) ∧
    (c.params.length = 64 → param c 0 1 = 1 → param c 1 1 < 8 → param c 3 1 < 64 → bitsOf (param c 3 1) 1 3 ≠ 7 →
      paramZero c 4 4 → paramZero c 24 40 →
      exec (.probeConfig c) s = .next
        (((taken s c 0x0C01).setProbe (param c 1 1) (probeOf c (s.nocProbe (param c 1 1)))).complete (cmdOf s c 0x0C01) 0 [])) ∧
    (c.params.length = 24 → paramZero c 12 4 → resultFits c (param c 20 4) → param c 16 4 % 8 = 0 → param c 20 4 % 8 = 0 →
      8 ≤ param c 20 4 → param c 16 4 + param c 20 4 ≤ 4194304 →
      exec (.traceRead c) s = .next ((taken s c 0x0C02).completeResult (cmdOf s c 0x0C02) c
        (leBytes 4 s.trace.written ++ leBytes 4 s.trace.written) (memRead s.trace.landing (param c 16 4) (param c 20 4)) true))

/-- LANE_BRINGUP with its three actions, LANE_EQ, LANE_BITSLIP and LANE_LOOPBACK (Table 11-13, R350, R352, R353, R360).
FABRIC_RELEASE releases a HELD region of a pasture that the ring's session holds (R396, R397). -/
def Obligations.LaneAndFabricCommandsComplete : Prop :=
  (∀ (s : State) (c : Cmd), c.params.length = 8 → paramZero c 3 5 →
      (takesDevice s c [.service, .emulate] false → paramZero c 2 1 → param c 0 1 < 128 →
        (param c 1 1 = 0 →
          exec (.laneBringup c) s = .next (((taken s c 0x0701).bringUp (param c 0 1)).complete (cmdOf s c 0x0701) 0 [])) ∧
        (param c 1 1 = 1 →
          exec (.laneRetrain c) s = .next (((taken s c 0x0701).retrainCmd (param c 0 1)).complete (cmdOf s c 0x0701) 0 [])) ∧
        (param c 1 1 = 2 → (∀ p, s.portHolder (param c 0 1) = some p → (s.pstate p).evaluates = false) →
          exec (.laneTakeDown c) s = .next (((taken s c 0x0701).takeDown (param c 0 1)).complete (cmdOf s c 0x0701) 0 []))) ∧
      (takesDevice s c [.service, .emulate] false → param c 1 1 = 1 → param c 2 1 < 16 →
        exec (.laneEq c) s = .next (((taken s c 0x0702).modLane (param c 0 1) (fun x => { x with
          pinPend := some true, pinReq := some (param c 2 1) })).complete (cmdOf s c 0x0702) 0 [])) ∧
      (takesDevice s c [.service, .emulate] false → param c 1 1 = 0 → param c 2 1 < 16 →
        exec (.laneEq c) s = .next (((taken s c 0x0702).modLane (param c 0 1) (fun x => { x with
          pinPend := some false, pinReq := none })).complete (cmdOf s c 0x0702) 0 [])) ∧
      (takesDevice s c [.service, .emulate] false → paramZero c 2 1 → 0 < param c 1 1 → param c 1 1 ≤ 65 →
        (s.portState (param c 0 1 / 2) ≠ .active ∨ s.portHolder (param c 0 1 / 2) = none) →
        exec (.laneBitslip c) s = .next
          (((taken s c 0x0703).bitslip (param c 0 1) (param c 1 1)).complete (cmdOf s c 0x0703) 0 [])) ∧
      (takesDevice s c [.service] false → paramZero c 2 1 → param c 0 1 < 128 → param c 1 1 ≤ 3 →
        s.portHolder (param c 0 1) = none →
        exec (.laneLoopback c) s = .next
          (((taken s c 0x0704).loopback (param c 0 1) (param c 1 1)).complete (cmdOf s c 0x0704) 0 []))) ∧
  (∀ (s : State) (c : Cmd) (p : Nat), takesDevice s c [.service, .emulate] true → c.params.length = 8 → paramZero c 1 7 →
      param c 0 1 < 16 → (s.region (param c 0 1)).owner = some p → s.ringSid c.ring = some (s.pas p).comp.sid →
      (s.region (param c 0 1)).state = .held → s.pstate p ∈ [PState.loaded, .running, .stepping, .frozen] →
      exec (.fabricRelease c) s = .next (((taken s c 0x0801).releaseRegion (param c 0 1)).complete (cmdOf s c 0x0801) 0 []))

/-- ATTEST returns the signed report (R413); SESSION_OPEN opens a session with an owner whose keys are points of the curve and whose
signature holds, and is refused otherwise (R414), or rebinds the ring with a PROOF of k_bind (R416); SESSION_CLOSE ends the ring's
session (R417). -/
def Obligations.SessionCommandsComplete : Prop :=
  ∀ (s : State) (c : Cmd),
    (takesDevice s c [.service, .emulate, .minimal] false → c.params.length = 48 → paramZero c 12 4 → resultFits c 16384 →
      s.fuses.lcState ≠ 0 → s.fuses.lcState ≠ 4 →
      exec (.attest c) s = .next (
        let d := (taken s c 0x0B01).draw 384
        d.2.completeResult (cmdOf s c 0x0B01) c [] (d.2.attestation (slice c.params 16 32) d.1) true)) ∧
    (takesDevice s c [.service, .emulate, .minimal] false → c.params.length = 344 → paramZero c 12 4 → paramZero c 17 7 →
      param c 16 1 = 0 → resultFits c 288 → s.fuses.lcState ≠ 0 → s.fuses.lcState ≠ 4 → (s.ring c.ring).bound = none →
      s.host.sessions.length < 64 →
      exec (.sessionOpen c) s = .next (
        let w := taken s c 0x0B02
        let own := ecOfBytes (slice c.params 152 96)
        if ecOnCurve (ecOfBytes (slice c.params 24 96)) = false ∨ ecOnCurve own = false then
          w.complete (cmdOf s c 0x0B02) 0x0409 []
        else if ecdsaVerify own (slice c.params 24 224 ++ padTo 16 s.ident.serial) (slice c.params 248 96) = false then
          w.complete (cmdOf s c 0x0B02) 0x0407 []
        else w.openSession (cmdOf s c 0x0B02) c)) ∧
    (∀ x : Session, takesDevice s c [.service, .emulate, .minimal] false → c.params.length = 344 → paramZero c 12 4 →
      paramZero c 17 7 → paramZero c 80 264 → param c 16 1 = 1 → resultFits c 288 → s.fuses.lcState ≠ 0 →
      s.fuses.lcState ≠ 4 → (s.ring c.ring).bound = none → s.session (param c 24 8) = some x →
      s.rebindProof c.ring x = slice c.params 32 48 →
      exec (.sessionRebind c) s = .next ((((taken s c 0x0B02).modHost (fun h => { h with
        sessions := h.sessions.map (fun y => if y.sid = param c 24 8 then { y with rebind := y.rebind + 1 } else y) })).bindRing
          c.ring (param c 24 8) (x.rebind + 1)).completeResult (cmdOf s c 0x0B02) c []
            (sessionHead (param c 24 8) (x.rebind + 1) [] [] [] ++ padTo 96 []) false)) ∧
    (∀ sid : Nat, takesDevice s c [.service, .emulate, .minimal] true → c.params.length = 8 → paramZero c 0 8 →
      s.ringSid c.ring = some sid → s.sessionHolds sid = false →
      exec (.sessionClose c) s = .next (((taken s c 0x0B03).closeSession sid).complete (cmdOf s c 0x0B03) 0 []))

/-- A LOAD header that passes stage 1 puts its pasture in LOADING; a chunk in its place whose tag holds is deciphered into the
staging area; LOAD_ABORT returns the pasture to EMPTY (R161, R162, R186, R314). -/
def Obligations.LoadPacketsComplete : Prop :=
  ∀ (s : State) (c : Cmd), takesPasture s c →
    (c.params.length = 264 → param c 0 1 = 0 → paramZero c 1 3 → param c 4 4 = 0 → s.pstate c.pasture = .empty →
      (taken s c 0x0201).stage1 c.ring c.pasture (slice c.params 8 256) = none →
      exec (.loadHeader c) s = .next
        (((taken s c 0x0201).beginLoad c.pasture c.ring (slice c.params 8 256)).complete (cmdOf s c 0x0201) 0 [])) ∧
    (∀ (l : PLoad) (pt : List Byte), 32 ≤ c.params.length → c.params.length ≤ 65560 → param c 0 1 = 1 → paramZero c 1 3 →
      s.pstate c.pasture = .loading → (s.pas c.pasture).load = some l → l.ring = c.ring → param c 4 4 = l.nextChunk →
      l.nextChunk + 1 < hdrChunks l.header → c.params.length = 8 + (chunkLen l.header l.nextChunk + 16) →
      gcmOpen (s.kImg (hdrSid l.header)) (hdrNonce l.header ++ beBytes 4 l.nextChunk) l.header
        ((c.params.drop 8).take (chunkLen l.header l.nextChunk)) ((c.params.drop 8).drop (chunkLen l.header l.nextChunk)) =
          some pt →
      exec (.loadChunk c) s = .next ((State.modPas { taken s c 0x0201 with
          hbm := memWrite s.hbm (l.staging + chunkBytes * l.nextChunk) pt } c.pasture
            (fun x => { x with load := some { l with nextChunk := l.nextChunk + 1 } })).complete (cmdOf s c 0x0201) 0 [])) ∧
    (∀ l : PLoad, c.params.length = 0 → s.pstate c.pasture = .loading → (s.pas c.pasture).load = some l → l.ring = c.ring →
      exec (.loadAbort c) s = .next
        ((((taken s c 0x0202).finishAll 0x0201 c.pasture 0x0201).emptyPasture c.pasture).complete (cmdOf s c 0x0202) 0 []))

/-- UNLOAD begins the drain of a pasture that may be unloaded and stays in progress (R200 steps 1 to 3); when the wipe of a DRAINING
pasture is done, the pasture is EMPTY and the UNLOAD completes (R200 step 5). -/
def Obligations.UnloadDrainsAndEmpties : Prop :=
  (∀ (s : State) (c : Cmd), takesPasture s c → c.params.length = 0 →
    s.pstate c.pasture ∈ [PState.loaded, .running, .stepping, .frozen, .faulted] →
    exec (.unload c) s = .next ((taken s c 0x0101).beginUnload c.pasture none)) ∧
  (∀ (s : State) (p : Nat), s.pstate p = .draining → s.dev.mode ≠ .hold → s.engineBusy p = false →
    exec (.unloadWipeComplete p) s =
      .next ((((s.wipePasture p).setPState p .empty).finishAll 0x0101 p 0).sweepSessions))

/-- RUN of a LOADED or FROZEN pasture on one device sets the run's parameters and starts it (R189, R190); FREEZE of a pasture that
rests completes at once, and of one that evaluates it keeps the stop and stays in progress (R190, R197); SET_WDOG writes the
watchdog's period and enable (R126). -/
def Obligations.RunControlCommandsComplete : Prop :=
  ∀ (s : State) (c : Cmd), takesPasture s c →
    (c.params.length = 32 → param c 0 1 = 0 → param c 1 1 = 0 → paramZero c 2 30 →
      s.pstate c.pasture ∈ [PState.loaded, .frozen] → s.freezePending c.pasture = false → s.spanning c.pasture = false →
      (s.pas c.pasture).stat.lastStatus ≠ 0x0701 →
      exec (.run c) s = .next (((taken s c 0x0301).startRun c).complete (cmdOf s c 0x0301) 0 [])) ∧
    (c.params.length = 0 → s.pstate c.pasture ∈ [PState.loaded, .frozen] → s.spanning c.pasture = false →
      exec (.freeze c) s = .next ((taken s c 0x0302).complete (cmdOf s c 0x0302) 0 [])) ∧
    (c.params.length = 0 → s.pstate c.pasture ∈ [PState.running, .stepping, .recovering] → s.spanning c.pasture = false →
      exec (.freeze c) s = .next ((taken s c 0x0302).freeze c.pasture)) ∧
    (c.params.length = 8 → param c 0 4 < 128 → paramZero c 4 4 → s.pstate c.pasture ≠ .empty →
      s.pstate c.pasture ≠ .recovering →
      exec (.setWdog c) s = .next (((taken s c 0x0303).modWdog c.pasture (fun w => { w with
        periodLog2 := bitsOf (param c 0 4) 0 6, enable := bitOf (param c 0 4) 6, written := true, counter := 0, fresh := true })).complete
          (cmdOf s c 0x0303) 0 []))

/-- A RUN taken while a FREEZE of its pasture is pending is refused with 0x0201, whatever valid parameters it carries (R188). -/
def Obligations.RunRefusedWhileFreezePends : Prop :=
  ∀ (s : State) (c : Cmd), takesPasture s c → s.pstate c.pasture ≠ .recovering → c.params.length = 32 → paramZero c 5 3 →
    paramZero c 21 3 → (∀ x ∈ s.runRanges c, x.1 = false) → s.freezePending c.pasture = true →
    exec (.run c) s = .next ((taken s c 0x0301).complete (cmdOf s c 0x0301) 0x0201 [])

/-- FLOW_HOLDINGS returns the maps of held flows and tasks; TASK_KICK unparks a PARKED task and gives any other one decrement
(R228, R230, R237); FLOW_TALLIES returns the tallies of the queues and tasks it lists. RING_INFO returns its six words, and
RING_ROLLBACK takes a FROZEN pasture back to its complete ring, where it stays held (R288, Table 10-8). -/
def Obligations.FlowAndRingCommandsComplete : Prop :=
  (∀ (s : State) (c : Cmd),
      (takesDevice s c [.service, .emulate] true → c.params.length = 16 → paramZero c 12 4 → resultFits c 8704 →
        exec (.flowHoldings c) s = .next ((taken s c 0x0401).completeResult (cmdOf s c 0x0401) c [] s.holdings true)) ∧
      (takesPasture s c → c.params.length = 8 → paramZero c 2 6 → (s.task (param c 0 2)).owner = some c.pasture →
        s.pstate c.pasture ∈ [PState.loaded, .running, .stepping, .frozen] →
        exec (.taskKick c) s = .next ((if (s.task (param c 0 2)).tstate = .parked then (taken s c 0x0402).unpark (param c 0 2)
          else (taken s c 0x0402).taskDec (param c 0 2)).complete (cmdOf s c 0x0402) 0 [])) ∧
      (takesPasture s c → tallyLength c.params = true → paramZero c 12 4 → paramZero c 18 6 →
        paramZero c (24 + 2 * (param c 16 1 + param c 17 1)) (c.params.length - (24 + 2 * (param c 16 1 + param c 17 1))) →
        resultFits c (48 * param c 16 1 + 32 * param c 17 1) → param c 16 1 ≤ 64 → param c 17 1 ≤ 64 →
        (∀ i < param c 16 1, s.queueOwner (param c (24 + 2 * i) 2) = some c.pasture) →
        (∀ i < param c 17 1, (s.task (param c (24 + 2 * (param c 16 1 + i)) 2)).owner = some c.pasture) →
        s.pstate c.pasture ≠ .empty → s.pstate c.pasture ≠ .recovering →
        exec (.flowTallies c) s = .next (
          let d := (taken s c 0x0403).tallies c
          d.2.completeResult (cmdOf s c 0x0403) c [] d.1 true))) ∧
  (∀ (s : State) (c : Cmd), takesPasture s c → s.ringsOn c.pasture = true →
      (c.params.length = 16 → paramZero c 12 4 → resultFits c 48 →
        s.pstate c.pasture ∈ [PState.loaded, .running, .stepping, .frozen, .faulted] →
        exec (.ringInfo c) s = .next ((taken s c 0x0601).completeResult (cmdOf s c 0x0601) c []
          ((s.ringWords c.pasture).flatMap (leBytes 8)) true)) ∧
      (c.params.length = 0 → s.pstate c.pasture = .frozen →
        exec (.ringRollback c) s = .next (((taken s c 0x0602).ringRollback c.pasture).complete (cmdOf s c 0x0602) 0 [])))

/-- ACQ_ARM arms the engine and returns TS; ACQ_DISARM and ACQ_FORCE leave their request with the engine; ACQ_READ returns the
enciphered range and takes a READ_NO; ACQ_PROGRAM replaces the plan's body (R248, R260, R261, R419). -/
def Obligations.AcquisitionCommandsComplete : Prop :=
  ∀ (s : State) (c : Cmd), takesPasture s c →
    s.pstate c.pasture ∈ [PState.loaded, .running, .stepping, .frozen, .faulted] →
    (c.params.length = 0 → (s.acqOf c.pasture).state ∈ [AcqState.idle, .done] →
      exec (.acqArm c) s = .next (((taken s c 0x0501).acqArm c.pasture).complete (cmdOf s c 0x0501) 0 (leBytes 4 s.ts))) ∧
    (c.params.length = 0 → (s.acqOf c.pasture).state ∈ [AcqState.armed, .post] →
      exec (.acqDisarm c) s = .next ((taken s c 0x0502).modAcq c.pasture (fun a => { a with disarm := true }))) ∧
    (c.params.length = 0 → (s.acqOf c.pasture).state = .armed →
      exec (.acqForce c) s = .next ((taken s c 0x0503).modAcq c.pasture (fun a => { a with force := true }))) ∧
    (c.params.length = 40 → paramZero c 12 4 → paramZero c 17 7 → paramZero c 36 4 → param c 0 8 % 64 = 0 →
      s.areaLen c ≤ param c 8 4 → param c 16 1 ≤ 2 → s.areaHolds c = true →
      (s.acqOf c.pasture).state ∈ [AcqState.idle, .armed, .post, .done] → (s.pas c.pasture).flow.readNo < 2 ^ 32 →
      exec (.acqRead c) s = .next ((taken s c 0x0504).acqReadBack c (cmdOf s c 0x0504))) ∧
    (c.params.length = 2144 → (s.acqOf c.pasture).state ∈ [AcqState.idle, .done] →
      acqBodyFault ((s.acqOf c.pasture).program c.params).plan (s.probeFolds c.pasture) = none →
      exec (.acqProgram c) s = .next
        (((taken s c 0x0505).modAcq c.pasture (fun a => a.program c.params)).complete (cmdOf s c 0x0505) 0 []))

/-- DIAG_REG_READ returns a register's word (R315). DIAG_MEM_READ and DIAG_MEM_WRITE reach memory that DIAG's regions permit, in the
states of Table 5-3 (R136, R140): at once where the units of the range are awake and the ports of its scratchpads free, as the readback
of its bytes or the write of the whole range, and otherwise they wait for those (R134, R433). That a read of HBM is bound to no state is
the model's reading (DEDUCED, log 38). -/
def Obligations.DiagnosticCommandsComplete : Prop :=
  ∀ (s : State) (c : Cmd),
    (∀ v : Nat, takesDevice s c [.service, .emulate, .minimal, .hold, .recover] false → c.params.length = 8 → paramZero c 2 2 →
      (taken s c 0x0D01).diagReg (param c 0 2) (param c 4 4) = .value v →
      exec (.diagRegRead c) s = .next ((taken s c 0x0D01).complete (cmdOf s c 0x0D01) 0 (leBytes 8 v))) ∧
    (takesPasture s c → s.pstate c.pasture ≠ .recovering → c.params.length = 32 → paramZero c 12 4 → paramZero c 28 4 →
      resultFits c (param c 24 4) → param c 16 8 % 2 = 0 → 2 ≤ param c 24 4 → param c 24 4 ≤ 1048576 → param c 24 4 % 2 = 0 →
      s.diagPermits c.pasture (param c 16 8) (param c 24 4) false = true →
      s.diagState c.pasture (param c 16 8) false = true → (s.pas c.pasture).flow.readNo < 2 ^ 32 →
      let u := taken s c 0x0D02
      let j : DiagJob := { cmd := c, prog := cmdOf s c 0x0D02, write := false, next := 0, got := [] }
      (u.diagNow j = true → exec (.diagMemRead c) s = .next (
        let d := ((rangePads (param c 16 8) (param c 24 4)).foldl (fun w x => w.padTake x.1 x.2) u).diagBytes (param c 16 8) (param c 24 4)
        d.2.diagFinishRead j d.1)) ∧
      (u.diagNow j = false → exec (.diagMemRead c) s = .next (u.diagWait j))) ∧
    (takesPasture s c → s.pstate c.pasture ≠ .recovering → c.params.length ≤ 262160 → 2 ≤ param c 8 4 → param c 8 4 % 2 = 0 →
      c.params.length = 16 + (param c 8 4 + 7) / 8 * 8 → paramZero c 12 4 →
      paramZero c (16 + param c 8 4) (c.params.length - (16 + param c 8 4)) → param c 0 8 % 2 = 0 →
      s.diagPermits c.pasture (param c 0 8) (param c 8 4) true = true → s.diagState c.pasture (param c 0 8) true = true →
      let u := taken s c 0x0D03
      let j : DiagJob := { cmd := c, prog := cmdOf s c 0x0D03, write := true, next := 0, got := [] }
      (u.diagNow j = true → exec (.diagMemWrite c) s = .next (
        let v := (rangePads (param c 0 8) (param c 8 4)).foldl (fun w x => w.padTake x.1 x.2) u
        (v.diagStore c.pasture (param c 0 8) (slice c.params 16 (param c 8 4))).complete (cmdOf s c 0x0D03) 0 [])) ∧
      (u.diagNow j = false → exec (.diagMemWrite c) s = .next (u.diagWait j)))

/-- RUN, UNLOAD, LOAD_ABORT, SET_WDOG, TASK_KICK, ACQ_ARM, RING_INFO, DIAG_MEM_READ and SESSION_CLOSE, whose cards require a
session, are refused with 0x0406 where their packet carries no SESSION (R299). -/
def Obligations.SessionIsRequired : Prop :=
  ∀ (s : State) (c : Cmd), ringReady s c → s.dev.mode ∈ [Mode.service, .emulate] → c.session = false →
    s.pstate c.pasture ≠ .recovering →
    exec (.run c) s = .next ((taken s c 0x0301).complete (cmdOf s c 0x0301) 0x0406 []) ∧
    exec (.unload c) s = .next ((taken s c 0x0101).complete (cmdOf s c 0x0101) 0x0406 []) ∧
    exec (.loadAbort c) s = .next ((taken s c 0x0202).complete (cmdOf s c 0x0202) 0x0406 []) ∧
    exec (.setWdog c) s = .next ((taken s c 0x0303).complete (cmdOf s c 0x0303) 0x0406 []) ∧
    exec (.taskKick c) s = .next ((taken s c 0x0402).complete (cmdOf s c 0x0402) 0x0406 []) ∧
    exec (.acqArm c) s = .next ((taken s c 0x0501).complete (cmdOf s c 0x0501) 0x0406 []) ∧
    exec (.ringInfo c) s = .next ((taken s c 0x0601).complete (cmdOf s c 0x0601) 0x0406 []) ∧
    exec (.diagMemRead c) s = .next ((taken s c 0x0D02).complete (cmdOf s c 0x0D02) 0x0406 []) ∧
    exec (.sessionClose c) s = .next ((taken s c 0x0B03).complete (cmdOf s c 0x0B03) 0x0406 [])


/-! ### Window W0

`u` is the state in which the write finds the device: a doorbell, or any other access of W0, may first end a ladder step. -/

/-- A PAD in its place moves HEAD over its words (R296). A write of CR_CMD_TAIL or CR_CPL_HEAD in its range moves the index and the
device takes what the ring now gives; any other is ignored and sets BAD_DOORBELL (R294). Writing 1 to HALTED clears it, and intake
resumes (R302). -/
def Obligations.RingIndexWrites : Prop :=
  ∀ (s : State) (n value : Nat) (bytes : List Byte),
    (∀ words : Nat, s.ringServes n false = true → 2 ≤ words → words ≤ (s.ring n).offered →
      8 * (s.ring n).cmdHead % 2 ^ (s.ring n).cmdLog2 + 8 * words ≤ 2 ^ (s.ring n).cmdLog2 →
      exec (.pad n words) s = .next (s.modRing n (fun r => { r with cmdHead := wrapTo 32 (r.cmdHead + words) }))) ∧
    (s.w0Open = true → value < 2 ^ 32 → (s.ring n).offered ≤ wrapSub 32 value (s.ring n).cmdHead →
      wrapSub 32 value (s.ring n).cmdHead ≤ 2 ^ (s.ring n).cmdLog2 / 8 →
      exec (.crCmdTailWrite n value bytes) s = .next (
        let u := (s.placePackets n bytes).ladderEvent .doorbell
        (u.modRing n (fun r => { r with cmdTail := value })).serveRing n)) ∧
    (s.w0Open = true → value < 2 ^ 32 → (wrapSub 32 value (s.ring n).cmdHead < (s.ring n).offered ∨
        2 ^ (s.ring n).cmdLog2 / 8 < wrapSub 32 value (s.ring n).cmdHead) →
      exec (.crCmdTailWrite n value bytes) s = .next (
        let u := (s.placePackets n bytes).ladderEvent .doorbell
        u.modRing n (fun r => { r with badDoorbell := true }))) ∧
    (s.w0Open = true → value < 2 ^ 32 →
      wrapSub 32 value (s.ring n).cplHead ≤ wrapSub 32 (s.ring n).cplTail (s.ring n).cplHead →
      exec (.crCplHeadWrite n value) s = .next (
        let u := s.ladderEvent .w0Access
        (u.modRing n (fun r => { r with cplHead := value })).serveRing n)) ∧
    (s.w0Open = true → value < 2 ^ 32 →
      wrapSub 32 (s.ring n).cplTail (s.ring n).cplHead < wrapSub 32 value (s.ring n).cplHead →
      exec (.crCplHeadWrite n value) s = .next (
        let u := s.ladderEvent .w0Access
        u.modRing n (fun r => { r with badDoorbell := true }))) ∧
    (s.w0Open = true →
      exec (.crStatusHaltedClear n) s = .next (
        let u := s.ladderEvent .w0Access
        (u.modRing n (fun r => { r with halted := false })).serveRing n))

/-- ENABLE takes effect on a quiesced ring whose sizes lie in range, and then every index and the sequence number are 0 and the
binding has ended; otherwise ENABLE stays 0 and CONFIG_ERR is set. Clearing ENABLE ends the binding once nothing is in progress.
No other ring, and no byte of memory, changes (R293). -/
def Obligations.RingEnableWrites : Prop :=
  ∀ (s : State) (n value : Nat), s.w0Open = true →
    ((s.ring n).enable = true → exec (.crCtrlEnableSet n value) s = .next (s.ladderEvent .w0Access)) ∧
    ((s.ring n).enable = false → ∃ t : State, exec (.crCtrlEnableSet n value) s = .next t ∧
      (∀ m, m ≠ n → t.ring m = s.ring m) ∧ t.host.mem = s.host.mem ∧ t.hbm = s.hbm ∧
      t.ring n = (
        let r := { s.ring n with cmdLog2 := bitsOf value 8 5, cplLog2 := bitsOf value 16 4 }
        if s.inProgress n = 0 ∧ 12 ≤ r.cmdLog2 ∧ r.cmdLog2 ≤ 22 ∧ 4 ≤ r.cplLog2 ∧ r.cplLog2 ≤ 14 then
          { r with enable := true, cmdTail := 0, cmdHead := 0, cplHead := 0, cplTail := 0, seq := 0, bound := none }
        else { r with configErr := true })) ∧
    ((s.ring n).enable = true → ∃ t : State, exec (.crCtrlEnableClear n) s = .next t ∧
      (∀ m, m ≠ n → t.ring m = s.ring m) ∧ t.host.mem = s.host.mem ∧ t.hbm = s.hbm ∧
      t.ring n = { s.ring n with enable := false, bound := if s.inProgress n = 0 then none else (s.ring n).bound })

/-- A doorbell sets TAIL of a HOST_IN queue or HEAD of a HOST_OUT queue of a pasture that is LOADED, RUNNING, STEPPING or FROZEN;
every other write is ignored and counted (R215). -/
def Obligations.FlowDoorbells : Prop :=
  ∀ (s : State) (q size value : Nat), s.w0Open = true →
    let d := s.queue q
    let u := s.ladderEvent .doorbell
    let held := ∃ p, s.queueOwner q = some p ∧ s.pstate p ∈ [PState.loaded, .running, .stepping, .frozen]
    (held → size = 8 → value < 2 ^ 32 → d.role = roleHostIn → d.count ≤ wrapSub 32 value d.head →
      wrapSub 32 value d.head ≤ d.cap →
      exec (.flowDoorbellWrite q size value) s = .next (
        let w := u.modQueue q (fun x => { x with tail := value, highWater := max x.highWater (wrapSub 32 value x.head) })
        if d.count = 0 ∧ value ≠ d.head then w.queueEvent q else w)) ∧
    (held → size = 8 → value < 2 ^ 32 → d.role = roleHostOut → wrapSub 32 value d.head ≤ d.count →
      exec (.flowDoorbellWrite q size value) s = .next (
        let w := u.modQueue q (fun x => { x with head := value })
        if value = d.head then w else w.headAdvanced q)) ∧
    ((¬ held ∨ size ≠ 8 ∨ 2 ^ 32 ≤ value ∨ (d.role ≠ roleHostIn ∧ d.role ≠ roleHostOut) ∨
        (d.role = roleHostIn ∧ (wrapSub 32 value d.head < d.count ∨ d.cap < wrapSub 32 value d.head)) ∨
        (d.role = roleHostOut ∧ d.count < wrapSub 32 value d.head)) →
      exec (.flowDoorbellWrite q size value) s = .next (u.modQueue q (fun x => { x with dbReject := satTo 16 (x.dbReject + 1) })))

/-- VALID written 1 clears VALID and A_COUNT (R196). An access that R290 does not serve only sets BAD_ACCESS. A write of
DEVICE_EVENTS clears the bits written 1 and no other bit of any register; one past BAR0 is an Unsupported Request, which AER logs
(R366), and one to a function that does not answer reaches nothing; in the diagnostic window it changes no register while the window is closed, and where the window is open a debug override
overrides its island's clock (R454), while anything else there is the vendor's and the model stops (R423). -/
def Obligations.RegisterWrites : Prop :=
  ∀ (s : State) (p offset size value : Nat) (b : Bool),
    (s.w0Open = true → ∃ t : State, exec (.assertValidClear p) s = .next t ∧
      (t.pas p).assert = { (s.pas p).assert with valid := false, count := 0 } ∧
      (∀ q, q ≠ p → t.pas q = s.pas q) ∧ t.hbm = s.hbm ∧ t.dev.events = (s.ladderEvent .w0Access).dev.events) ∧
    (s.w0Open = true → exec (.w0BadAccess b) s = .next ((s.ladderEvent .w0Access).devEvent evBadAccess)) ∧
    (s.w0Open = true → offset < 0x400000 → ((size ≠ 4 ∧ size ≠ 8) ∨ offset % size ≠ 0) →
      exec (.registerWrite offset size value) s = .next ((s.ladderEvent .w0Access).devEvent evBadAccess)) ∧
    (s.w0Open = true → value < 2 ^ 64 →
      exec (.registerWrite 0x048 8 value) s = .next
        ((s.ladderEvent .w0Access).modDev (fun d => { d with events := d.events &&& ~~~(BitVec.ofNat 9 value) }))) ∧
    (s.w0Open = false → exec (.registerWrite offset size value) s = .next s) ∧
    (s.w0Open = true → 0x400000 ≤ offset → exec (.registerWrite offset size value) s = .next s.logUr) ∧
    (s.w0Open = true → 0x100000 ≤ offset → offset < 0x400000 → (size = 4 ∨ size = 8) → offset % size = 0 → value < 2 ^ (8 * size) →
      let u := s.ladderEvent .w0Access
      (s.fuses.lcState ∉ [0, 3] → exec (.registerWrite offset size value) s = .next u) ∧
      (s.fuses.lcState ∈ [0, 3] → exec (.registerWrite offset size value) s =
        match Config.windowOverride offset value with
        | some i => .next (u.overrideIsland i)
        | none => .refused .diagnosticWindow)) ∧
    (s.w0Open = true → offset < 0x100000 → (size = 4 ∨ size = 8) → offset % size = 0 → value < 2 ^ (8 * size) →
      exec (.registerWrite offset size value) s = .next ((s.ladderEvent (w0Event offset)).writeW0 offset size value))

/-- Every command answers a next state, but a write into the open diagnostic window that is no debug override (R423, R454). -/
def Obligations.NothingElseStops : Prop :=
  ∀ (c : Instr) (s : State),
    (∃ t, exec c s = .next t) ∨
    (∃ offset size value, c = .registerWrite offset size value ∧ 0x100000 ≤ offset ∧ offset < 0x400000 ∧ s.w0Open = true ∧
      s.diagOpen = true ∧ Config.windowOverride offset (value % 2 ^ (8 * size)) = none ∧ exec c s = .refused .diagnosticWindow)


/-! ### Folds -/

/-- Table 2-2: the step-bus bit, the port E write, the import and the assertion event of each op; NOP drives 0, writes nothing and
imports nothing (R36, R77, R78). What an op writes stands among the writes of its slot. Nothing but the fold changes, and in it only
what the op names. -/
def Obligations.BpOperations : Prop :=
  ∀ (s : State) (f bp p : Nat),
    let u := s.prepare f p
    let x := u.fold f
    let i := x.instrNow bp
    let r := bitOf i.tt (8 * b2n (x.read bp i.d) + 4 * b2n (x.read bp i.c) + 2 * b2n (x.read bp i.b) + b2n (x.read bp i.a))
    let e := bitOf i.tt (4 * b2n (x.read bp i.c) + 2 * b2n (x.read bp i.b) + b2n (x.read bp i.a))
    (bpReady s f bp p opNop → exec (.nop f bp) s =
      .next (u.modFold f (fun y => { y with seq := { y.seq with done := bp :: y.seq.done } }))) ∧
    (bpReady s f bp p opEval → exec (.eval f bp) s = .next (u.modFold f (fun y => bpDone y bp r (some r)))) ∧
    (bpReady s f bp p opEvals → exec (.evals f bp) s = .next (u.modFold f (fun y => { bpDone y bp r none with
      seq := { (bpDone y bp r none).seq with nx0 := y.seq.nx0 ++ [{ bp := bp, entry := i.dst, val := r }] } }))) ∧
    (bpReady s f bp p opEvale → exec (.evale f bp) s =
      .next (u.modFold f (fun y => bpDone y bp e (if x.read bp i.d then some e else none)))) ∧
    (bpReady s f bp p opCheck → exec (.check f bp) s = .next (u.modFold f (fun y => { bpDone y bp r none with
      seq := { (bpDone y bp r none).seq with ev0 := if r then y.seq.ev0 ++ [(bp, i.dst)] else y.seq.ev0 } }))) ∧
    (bpReady s f bp p opCopy → exec (.copy f bp) s =
      .next (u.modFold f (fun y => bpDone y bp (x.read bp i.a) (some (x.read bp i.a))))) ∧
    (bpReady s f bp p opXonly → exec (.xonly f bp) s = .next (u.modFold f (fun y => bpDone y bp false none)))

/-- Every op other than NOP imports step-bus bit xsel into entry 448 + xdst of its BP, whatever its other fields hold: once the
slot's writes are seen, that entry reads the bit (R37). -/
def Obligations.EveryOpImports : Prop :=
  ∀ (s : State) (f bp p op : Nat) (c : Instr),
    (op, c) ∈ [(opEval, Instr.eval f bp), (opEvals, .evals f bp), (opEvale, .evale f bp), (opCheck, .check f bp),
      (opCopy, .copy f bp), (opXonly, .xonly f bp)] →
    bpReady s f bp p op →
    ∃ t, exec c s = .next t ∧
      (t.fold f).readAfter bp (448 + ((s.fold f).instrNow bp).xdst) =
        bitOf (s.fold f).seq.busPrev ((s.fold f).instrNow bp).xsel

/-- A write of slot t stands aside while slot t runs, is carried through slot t + 1 and is seen by the reads of slot t + 2 and of
every later one, the last write of an entry before the others; the BPs of a slot see none of its own writes. An import takes its bit
from the step bus of the slot before, so it can first be read in the third slot after the one that drove it. The BARRIER slot completes
every write, and nothing crosses it on the step bus (R49, R45, R50). The next-value cells and the assertion latch take what the slot gave
them as it is left, and nothing before (R38, R48, R79). -/
def Obligations.WritesSeenTwoSlotsOn : Prop :=
  ∀ (x : Fold) (e b k bp : Nat), k < 512 → (∀ w ∈ x.seq.wr1 ++ x.seq.wr0 ++ x.seq.nx0, w.entry < 512) →
    let y := x.leave e
    let last (l : List NrfWrite) (old : Bool) : Bool :=
      ((l.reverse.find? (fun w => w.bp == b && w.entry == k)).map NrfWrite.val).getD old
    (x.seq.slot ≠ x.seq.lastSlot → y.read b k = last x.seq.wr1 (x.read b k) ∧ y.seq.wr1 = x.seq.wr0 ∧ y.seq.wr0 = [] ∧
      y.seq.busPrev = x.seq.bus ∧ y.seq.slot = x.seq.slot + 1) ∧
    (x.seq.slot = x.seq.lastSlot → y.read b k = last (x.seq.wr1 ++ x.seq.wr0) (x.read b k) ∧ y.seq.wr1 = [] ∧ y.seq.wr0 = [] ∧
      y.seq.busPrev = 0 ∧ y.seq.ended = true) ∧
    (tget y.nrf.nxt false (nrfKey b k) = last x.seq.nx0 (tget x.nrf.nxt false (nrfKey b k)) ∧
      y.latch = x.latch.addAll x.seq.slot x.seq.ev0 ∧ y.seq.nx0 = [] ∧ y.seq.ev0 = []) ∧
    (∀ z : Fold, z = x.execBp bp → z.nrf = x.nrf ∧ z.latch = x.latch ∧ z.seq.wr1 = x.seq.wr1 ∧ x.seq.wr0 <+: z.seq.wr0 ∧
      z.seq.busPrev = x.seq.busPrev ∧
      ((x.instrNow bp).op ≠ opNop → z.seq.wr0.getLast? = some
        { bp := bp, entry := 448 + (x.instrNow bp).xdst, val := bitOf x.seq.busPrev (x.instrNow bp).xsel }))

/-- What a BP operation leaves alone: every other fold, every other BP's entries, the cells and the assertion latch, memory, the pastures
and the output (R48). -/
def Obligations.BpFrame : Prop :=
  ∀ (s t : State) (f bp : Nat) (c : Instr),
    c ∈ [Instr.nop f bp, .eval f bp, .evals f bp, .evale f bp, .check f bp, .copy f bp, .xonly f bp] → exec c s = .next t →
    t = { s with folds := t.folds } ∧ (∀ g, g ≠ f → t.fold g = s.fold g) ∧ (t.fold f).store = (s.fold f).store ∧
    (t.fold f).seq.slot = (s.fold f).seq.slot ∧ (t.fold f).dm = (s.fold f).dm ∧
    (∀ b k, b ≠ bp → k < 512 → (t.fold f).readAfter b k = (s.fold f).readAfter b k) ∧
    (t.fold f).nrf = (s.fold f).nrf ∧ (t.fold f).latch = (s.fold f).latch

/-- A scratchpad operation whose turn has come waits at its port with every operation of its row, and one of another row stalls its fold
until its own row comes; two write-class operations of the row that touch one word fault the pasture with SCRATCH_WRITE_CONFLICT and
neither is performed; while its turn has not come the fold stalls (R128, R131, R132, R133). -/
def Obligations.ScratchpadGrants : Prop :=
  ∀ (s : State) (f p : Nat) (b : Bool) (op : SpOp) (c : Instr),
    (op, c) ∈ [(SpOp.rd, Instr.scratchpadRd f b), (.wr, .scratchpadWr f b), (.set, .scratchpadSet f b),
      (.clr, .scratchpadClr f b), (.wide, .scratchpadWide f b)] →
    s.inSlot f = some p → ((s.fold f).sideNow.sp b).kind = some op → b2n b ∉ (s.fold f).seq.issued →
    let v := grantState s f p
    let q := pairOf f
    let k := ((v.fold f).sideNow.sp b).spx
    (∀ (a : SpAccess) (l : List SpAccess), v.padCandidates q k (v.fold f).seq.slot = some (a :: l) →
      let row := (a :: l).filter (fun x => x.addr / 16 == a.addr / 16)
      let w := (row.foldl (fun w x => w.modSeq x.fold (fun y => { y with issued := b2n x.b :: y.issued })) v).modPair q
        (fun y => { y with port := y.port ++ row })
      (conflicts row = [] → (∃ x ∈ row, x.fold = f ∧ x.b = b) → exec c s = .next w) ∧
      (conflicts row = [] → (∀ x ∈ row, ¬ (x.fold = f ∧ x.b = b)) → exec c s = .next (w.noteCause f p)) ∧
      (conflicts row ≠ [] → ∀ p', (v.fold a.fold).pasture = some p' →
        exec c s = .next ((v.faultReported p' {
          status := 0x0607, unit := q, slot := (v.fold f).seq.slot, index := k, fields := conflictFields (conflicts row),
          dir := false, valid := true, ecycle := (v.pas p').stat.ecycle }).noteCause f p))) ∧
    (v.padCandidates q k (v.fold f).seq.slot = none → exec c s = .next (v.noteCause f p))

/-- Where an operation waits at a scratchpad and the device is not in HOLD, the port performs the oldest one that waits there together
with every waiting operation of its slot and row: it completes for every such state. A word that one write of them covers takes its datum
(WR), its datum OR the word (SET) or the word AND NOT its datum (CLR), a word that none covers stays, each read delivers the words that
stood there to its groups, and no other scratchpad, fold or byte of HBM changes (R84, R111, R128). In HOLD nothing is performed (R111). -/
def Obligations.ScratchpadPortPerforms : Prop :=
  ∀ (s : State) (q k : Nat) (h : SpAccess), (s.pair q).port.find? (fun a => a.pad == k) = some h →
    let now (a : SpAccess) : Bool := a.pad == k && a.slot == h.slot && a.addr / 16 == h.addr / 16
    let row := (s.pair q).port.filter now
    let covers (a : SpAccess) (key : Nat) : Bool :=
      a.op.writes && decide (padKey k a.addr ≤ key) && decide (key < padKey k a.addr + a.n)
    (s.dev.mode ≠ .hold → ∃ t, exec (.scratchpadAccess q k) s = .next t ∧
      (t.pair q).port = (s.pair q).port.filter (fun a => !now a) ∧
      (∀ key, row.filter (fun a => covers a key) = [] → (t.pair q).word key = (s.pair q).word key) ∧
      (∀ key a, row.filter (fun x => covers x key) = [a] → (t.pair q).word key =
        let d := a.data.getD (key - padKey k a.addr) 0
        match a.op with
        | .set => (s.pair q).word key ||| d
        | .clr => (s.pair q).word key &&& ~~~d
        | _ => d) ∧
      (∀ g, (t.fold g).seq.spDue = (s.fold g).seq.spDue ++ (row.filter (fun a => a.fold == g && !a.op.writes)).flatMap (fun a =>
        (List.range a.n).map (fun i => { slot := a.due, group := a.rg + i, word := (s.pair q).word (padKey k (a.addr + i)) }))) ∧
      (∀ r, r ≠ q → t.pair r = s.pair r) ∧ (∀ g, (t.fold g).nrf = (s.fold g).nrf ∧ (t.fold g).dm = (s.fold g).dm) ∧
      t.hbm = s.hbm ∧ t.host = s.host) ∧
    (s.dev.mode = .hold → exec (.scratchpadAccess q k) s = .next s)

/-- A send puts its group on the outbound endpoint's FIFO and a receive takes the oldest word of its inbound one, where
nothing holds the slot back; otherwise the fold stalls with the cause (R87, R109, R110). A word at the end of its path enters
the destination FIFO, in its order, and waits where that is full or a boundary of the channel is not ready (R99, R104); over a link it
comes from the buffer of the receiving port (R108). The side-word flags: RING makes the fold's state
final, STALL_CHECK copies the stall steps so far, PROBE latches the probe list, which with no PROBE slot is latched at the
barrier (R47). -/
def Obligations.ChannelOperationsAndFlags : Prop :=
  (∀ (s : State) (f p c : Nat) (k : Bool),
      let v := s.evaluate f p
      (slotRuns s f p → ((s.fold f).sideNow.snd k).v = true → (2 + b2n k) ∉ (v.fold f).seq.issued →
        (v.pas p).chanFrom f ((v.fold f).sideNow.snd k).ep = some c →
        exec (.channelSend f k) s = .next ((v.modChan p c (fun h => { h with
          srcFifo := h.srcFifo ++ [busGroup (v.fold f).seq.bus ((v.fold f).sideNow.snd k).g], sent := h.sent + 1 })).noteSend p c
            |>.markIssued f (2 + b2n k))) ∧
      (slotRuns s f p → ((s.fold f).sideNow.rcv k).v = true → (5 + b2n k) ∉ (v.fold f).seq.issued →
        (v.pas p).chanInto f ((v.fold f).sideNow.rcv k).ep = some c →
        exec (.channelReceive f k) s =
          .next ((v.modChan p c (fun h => { h with dstFifo := h.dstFifo.tail })).markIssued f (5 + b2n k))) ∧
      (s.inSlot f = some p → v.stallCause f p ≠ 0 →
        (((s.fold f).sideNow.snd k).v = true →
          exec (.channelSend f k) s = .next (v.modSeq f (fun y => { y with cause := v.stallCause f p }))) ∧
        (((s.fold f).sideNow.rcv k).v = true →
          exec (.channelReceive f k) s = .next (v.modSeq f (fun y => { y with cause := v.stallCause f p })))) ∧
      (s.pathsMove p = true → c < (s.pas p).chans.length → ((s.pas p).chan c).dstKind = .fold →
        (∀ (n : Nat) (w : BitVec 16) (r : List (Nat × BitVec 16)), ((s.pas p).chan c).srcKind ≠ .link →
          ((s.pas p).chan c).path = (n, w) :: r →
          (s.endsReady ((s.pas p).chan c) = true → ((s.pas p).chan c).dstFifo.length < 16 → exec (.channelWordArrival p c) s =
            .next (s.modChan p c (fun h => { h with path := r, dstFifo := h.dstFifo ++ [w] }))) ∧
          (s.endsReady ((s.pas p).chan c) = false ∨ 16 ≤ ((s.pas p).chan c).dstFifo.length →
            exec (.channelWordArrival p c) s = .next s)) ∧
        (∀ (w : BitVec 16) (u : State), ((s.pas p).chan c).srcKind = .link → s.takeLinkWord p c = some (w, u) →
          s.endsReady ((s.pas p).chan c) = true → ((s.pas p).chan c).dstFifo.length < 16 →
          exec (.channelWordArrival p c) s = .next (u.modChan p c (fun h => { h with dstFifo := h.dstFifo ++ [w] }))))) ∧
  (∀ (s : State) (f p : Nat), slotRuns s f p →
      let v := s.evaluate f p
      ((s.fold f).sideNow.ring = true → 9 ∉ (v.fold f).seq.issued →
        exec (.stateFinal f) s = .next ((v.modSeq f (fun q => { q with stateFinal := true })).markIssued f 9)) ∧
      ((s.fold f).sideNow.stallCheck = true → 8 ∉ (v.fold f).seq.issued →
        exec (.stallCheck f) s =
          .next ((v.modSeq f (fun q => { q with stallMark := satTo 24 q.stallSteps })).markIssued f 8)) ∧
      ((s.fold f).sideNow.probe = true → 7 ∉ (v.fold f).seq.issued →
        exec (.probeLatch f) s = .next ((v.modFold f (fun x => { x with probeLatch := x.probeValue })).markIssued f 7)))

/-- A deep memory operation enters the queue with its address and, for a read, the slot and ecycle of its word (R89, R91);
outside its region it is not performed and the pasture is FAULTED with REGION_VIOLATION (R90). A read word, sampled once every earlier
request of the port and of the pasture's earlier ecycles has been performed, returns to its entry (R92, R147, R148). The acceptance of a
write frees its queue entry (R145, R497); the write changes the bytes its mask selects and no other byte of memory, and waits for the
requests before it (R89, R92, R148). That it is performed at once where nothing is before it is the model's choice (DESIGN CHOICE, log
14). -/
def Obligations.DeepMemoryRequests : Prop :=
  (∀ (s : State) (f p : Nat) (kind : DmKind) (c : Instr),
      (kind, c) ∈ [(DmKind.rd, Instr.dmRd f), (.wr, .dmWr f), (.wrm, .dmWrm f)] → slotRuns s f p →
      (s.fold f).sideNow.dmf.kind = some kind → 4 ∉ (s.fold f).seq.issued →
      let v := s.evaluate f p
      let x := v.fold f
      let w := x.sideNow.dmf
      let rg := tget (s.pas p).comp.dmRegions DmRegion.init w.region
      let off := (busGroup x.seq.bus w.ag).toNat + 65536 * (busGroup x.seq.bus (w.ag + 1)).toNat
      let u := x.seq.slot + x.store.due.getD w.due 0
      let ecy := (s.pas p).stat.ecycle
      (rg.valid = true → 8 * off < 4096 * rg.pages → exec c s = .next ((v.markIssued f 4).modFold f (fun y => { y with
        dm := { y.dm with queue := y.dm.queue ++ [{
          kind := kind, ecycle := ecy, addr := rg.base + 8 * off, dueSlot := u % (x.seq.lastSlot + 1),
          dueEcy := ecy + u / (x.seq.lastSlot + 1), group := w.dg, data := BitVec.ofNat 64 (bitsOf x.seq.bus (16 * w.dg) 64),
          mask := if kind = .wrm then BitVec.ofNat 8 (busGroup x.seq.bus w.mg).toNat else 0xFF, word := none, acc := false }] } }))) ∧
      (rg.valid = false ∨ 4096 * rg.pages ≤ 8 * off → exec c s = .next ((v.markIssued f 4).faultReported p {
        status := 0x0604, unit := f, slot := x.seq.slot, index := w.region, fields := 0, dir := false, valid := true,
        ecycle := ecy }))) ∧
  (∀ (s : State) (f p i : Nat) (r : DmReq), s.dev.mode ≠ .hold → (s.fold f).pasture = some p → f ∈ s.pasFolds p →
      (s.fold f).dm.queue[i]? = some r →
      (r.kind = .rd → r.word = none → (∀ e ∈ (s.fold f).dm.queue.take i, e.open_ = false) → s.dmOrdered p r.ecycle = true →
        ∃ t, exec (.dmWordReturn f i) s = .next t ∧ (t.fold f).dm.queue[i]? = some { r with word := some (s.hbmWord r.addr) } ∧
          t.pairs = s.pairs ∧ t.host = s.host ∧
          ((∀ g ∈ s.pasFolds p, ∀ e ∈ (s.fold g).dm.queue, e.acc = false) →
            t.hbm = s.hbm ∧ (∀ g, g ≠ f → t.fold g = s.fold g) ∧
            (t.fold f).dm.queue = (s.fold f).dm.queue.set i { r with word := some (s.hbmWord r.addr) })) ∧
      ((s.fold f).dm.queue.findIdx? (fun e => e.kind != .rd && !e.acc) = some i →
        ∃ t, exec (.dmWriteAccept f) s = .next t ∧
          (t.fold f).dm.entries = ({ (s.fold f).dm with queue := (s.fold f).dm.queue.eraseIdx i } : DmPort).entries ∧
          t.pairs = s.pairs ∧ t.host = s.host ∧
          ((∀ g ∈ s.pasFolds p, ∀ e ∈ (s.fold g).dm.queue, e.acc = false) →
            (∀ g, g ≠ f → t.fold g = s.fold g) ∧
            ((∀ e ∈ (s.fold f).dm.queue.take i, e.open_ = false) → s.dmOrdered p r.ecycle = true →
              (t.fold f).dm.queue = (s.fold f).dm.queue.eraseIdx i ∧
              ∀ a, memGet t.hbm a = if r.addr ≤ a ∧ a < r.addr + 8 ∧ r.mask.getLsbD (a - r.addr) = true then
                (leBytes 8 r.data.toNat).getD (a - r.addr) 0 else memGet s.hbm a) ∧
            ((∃ e ∈ (s.fold f).dm.queue.take i, e.open_ = true) ∨ s.dmOrdered p r.ecycle = false →
              t.hbm = s.hbm ∧ (t.fold f).dm.queue[i]? = some { r with acc := true }))))

/-! ### Barriers, flows and faults of a pasture -/

/-- A fold whose BARRIER slot has completed arrives; its state is final, and with the last fold of the pasture the ecycle closes (R47,
R113). With no PROBE slot the probe latch is taken at the barrier (R47). The root releases a barrier that is ready, and never one
at which some fold or member has not arrived (R114); a member releases it with its parent's RELEASE (R117). -/
def Obligations.BarriersArriveAndRelease : Prop :=
  ∀ (s : State) (f p : Nat),
    let u := s.modSeq f (fun q => { q with arrived := true, ended := false, stateFinal := true, cause := 0 })
    ((s.fold f).pasture = some p → (s.fold f).seq.ended = true → (s.fold f).seq.arrived = false → s.running p = true →
      exec (.barrierArrival f) s = .next (if u.allArrived p then u.closeEcycle p else u)) ∧
    ((s.fold f).pasture = some p → ((s.fold f).seq.ended = true ∨ (s.fold f).seq.arrived = true) → s.running p = true →
      (s.fold f).hasProbeSlot = false →
      exec (.probeLatch f) s = .next (s.modFold f (fun x => { x with probeLatch := x.probeValue }))) ∧
    (s.isRoot p = true → s.barrierReady p = true →
      (s.eventWait p = false → (s.pas p).releasing = false →
        exec (.barrierRelease p) s = .next ((s.modExt p (fun x => { x with latched := false })).rootRelease p)) ∧
      ((s.pas p).committed = true → exec (.barrierRelease p) s = .next (s.rootRelease p))) ∧
    (∀ body : Nat, s.isRoot p = false → s.running p = true → s.dev.mode ≠ .hold → (s.pas p).run.relTok = some body →
      bitOf body 12 = false →
      exec (.barrierRelease p) s = .next (s.releaseBarrier p false (bitOf body 13) (bitOf body 14))) ∧
    (s.barrierComplete p = false → s.isRoot p = true ∨ (s.pas p).run.relTok = none → exec (.barrierRelease p) s = .next s)

/-- Where a release does not leave the pasture FAULTED, every fold of the pasture stands at slot 0 and has not arrived, each of its
state entries has its next value as its current one, and its next values are as they were (R53). -/
def Obligations.ReleaseSwapsState : Prop :=
  ∀ (s t : State) (p f k : Nat), s.isRoot p = true → s.barrierReady p = true → s.eventWait p = false →
    exec (.barrierRelease p) s = .next t → t.pstate p ≠ .faulted → f ∈ s.pasFolds p →
    (t.fold f).seq.slot = 0 ∧ (t.fold f).seq.arrived = false ∧ (t.fold f).nrf.nxt = (s.fold f).nrf.nxt ∧
    (tget (s.fold f).store.smap false k = true → tget (t.fold f).nrf.cur false k = tget (s.fold f).nrf.nxt false k)

/-- A cycle-start event is taken for a ready barrier of a pasture in EXTCLK, is an overrun where the barrier is not ready, and
is counted where the pasture is held (R194, R195). The three rows of Table 4-10, in its order (R124). The steps that a crossing and
a descent take are the model's reading (DEDUCED, log 40). -/
def Obligations.CycleStartsAndWatchdog : Prop :=
  (∀ (s : State) (port p : Nat),
      numsWhere 16 (fun q => (s.pas q).run.extPort == some port && (s.pas q).comp.edgePorts.contains port && s.isRoot q) = [p] →
      (s.pstate p = .running → (s.pas p).stat.runMode = .extclk → s.ready p = true → (s.pas p).ext.latched = false →
        exec (.cycStart port) s = .next ((s.modExt p (fun e => { e with
          slackMin := min e.slackMin (satTo 16 ((s.pas p).ext.readyFor.getD 0)) })).modRun p (fun r => { r with
            cross := some 3, event := 1 }))) ∧
      (s.pstate p = .running → (s.pas p).stat.runMode = .extclk → s.ready p = false →
        exec (.cycStart port) s = .next (s.overrun p)) ∧
      (s.pstate p ∈ [PState.loaded, .frozen] →
        exec (.cycStart port) s = .next (s.modExt p (fun e => { e with heldEv := satTo 16 (e.heldEv + 1) })))) ∧
  (∀ (s : State) (p : Nat), (s.pstate p).evaluates = true → s.dev.mode ≠ .hold → (s.pas p).wdog.enable = true →
      2 ^ (max 16 (min 36 (s.pas p).wdog.periodLog2)) ≤ (s.pas p).wdog.counter →
      let waits := (s.pasFolds p).filterMap (fun f => (s.waitOf f p).map (fun w => (f, w)))
      (∀ f w, waits.find? (fun e => s.waitEdge p e.2) = some (f, w) →
        exec (.watchdogExpiry p) s = .next ((((s.deadlockReport p f (some w)).modWdog p (fun d => { d with
          extWait := true, counter := 0 })).raiseVector (65 + p)).pasEvent p pevExtWait)) ∧
      (∀ f w l, (∀ e ∈ waits, s.waitEdge p e.2 = false) → waits = (f, w) :: l →
        exec (.watchdogExpiry p) s = .next (((s.deadlockReport p f (some w)).raiseVector (65 + p)).faultPas p 0x0605 none)) ∧
      (∀ f l, waits = [] → s.pasFolds p = f :: l →
        exec (.watchdogExpiry p) s = .next ((((s.deadlockReport p f none).modWdog p (fun d => { d with
          counter := 0 })).raiseVector (65 + p)).controlFault p 0x0606 none)))

/-- The take of a barrier lets it go on once every committed message is in its queue, and is a wait until then (R219); an idle engine
takes the head task of the next ready list (R235), and the effects of its run are applied as one group (R229). In DRAINING an engine
finishes the message it is moving, and nothing more (R200). -/
def Obligations.FlowsAndTasksRun : Prop :=
  ∀ (s : State) (p e t n ns : Nat),
    (∀ w : State, s.takeReady p = true → s.takePorts p (s.portsOf p rolePortOut) = (w, true) →
      exec (.flowTake p) s =
        .next ((w.modRun p (fun r => { r with taken := true })).modPFlow p (fun x => { x with bpWait := false }))) ∧
    (∀ w : State, s.takeReady p = true → s.takePorts p (s.portsOf p rolePortOut) = (w, false) → w.pstate p ≠ .faulted →
      exec (.flowTake p) s = .next (w.modPFlow p (fun x => { x with
        bpWait := true, bpBarriers := if x.bpWait then x.bpBarriers else satTo 32 (x.bpBarriers + 1) }))) ∧
    (∀ r : List Nat, (s.engine e).run = none → s.dev.mode ≠ .hold → s.nextServed e = some p → (s.pas p).flow.ready = t :: r →
      exec (.taskDispatch e) s = .next (
        let u := s.modPFlow p (fun w => match w.overflow with
          | [] => { w with ready := r }
          | o :: os => { w with ready := r ++ [o], overflow := os })
        (u.modTask t (fun x => { x with tstate := .running })).modEngine e (fun x => { x with
          cur := p, run := some (t, u.runCount (u.task t)) }))) ∧
    ((s.engine e).run = some (t, n) → (s.task t).owner = some p → s.dev.mode ≠ .hold → s.host.d3hot = false →
      s.pstate p ≠ .draining → (∀ i < min n (s.runCount (s.task t)), s.entryBad (s.task t) i = false) →
      exec (.taskRunComplete e none ns) s =
        .next ((s.modEngine e (fun x => x.finish ns)).runEffects p t (min n (s.runCount (s.task t))) ns e false)) ∧
    ((s.engine e).run = some (t, n) → (s.task t).owner = some p → s.dev.mode ≠ .hold → s.host.d3hot = false →
      s.pstate p = .draining → (s.task t).moves = true → 0 < min n (s.runCount (s.task t)) →
      (s.modEngine e (fun x => x.finish ns)).entryBad (s.task t) 0 = false →
      exec (.taskRunComplete e none ns) s = .next (((s.modEngine e (fun x => x.finish ns)).moveEntry (s.task t) p 0).advanceHead
        (s.task t).src 1))

/-- In a fetch-free step the scrubber reads one slot index, every word of it: one bit in error is counted and waits for its rewrite, and
two bits in a word are a control fault of the pasture (R55, R56, R57). A rewrite ends the oldest one-bit error; a bad image copy faults
the pasture (R57). In a step that is not fetch-free it does neither (R55). -/
def Obligations.ScrubberReadsAndRewrites : Prop :=
  ∀ (s : State) (f p : Nat) (bp : Option Nat) (found : List StoreErr),
    let x := s.fold f
    let i := x.ecc.scrubIdx
    let next (y : Fold) : Fold := { y with ecc := { y.ecc with scrubIdx := (i + 1) % 1024 } }
    let noted := found.foldl (fun w e => w.modFold f (fun y => { y with ecc := y.ecc.note i e.bp e.double true })) (s.modFold f next)
    (s.fetchFree f = true →
      (found.any StoreErr.double = false → exec (.scrubRead f found) s = .next noted) ∧
      (found.any StoreErr.double = true → x.pasture = some p → exec (.scrubRead f found) s = .next (noted.controlFault p 0x0601 none)) ∧
      ((i, bp, false) ∉ x.ecc.errs →
        exec (.scrubRead f [{ bp := bp, double := false }]) s = .next ((s.modFold f next).modFold f (fun y => { y with
          ecc := { y.ecc with
            sbe := satTo 16 (y.ecc.sbe + 1), inSide := bp.isNone, byScrub := true, errSlot := i, errBp := bp.getD 0
            errs := y.ecc.errs ++ [(i, bp, false)] } }))) ∧
      (∀ e, x.pasture = some p → s.pstate p ≠ .loading → x.ecc.errs.find? (fun e => !e.2.2) = some e →
        exec (.scrubRewrite f true) s = .next (s.modFold f (fun y => { y with
          ecc := { y.ecc with errs := y.ecc.errs.erase e } })) ∧
        exec (.scrubRewrite f false) s = .next (s.imageCopyFault f e.1))) ∧
    (∀ good : Bool, s.fetchFree f = false →
      exec (.scrubRead f found) s = .next s ∧ exec (.scrubRewrite f good) s = .next s)

/-- A control fault of a pasture that is LOADED, RUNNING, STEPPING or FROZEN starts its recovery where its ring plan is enabled, and
puts it in FAULTED where rings are disabled; in HOLD and RECOVER it waits for the mode (R23, R30). A parity error in the bellwether tree
is one of every pasture that uses its segment (R22). A one-bit error in a store word is only entered, and counted at each fetch (R56), and
an image copy that fails its check faults its pasture for good, with its report (R57, R498). -/
def Obligations.ControlFaultRecoversOrFaults : Prop :=
  (∀ (s : State) (src : FaultSource) (p : Nat),
    ((∃ f slot bp b, src = .storeDbe f slot bp b ∧ (s.fold f).pasture = some p) ∨
      (∃ f, src = .seqParity f ∧ (s.fold f).pasture = some p) ∨ (∃ n, src = .treeParity n ∧ s.treeUsers n = [p]) ∨
      src ∈ [.barrierParity p, .linkControl p, .serviceParity p]) →
    s.pstate p ∈ [PState.loaded, .running, .stepping, .frozen] → (s.pas p).ck.recovery = none →
    ∃ t, exec (.controlFault src) s = .next t ∧
      (s.dev.mode ≠ .hold → s.dev.mode ≠ .recover → s.ringsOn p = true → t.pstate p = .recovering) ∧
      (s.dev.mode ≠ .hold → s.dev.mode ≠ .recover → s.ringsOn p = false → t.pstate p = .faulted) ∧
      (s.dev.mode = .hold ∨ s.dev.mode = .recover → t.pastures = s.pastures ∧
        ∃ v, t.dev.holdFaults = s.dev.holdFaults ++ [(p, v)])) ∧
  (∀ (s : State) (n : TreeNode), exec (.controlFault (.treeParity n)) s =
    .next ((s.treeUsers n).foldl (fun w p => w.controlFault p 0x0606 none) s)) ∧
  (∀ (s : State) (f slot p : Nat) (bp : Option Nat),
    ((slot, bp, false) ∉ (s.fold f).ecc.errs → exec (.controlFault (.storeSbe f slot bp)) s = .next (s.modFold f (fun x => { x with
      ecc := { x.ecc with errs := x.ecc.errs ++ [(slot, bp, false)] } }))) ∧
    ((s.fold f).pasture = some p → s.pstate p ∈ [PState.loaded, .running, .stepping, .frozen, .recovering] →
      ∃ t, exec (.controlFault (.imageCopy f slot)) s = .next t ∧ t.pstate p = .faulted ∧
        (t.pas p).fault.status = 0x0603 ∧ (t.pas p).fault.unit = f ∧ (t.pas p).fault.slot = slot ∧ (t.pas p).fault.valid = true))

/-- Ring K, once complete, becomes ring C on one device and waits for the root's announcement in a span (R269, R270, R271), and in HOLD
its copy stands still (R285); a recovery whose folds have reached their stops ends (Table 10-8 step 8). -/
def Obligations.RingsCompleteAndRecoveriesEnd : Prop :=
  ∀ (s : State) (p ns : Nat),
    ((s.pas p).ck.copying = true → s.ringReadsDone p = true → s.dev.mode ≠ .hold → (s.pas p).ck.hostReq = false →
      (s.spanning p = true → exec (.ringComplete p) s = .next (s.modCk p (fun k => { k with copying := false, kHeld := true }))) ∧
      (s.spanning p = false →
        ∃ t, exec (.ringComplete p) s = .next t ∧ (t.pas p).ck.cEcycle = (s.pas p).ck.kEcycle ∧
          (t.pas p).ck.completeNo = (s.pas p).ck.currentNo ∧ (t.pas p).ck.copying = false ∧ t.pstate p = s.pstate p ∧
          (∀ f, (t.fold f).nrf = (s.fold f).nrf ∧ (t.fold f).seq = (s.fold f).seq) ∧ t.hbm = s.hbm ∧ t.pairs = s.pairs)) ∧
    (((s.pas p).ck.copying = false ∨ s.ringReadsDone p = false ∨ s.dev.mode = .hold) → exec (.ringComplete p) s = .next s) ∧
    (∀ r, (s.pas p).ck.recovery = some r → s.pstate p = .recovering → s.recoveryReached p = true →
      exec (.recoveryComplete p ns) s = .next (s.endRecovery p ns r))

/-! ### Edge ports, acquisition and time -/

/-- A word is handed over where IN_READY is 1 and taken where OUT_VALID is 1, in order, and moves nowhere otherwise (R103, R400); a
clock line that may start starts for the regions of its pasture, and frees an edge port that waits for it (R397). -/
def Obligations.EdgePortsPassWords : Prop :=
  ∀ (s : State) (port chan p c line : Nat) (w : BitVec 16),
    (s.inReady port chan = some (p, c) → exec (.edgePortWordIn port chan w) s =
      .next (s.modChan p c (fun h => { h with srcFifo := h.srcFifo ++ [w] }))) ∧
    (s.inReady port chan = none → exec (.edgePortWordIn port chan w) s = .next s) ∧
    (s.outValid port chan = some (p, c, w) → exec (.edgePortWordOut port chan) s =
      .next (let u := s.modChan p c (fun h => { h with dstFifo := h.dstFifo.tail, delivered := h.delivered + 1 })
        { u with out := s.out ++ [.fabricWord port chan w] })) ∧
    (s.outValid port chan = none → exec (.edgePortWordOut port chan) s = .next s) ∧
    (line / 2 = port % 8 → (s.region port).mayStart line = true →
      exec (.globalLineStart port line) s = .next (s.lineStart port line)) ∧
    ((s.region port).state = .released → (s.region port).epWait = true → edgeFclk (s.region port).head < 16 →
      (s.region (8 * (port / 8) + edgeFclk (s.region port).head / 2)).owner = (s.region port).owner →
      (s.region (8 * (port / 8) + edgeFclk (s.region port).head / 2)).mayStart (edgeFclk (s.region port).head) = true →
      exec (.epFclkStart port) s =
        .next (s.lineStart (8 * (port / 8) + edgeFclk (s.region port).head / 2) (edgeFclk (s.region port).head)))

/-- The engine evaluates its oldest waiting capture: a TIME_BASE wrap leaves its marker, a pending disarm ends capture once the records
held are written, and otherwise the sample lands with its trigger, which counts only in ARMED, or a pending force; with SPAN_TRIG its record
is held for the span's trigger (R246, R253, R255, R261). The copy of a snapshot that fits its buffer is written there, and
one that does not fit truncates it (R258). -/
def Obligations.CapturesAndSnapshots : Prop :=
  ∀ (s : State) (p : Nat) (c : Capture) (r : List Capture),
    let a := s.acqOf p
    let u := s.modAcq p (fun a => { a with waiting := r })
    let e := ({ a with waiting := r } : Acq).evaluate c
    let forced := a.force && a.state == .armed
    let h : HeldRec := { e.1 with trigger := (e.1.trigger && a.state == .armed) || forced }
    (a.waiting = c :: r → c.wrap = true → a.held = [] → exec (.acqCapture p) s = .next (u.putMarker p c)) ∧
    (a.waiting = c :: r → c.wrap = false → a.disarm = true →
      (((u.landHeld p).acqOf p).state ≠ .done → exec (.acqCapture p) s = .next ((u.landHeld p).acqDone p)) ∧
      (((u.landHeld p).acqOf p).state = .done → exec (.acqCapture p) s = .next (u.landHeld p))) ∧
    (a.waiting = c :: r → c.wrap = false → a.disarm = false → a.spanTrig = false →
      exec (.acqCapture p) s = .next ((u.modAcq p (fun _ => { e.2 with force := false })).landSample p h h.trigger forced)) ∧
    (a.waiting = c :: r → c.wrap = false → a.disarm = false → a.spanTrig = true → forced = false →
      exec (.acqCapture p) s = .next ((u.modAcq p (fun _ => { e.2 with force := false })).modAcq p (fun b => { b with
        held := b.held ++ [h] }))) ∧
    ((s.snap p).active = true → (s.snap p).memDone = false → s.acqReads p = true →
      (s.snapStoreLen p + s.snapMemLen p ≤ a.snapSize →
        exec (.snapshotComplete p) s = .next (State.modSnap
          { s with hbm := memWrite s.hbm (a.snapBuf (s.snap p).curB + s.snapStoreLen p) (s.snapMemory p) } p
            (fun n => { n with memDone := true }))) ∧
      (a.snapSize < s.snapStoreLen p + s.snapMemLen p →
        exec (.snapshotComplete p) s = .next (s.modSnap p (fun n => { n with active := false, truncated := true }))))

/-- Each PTP message leaves its times in the port's exchange (R371, R372); an Announce of the better master or of the same one is
followed (R373) once its master is qualified (PRESUMED, log 5), and lasts three of its intervals (the model's reading, log 25); a Delay_Resp forms the offset and the delay of the
exchange and gives them to the servo (R376); with no Sync the servo goes to HOLDOVER (R377); the tick after which TB_NOW wraps
has the effects of a wrap (R373). A status datagram request is answered with bytes of the identity block, at most 100 in a
second; a request that is not well formed, and every frame of no other use, is dropped and counted (R369, R370). -/
def Obligations.ManagementPortEvents : Prop :=
  (∀ (s : State) (port lane t1 t2 t3 t4 : Nat) (two : Bool) (corr : Int) (a : Announce),
      let u := s.modEth port (fun e => { e with link := true })
      (s.ethUp = true →
        exec (.sync port lane two t1 corr) s = .next (u.modEth port (fun e => { e with
          t1 := if two then none else some (t1 % 2 ^ 32), t2 := s.stampIn lane, corr := corr, t3 := none })) ∧
        exec (.followUp port t1 corr) s = .next (u.modEth port (fun e => { e with t1 := some (t1 % 2 ^ 32), corr := corr }))) ∧
      (s.ethUp = true → (s.ethPort port).best.isSome = true →
        exec (.delayReq port lane) s = .next (let v := s.modEth port (fun e => { e with t3 := some (s.stampOut lane) })
          { v with out := s.out ++ [.delayReq port (s.stampOut lane)] })) ∧
      (s.ethUp = true →
        let heard := (a.gm, 5 * a.interval) :: (u.ethPort port).heard.filter (fun h => h.1 != a.gm)
        ((u.ethPort port).qualifies a = true → (∀ b, (u.ethPort port).best = some b → b.gm = a.gm ∨ betterMaster a b = true) →
          exec (.announce port a) s = .next (u.modEth port (fun e => { e with
            heard := heard, masterSeen := true, best := some a, seenLeft := announceTicks a, bestLeft := announceTicks a })).followBest) ∧
        (((u.ethPort port).qualifies a = false ∨ ∃ b, (u.ethPort port).best = some b ∧ b.gm ≠ a.gm ∧ betterMaster a b = false) →
          exec (.announce port a) s = .next (u.modEth port (fun e => { e with
            heard := heard, masterSeen := true, seenLeft := announceTicks a })).followBest)) ∧
      (s.ethUp = true → (s.ethPort port).t1 = some t1 → (s.ethPort port).t2 = t2 → (s.ethPort port).t3 = some t3 →
        s.time.port = (port == 1) → (s.ethPort port).best.isSome = true →
        let ms := sdiff t2 t1 - (s.ethPort port).corr
        let sm := sdiff (t4 % 2 ^ 32) t3 - corr
        (ms - sm) % 2 = 0 →
        exec (.delayResp port t4 corr) s = .next ((u.modEth port (fun e => { e with t1 := none, t3 := none })).sample
          ((ms - sm) / 2) ((ms + sm) / 2))) ∧
      (s.time.servo ∈ [ServoState.acquiring, .locked] → s.dev.restarting = false →
        exec .holdoverTimeout s =
          .next ((s.modTime (fun t => { t with holdovers := satTo 16 (t.holdovers + 1) })).setServo .holdover)) ∧
      (s.time.running = true → 2 ^ 64 ≤ s.time.value + s.time.incr →
        exec .timeBaseWrap s = .next (s.modTime (fun t => t.setValue (t.value + t.incr))).wrapEffects)) ∧
  (∀ (s : State) (port src : Nat) (req : List Byte), s.ethUp = true →
      let u := s.modEth port (fun e => { e with link := true })
      let o := fieldAt req 8 4
      let n := fieldAt req 12 2
      ((req.length < 16 ∨ fieldAt req 0 2 ≠ 1 ∨ fieldAt req 2 2 ≠ 0) → exec (.statusDatagramRequest port src req) s =
        .next (u.modEth port (fun e => { e with dropped := satTo 16 (e.dropped + 1) }))) ∧
      (16 ≤ req.length → fieldAt req 0 2 = 1 → fieldAt req 2 2 = 0 → 100 ≤ (u.ethPort port).recent.length →
        exec (.statusDatagramRequest port src req) s =
          .next (u.modEth port (fun e => { e with dropped := satTo 16 (e.dropped + 1) }))) ∧
      (16 ≤ req.length → fieldAt req 0 2 = 1 → fieldAt req 2 2 = 0 → (u.ethPort port).recent.length < 100 →
        exec (.statusDatagramRequest port src req) s = .next (
          let w := u.modEth port (fun e => { e with
            recent := e.recent ++ [secondTicks], responses := wrapTo 16 (e.responses + 1) })
          let ok := o % 8 = 0 ∧ o < 0x300 ∧ n % 8 = 0 ∧ 8 ≤ n ∧ n ≤ 512 ∧ o + n ≤ 0x300
          { w with out := s.out ++
            [.statusReply port src (fieldAt req 4 4) o n (if ok then 0 else 1) (if ok then slice w.identBlock o n else [])] })) ∧
      exec (.ethFrameDropped port true) s = .next (u.modEth port (fun e => { e with fcsErrs := satTo 16 (e.fcsErrs + 1) })) ∧
      exec (.ethFrameDropped port false) s = .next (u.modEth port (fun e => { e with dropped := satTo 16 (e.dropped + 1) })))

/-! ### Links -/

/-- The training of a port, lane by lane: DETECT, TRAIN with the best of the settings scanned, LOCK, CAP; a lane that misses a margin target
refuses its port, a lane of an ACTIVE link that falls below half its target is reported and retrains when no pasture that evaluates uses
it, and the bound of training ends in REFUSED (R350, R351, R353, R354). A link that is not ACTIVE again in time faults the pastures of the
ports it had (R358). How many slips an automatic alignment takes is open, and so free (log 24). -/
def Obligations.LanesTrain : Prop :=
  (∀ o : List (Nat × Nat), o.length = 16 → bestPeak o < 16 ∧ ∀ i < 16,
    let b := o.getD (bestPeak o) (0, 0)
    let x := o.getD i (0, 0)
    x.1 < b.1 ∨ (x.1 = b.1 ∧ (x.2 < b.2 ∨ (x.2 = b.2 ∧ bestPeak o ≤ i)))) ∧
  ∀ (s : State) (l t h v : Nat) (coarse : List (Nat × Nat)) (ready : Bool),
    let x := s.lane l
    (x.state = .detect → (s.domain (domQuad (l / 4))).state ≠ .off →
      exec (.detectPoll l false) s = .next (s.demandWake (domQuad (l / 4))) ∧
      exec (.detectPoll l true) s = .next (((s.demandWake (domQuad (l / 4))).setLane l Lane.train).modPort (l / 2)
        (fun r => { r with ready := false, capRecs := [] }))) ∧
    (x.state = .train → x.passed = false →
      let k := if x.pinned then x.peak else bestPeak (coarse.take 16)
      let u := s.modLane l (fun y => { y with peak := k, hMargin := satTo 8 h, vMargin := satTo 8 v, marginLow := false })
      (20 * 256 ≤ 100 * h → 20 ≤ v → exec (.trainScanComplete l coarse h v) s =
        .next ((u.modLane l (fun y => { y with passed := true })).lockLanes (l / 2))) ∧
      ((100 * h < 20 * 256 ∨ v < 20) → exec (.trainScanComplete l coarse h v) s = .next (u.refusePort (l / 2)))) ∧
    (((s.lane (2 * t)).state = .train ∨ (s.lane (2 * t + 1)).state = .train) →
      exec (.trainMark t ready) s = .next ((s.modPort t (fun r => { r with ready := ready })).lockLanes t)) ∧
    (x.state = .lock →
      let d := s.draw 7
      let u := d.2.modLane l (fun y => { y with
        blockLock := true, boundary := if y.manual then y.boundary else (y.boundary + d.1) % 66 })
      exec (.blockLock l) s = .next (if (portLanes (l / 2)).all (fun k => (u.lane k).state == .lock && (u.lane k).blockLock)
        then u.enterCap (l / 2) else u)) ∧
    (x.state = .active → 10 * 256 ≤ 100 * h → 10 ≤ v → exec (.marginCheck l h v) s =
      .next (s.modLane l (fun y => { y with hMargin := h, vMargin := v, marginLow := false }))) ∧
    (x.state = .active → x.marginLow = false → (100 * h < 10 * 256 ∨ v < 10) → exec (.marginCheck l h v) s = .next (
      let link := (s.port (l / 2)).linkLow
      let u := ((s.modLane l (fun y => { y with hMargin := h, vMargin := v, marginLow := true })).devEvent evLink).logDecision
        "lane margin" l (h + 256 * v)
      if u.linkBusy link then u.modPort link (fun r => { r with retrainPending := true }) else u.retrainLink link)) ∧
    (s.portState t ∈ [LaneState.train, .lock] →
      exec (.trainBoundExpiry t) s = .next ((s.idlePort t .refused).formBonds t)) ∧
    (s.portState t = .cap → (s.port t).capDone = true → exec (.trainBoundExpiry t) s = .next (s.formBond t)) ∧
    ((∃ q ∈ (s.port t).lost, s.linkActive q = false) → s.dev.mode ≠ .hold → exec (.linkLostTimeout t) s =
      .next ((s.portPastures (s.port t).lost).foldl (fun w p => w.faultPas p 0x0608 none) (s.modPort t (fun r => { r with lost := [] }))))

/-- Unsequenced control blocks and errors of a link: ACK frees what it names, NAK and the replay timeout resend from a CSEQ up to eight
times, a SKIP changes nothing, a block that fails its CRC asks for a resend, and a reserved CTYPE ends ACTIVE (R347, R348, R349). Within a
TAG group a data block's words go to its slot, as many as its entry counts; a data block at a control position, or a control header within
a group, has slipped and the link retrains; a control block whose CRC fails, or whose header is invalid, asks for its resend, and an
invalid header in a group is counted only (R342, R344, Table 13-3). A lane in LOCK looks for its boundary in the headers it sees (R353),
and one in TEST or in a near-end loopback checks PRBS31 (R360). -/
def Obligations.LinkStream : Prop :=
  (∀ (s : State) (k q i : Nat) (b : SentBlock) (l : List SentBlock) (again : Bool), exec (.skip k again) s = .next s ∧
      (blockDue s k →
        let u := blockSeen s k
        ((s.port k).discard = true → ∀ c ∈ [Instr.linkIdle k, .protocolError k, .linkNak k q, .linkAck k q], exec c s = .next u) ∧
        ((s.port k).discard = false →
          exec (.linkIdle k) s = .next (u.idleIn k) ∧ exec (.protocolError k) s = .next (u.retrainLink k) ∧
          ((s.port k).sent.findIdx? (fun x => x.cseq == q) = some i →
            exec (.linkAck k q) s = .next (u.modPort k (fun r => { r with
              sent := r.sent.drop (i + 1), txd := r.txd - (i + 1)
              naks := r.naks.filter (fun e => !((r.sent.take (i + 1)).any (fun b => b.cseq == e.1))) }))) ∧
          ((s.port k).sent.findIdx? (fun x => x.cseq == q) = none → exec (.linkAck k q) s = .next u) ∧
          (((s.port k).sent.take (s.port k).txd).findIdx? (fun x => x.cseq == q) = none → exec (.linkNak k q) s = .next u) ∧
          (((s.port k).sent.take (s.port k).txd).findIdx? (fun x => x.cseq == q) = some i →
            (tget (s.port k).naks 0 q < 7 → exec (.linkNak k q) s = .next (u.modPort k (fun r => { r with
              txd := i, naks := tput r.naks 0 q (tget r.naks 0 q + 1), replays := satTo 16 (r.replays + 1) }))) ∧
            (7 ≤ tget (s.port k).naks 0 q → exec (.linkNak k q) s = .next (
              let w := u.modPort k (fun r => { r with limitHits := satTo 8 (r.limitHits + 1) })
              if w.linkActive k then w.retrainLink k else w.retrainPort k))))) ∧
      (s.receives k = true → (s.port k).sent = b :: l → exec (.replayTimeout k) s = .next (s.resendFrom k b.cseq)) ∧
      (blockDue s k → ∀ bad : Bool, exec (.crcFailure k bad) s =
        .next ((s.rxHeader k bad).modPort k (fun r => { r with discard := true, nakDue := true })))) ∧
  (∀ (s : State) (k slot n header : Nat) (rest : List (Nat × Nat)) (w : BitVec 64),
      (s.receives k = true → (s.port k).discard = false →
        let nak (u : State) : State := u.modPort k (fun r => { r with discard := true, nakDue := true })
        let taken := s.modPort k (fun r => { r with
          group := rest
          rxWords := tput r.rxWords [] slot (tget r.rxWords [] slot ++
            (List.range n).map (fun i => w.extractLsb' (16 * i) 16)) })
        ((s.port k).group = (slot, n) :: rest →
          exec (.dataBlock k 1 w) s = .next (taken.rxHeader k false) ∧
          (header ∉ [1, 2] → exec (.dataBlock k header w) s = .next (taken.rxHeader k true)) ∧
          exec (.dataBlock k 2 w) s = .next ((blockSeen s k).retrainLink k)) ∧
        ((s.port k).group = [] →
          exec (.dataBlock k 1 w) s = .next ((blockSeen s k).retrainLink k) ∧
          (header ∉ [1, 2] → exec (.dataBlock k header w) s = .next (nak (s.rxHeader k true))) ∧
          (controlCrc w.toNat = false → exec (.dataBlock k 2 w) s = .next (nak (blockSeen s k))) ∧
          (controlCrc w.toNat = true → w.toNat / 2 ^ 56 = 0x20 →
            exec (.dataBlock k 2 w) s = exec (.credit k (w.toNat / 2 ^ 48 % 256) (w.extractLsb' 16 32)) s))) ∧
      (s.receives k = false → s.echoes k = false →
        let lane := s.rxLane k
        let u := s.modPort k (fun r => { r with rxPos := r.rxPos + 1 })
        ((s.lane lane).state = .lock → exec (.dataBlock k header w) s =
          .next ((u.modLane lane (fun x => x.lockHeader (header != 1 && header != 2))).lockDone k)) ∧
        ((s.lane lane).state ∈ [LaneState.test, .loop] →
          exec (.dataBlock k header w) s = .next (u.modLane lane (fun x => x.check w.toNat)))))

/-- A sequenced block in its turn is accepted, to be acknowledged, and acted on; out of turn it is discarded, with a NAK
unless one stands (R347). CREDIT returns credits up to 1,024, TAG opens its group and ASSERT_COUNT adds to its pasture's
(R345, R344). -/
def Obligations.SequencedBlocks : Prop :=
  ∀ (s : State) (k : Nat) (body : BitVec 32), blockDue s k →
    let q := (s.port k).rxSeq
    let u := blockTaken s k
    let n := body.toNat
    exec (.cap k q body) s = .next (u.capRecord k n) ∧ exec (.join k q body) s = .next (u.joinIn k n) ∧
    exec (.chancount k q body) s = .next (u.chancountIn k n) ∧ exec (.arrive k q body) s = .next (u.arriveIn k n) ∧
    exec (.linkRelease k q body) s = .next (u.releaseIn k n) ∧ exec (.linkFault k q body) s = .next (u.faultIn k n) ∧
    exec (.linkUnload k q body) s = .next (u.unloadIn k n) ∧
    exec (.credit k q body) s = .next (u.modPort k (fun r => { r with
      credits := tput r.credits 1024 (n % 64) (min 1024 (tget r.credits 1024 (n % 64) + n / 64 % 2048)) })) ∧
    (∀ g, exec (.tag k q g body) s = .next (u.modPort k (fun r => { r with
      group := (List.range g).map (fun i => (n / 2 ^ (8 * i) % 64, n / 2 ^ (8 * i + 6) % 4 + 1)) }))) ∧
    ((s.pstate (n % 16)).inSpan = true → (s.childOn (n % 16) k).isSome = true →
      exec (.assertCount k q body) s = .next (u.modSpan (n % 16) (fun x => { x with
        memberAssert := satTo 32 (x.memberAssert + n / 16 % 2 ^ 21) }))) ∧
    (∀ (j : Nat) (c : Instr), c ∈ [Instr.cap k j body, .join k j body, .chancount k j body, .arrive k j body,
        .assertCount k j body, .linkRelease k j body, .linkFault k j body, .linkUnload k j body, .credit k j body,
        .tag k j 1 body] → j ≠ q →
      ((s.port k).discard = true → exec c s = .next (blockSeen s k)) ∧
      ((s.port k).discard = false →
        exec c s = .next ((blockSeen s k).modPort k (fun r => { r with discard := true, nakDue := true }))))

/-- A member's arrival and its parent's release: an ARRIVE of a child for the barrier that is next is recorded, one for another
barrier is a barrier fault; a RELEASE for the barrier at which the member has arrived goes down to its own children, and the member
releases the barrier when the token has gone down through its tree (R116, R117, R356). -/
def Obligations.SpanTokens : Prop :=
  ∀ (s : State) (k p c : Nat) (body : BitVec 32), blockDue s k →
    let q := (s.port k).rxSeq
    let u := blockTaken s k
    let n := body.toNat
    n % 16 = p → (s.pstate p).inSpan = true → (s.pas p).span.choosing = false →
    (s.childOn p k = some c → n / 16 % 256 = s.nextBarrier p % 256 → (s.pas p).span.arrived = [] → n / 2 ^ 12 % 16 = 0 →
      exec (.arrive k q body) s =
        .next ((u.modSpan p (fun x => { x with arrived := [c] })).barrierReached p)) ∧
    (s.childOn p k = some c → n / 16 % 256 ≠ s.nextBarrier p % 256 →
      exec (.arrive k q body) s = .next (u.controlFault p 0x0606 none)) ∧
    (s.parentOn p k = true → (s.pas p).span.arriveSent = true → (s.pas p).run.relTok = none →
      n / 16 % 256 = (s.pas p).stat.ecycle % 256 → s.ringsOn p = false →
      exec (.linkRelease k q body) s = .next ((u.modRun p (fun r => { r with
        relTok := some n, descent := some (s.pas p).descentSteps })).releaseDown p n)) ∧
    (s.parentOn p k = true → ((s.pas p).span.arriveSent = false ∨ n / 16 % 256 ≠ (s.pas p).stat.ecycle % 256) →
      exec (.linkRelease k q body) s = .next (u.controlFault p 0x0606 none))

/-! ### The service mesh -/

/-- A read that is permitted answers with the bytes at its address, a write stores its bytes there, and SETW and CLRW join theirs to
the words of a scratchpad (R134, R139, R319); an access to a scratchpad takes its port (R134). A register request reads or writes the
register that has its address, where one has, and a control request is answered (R319, R337). `u` is the state in which the request reaches its port.
Which register has which address, what a control request does beyond its answer, and how long a BULK_RD is, the spec leaves
open; the model's choice is log 26. -/
def Obligations.ServiceRequestsAct : Prop :=
  ∀ (s : State) (p : NocPacket),
    let u := nocPassed s p
    let v := portTaken u p
    let a := nocAddr p
    let n := nocSize p
    let w := p.word0
    (nocReaches s p opcRd → serviceGood u p n false (nocJoins opcRd a) → exec (.nocRd p) s = .next (
      let d := (v.cacheRead w a n).serviceRead a n
      d.2.respond w opcRdData 1 0 d.1)) ∧
    (nocReaches s p opcWr → serviceGood u p n true (nocJoins opcWr a) →
      exec (.nocWr p) s = .next (((v.serviceWrite a 0 (padTo n p.data)).wroteFor p n).ackWrite w a n)) ∧
    (∀ x, padPlace a = some x →
      (nocReaches s p opcSetw → serviceGood u p n true true →
        exec (.setw p) s = .next (((v.serviceWrite a 1 (padTo n p.data)).wroteFor p n).respond w opcAck 0 0 [])) ∧
      (nocReaches s p opcClrw → serviceGood u p n true true →
        exec (.clrw p) s = .next (((v.serviceWrite a 2 (padTo n p.data)).wroteFor p n).respond w opcAck 0 0 []))) ∧
    (nocReaches s p opcBulkWr → padPlace a = none → serviceGood u p (64 * nocLen w) true false → exec (.bulkWr p) s =
      .next (((u.serviceWrite a 0 (padTo (64 * nocLen w) p.data)).wroteFor p (64 * nocLen w)).ackWrite w a (64 * nocLen w))) ∧
    (nocReaches s p opcBulkRd → (∀ k < 64, serviceGood (u.draw 6).2 p (64 * (k + 1)) false false) →
      exec (.bulkRd p) s = .next (
        let k := (u.draw 6).1
        let x := (u.draw 6).2
        let d := (x.cacheRead w a (64 * (k + 1))).serviceRead a (64 * (k + 1))
        d.2.respond w opcBulkData (k + 1) (a + 2 ^ 48 * (s.time.ns % 2 ^ 16)) d.1)) ∧
    (nocReaches s p opcRegRd → exec (.regRd p) s = .next (if regThere p = true then
        u.respond w opcRdData 1 0 (leBytes 8 (u.regValue (nocReg p).1 (nocReg p).2)) else u.respond w opcErr 0 errAddr [])) ∧
    (nocReaches s p opcRegWr → exec (.regWr p) s = .next (if regThere p = true then
        (u.writeReg (nocReg p).1 (nocReg p).2 (fieldAt p.data 0 8)).respond w opcAck 0 0 [] else u.respond w opcErr 0 errAddr [])) ∧
    (nocReaches s p opcCtl → exec (.ctl p) s = .next (u.respond w opcAck 0 0 []))

/-- A permitted write to HBM outside the job tables, by a master other than DIAG, whose write may make a ring point (R272), changes exactly
the bytes that it stores and no scratchpad; one to a scratchpad changes words of that scratchpad's addressed range alone; a
permitted read changes no memory and no pasture (R134). -/
def Obligations.ServiceAccessFrame : Prop :=
  ∀ (s t : State) (p : NocPacket),
    (nocInit p.word0 ≠ 0x35 → padPlace (nocAddr p) = none →
      rangesMeet (nocAddr p) (nocSize p) jobQueues 0x100000 = false → rangesMeet (nocAddr p) (nocSize p) jobTasks 0x400000 = false →
      nocReaches s p opcWr → serviceGood (nocPassed s p) p (nocSize p) true false → exec (.nocWr p) s = .next t →
      t.pairs = s.pairs ∧ t.folds = s.folds ∧ t.host = s.host ∧ t.pastures = s.pastures ∧
      ∀ b, memGet t.hbm b = if nocAddr p ≤ b ∧ b < nocAddr p + nocSize p then p.data.getD (b - nocAddr p) 0 else memGet s.hbm b) ∧
    (∀ x, nocInit p.word0 ≠ 0x35 → padPlace (nocAddr p) = some x →
      ∀ e ∈ [(opcWr, Instr.nocWr p), (opcSetw, .setw p), (opcClrw, .clrw p)], nocReaches s p e.1 →
      serviceGood (nocPassed s p) p (nocSize p) true (nocJoins e.1 (nocAddr p)) → exec e.2 s = .next t →
      t.hbm = s.hbm ∧ t.folds = s.folds ∧ t.host = s.host ∧ t.pastures = s.pastures ∧
      (∀ q key, q ≠ x.pair ∨ key < padKey x.pad x.word ∨ padKey x.pad x.word + nocSize p / 2 ≤ key →
        (t.pair q).word key = (s.pair q).word key) ∧
      (∀ i < nocSize p / 2, (t.pair x.pair).word (padKey x.pad (x.word + i)) =
        let d := BitVec.ofNat 16 (fieldAt (padTo (nocSize p) p.data) (2 * i) 2)
        let old := (s.pair x.pair).word (padKey x.pad (x.word + i))
        if x.win = 1 ∨ (x.win = 0 ∧ e.1 = opcSetw) then old ||| d
        else if x.win = 2 ∨ (x.win = 0 ∧ e.1 = opcClrw) then old &&& ~~~d else d)) ∧
    (∀ c ∈ [Instr.nocRd p, .bulkRd p, .regRd p, .ctl p, .nocAck p, .rdData p, .err p, .bulkData p, .inv p, .snpAck p],
      exec c s = .next t →
        t.hbm = s.hbm ∧ t.folds = s.folds ∧ t.host = s.host ∧ t.pastures = s.pastures ∧ ∀ q k, (t.pair q).word k = (s.pair q).word k) ∧
    (exec (.regWr p) s = .next t → t.hbm = s.hbm ∧ t.folds = s.folds ∧ t.host = s.host ∧ t.pairs = s.pairs)

/-- A request with a parity error is discarded and counted at the router where it enters, with its network, virtual channel and input
(R332, R334); one that no region covers is denied with an ERR and recorded for its master (R143), one that its target's state does not
permit and one that no unit there has gets its ERR (R136, R317); at a closing, an OFF or a disabled port the requester gets the ERR of
that port (R330, R331). -/
def Obligations.ServiceRequestsRefused : Prop :=
  ∀ (s : State) (p : NocPacket) (opc : Nat) (c : Instr),
    (opc, c) ∈ [(opcRd, Instr.nocRd p), (opcWr, .nocWr p), (opcSetw, .setw p), (opcClrw, .clrw p), (opcRegRd, .regRd p),
      (opcRegWr, .regWr p), (opcCtl, .ctl p), (opcBulkRd, .bulkRd p), (opcBulkWr, .bulkWr p)] →
    nocOpc p.word0 = opc →
    let u := nocPassed s p
    let w := p.word0
    let r := nocSrc opc w
    let a := nocAddr p
    (parityOk p = false → nocMoves s p → ∃ t, exec c s = .next t ∧
      (t.router r).parErrs = satTo 16 ((s.router r).parErrs + 1) ∧ (t.router r).parNet = nocNet opc ∧
      (t.router r).parVc = nocVc w ∧ (t.router r).parIn = inputCode (nocSrcPort w) ∧
      t.hbm = s.hbm ∧ t.pairs = s.pairs ∧ t.pastures = s.pastures ∧ t.out = s.out) ∧
    (nocClear s p → hasPort (nocDst w) (nocDstPort w) = false → exec c s = .next (u.respond w opcErr 0 errAddr [])) ∧
    (nocArrives s p opc →
      (u.nocPort p = 1 → exec c s = .next (u.respond w opcErr 0 errClosing [])) ∧
      (u.nocPort p = 2 → exec c s = .next ((u.proxied w).respond w opcErr 0 errOff [])) ∧
      (u.nocPort p = 3 → exec c s = .next ((u.proxied w).respond w opcErr 0 errDisabled []))) ∧
    (nocReaches s p opc → opc ∈ [opcRd, opcWr] →
      let write := opc != opcRd
      let e := u.accessError (nocInit w) a (nocSize p) write (nocJoins opc a)
      (e = errRegion → exec c s = .next ((u.denied w write).respond w opcErr 0 errRegion [])) ∧
      (e = errState → exec c s = .next (u.respond w opcErr 0 errState [])) ∧
      (e = 0 → nocHome w a = false → exec c s = .next (u.respond w opcErr 0 errAddr [])))

/-- A response ends its initiator's transaction, or is late and counted; at a port that is isolated its proxy consumes it (R319, R331,
R333). An INV empties the caches of its line and is answered, and the SNP_ACK of the last line lets the write's ACK go (R323). A service
transaction that times out is issued again under a new TXN at most twice, and is then a control fault of the pasture it carries; one of
the ring and recovery class is a control fault at once (R333). Firmware's change of a router's weights begins a hold of it, and a regulator
takes its new settings (R326, R328). How long a hold lasts within its bound is open, and so free (log 26). -/
def Obligations.ServiceResponsesAndTimeouts : Prop :=
  (∀ (s : State) (p : NocPacket) (opc : Nat) (c : Instr),
      let u := nocPassed s p
      let w := p.word0
      ((opc, c) ∈ [(opcAck, Instr.nocAck p), (opcRdData, .rdData p), (opcErr, .err p), (opcBulkData, .bulkData p)] →
        nocArrives s p opc →
        (2 ≤ u.nocPort p → exec c s = .next u) ∧
        (u.nocPort p < 2 → s.noc.txns.any (fun t => t.init == nocInit w && t.txn == nocTxn w) = true →
          exec c s = .next (u.modNoc (fun n => { n with
            txns := n.txns.filter (fun t => !(t.init == nocInit w && t.txn == nocTxn w)) }))) ∧
        (u.nocPort p < 2 → s.noc.txns.any (fun t => t.init == nocInit w && t.txn == nocTxn w) = false →
          exec c s = .next ((u.modNoc (fun n => { n with late := n.late + 1 })).logDecision "late response" (nocInit w) (nocTxn w)))) ∧
      (nocArrives s p opcInv →
        (u.nocPort p < 2 → exec (.inv p) s = .next ((u.modNoc (fun n => { n with
          cached := n.cached.filter (fun x => x != p.word1 % 2 ^ 48 / 64) })).respond w opcSnpAck 0 0 [])) ∧
        (2 ≤ u.nocPort p → exec (.inv p) s = .next ((u.proxied w).respond w opcSnpAck 0 0 []))) ∧
      (∀ e : InvWait, nocArrives s p opcSnpAck → u.nocPort p < 2 → s.noc.invWait = [e] → e.ctl = nocInit w → e.tag = nocTxn w →
        exec (.snpAck p) s = .next ((u.modNoc (fun n => { n with invWait := [] })).respond e.word0 opcAck 0 0 []))) ∧
  (∀ (s : State) (init txn a net rate burst nets weights : Nat),
      (∀ t, s.noc.txns.find? (fun t => t.init == init && t.txn == txn) = some t → s.dev.mode ≠ .hold → s.dev.mode ≠ .recover →
        let u := s.modNoc (fun n => { n with txns := n.txns.erase t })
        let cls := (nocClass t.init).getD t.vc
        (cls = 0 ∨ (2 ≤ t.tries ∧ t.pv = true) →
          exec (.serviceTimeout init txn) s = .next (u.controlFault t.pasture 0x060B none)) ∧
        (cls ≠ 0 → 2 ≤ t.tries → t.pv = false → exec (.serviceTimeout init txn) s = .next (u.expireCommand t.init)) ∧
        (cls ≠ 0 → t.tries < 2 → ∃ v w, exec (.serviceTimeout init txn) s = .next v ∧ nocTxn w = (u.draw 12).1 ∧ v.hbm = s.hbm ∧
          v.pastures = s.pastures ∧
          (t.opc ≠ opcRegWr → nocOpc w = t.opc % 64 ∧ v.out = s.out ++ [.noc w t.word1 t.data] ∧ v.noc.txns = s.noc.txns.erase t ++ [{ t with
            txn := (u.draw 12).1, word0 := w, tries := t.tries + 1, answered := false }]))) ∧
      (a < Config.numRouters → s.up = true → nets < 16 → s.noc.holds.all (fun h => routerDie h.router != routerDie a) = true →
        ∃ t h, exec (.routerReconfigure a nets weights) s = .next t ∧ (t.router a).weights = weights ∧
          (t.router a).holds = satTo 16 ((s.router a).holds + 1) ∧ t.holdOf a = some h ∧ h.nets = nets ∧ 1 ≤ h.left ∧ h.left ≤ 1000 ∧
          t.out = s.out ∧ t.pastures = s.pastures) ∧
      (a < 316 → net < 4 → 1 ≤ rate → rate ≤ 256 → 1 ≤ burst → burst ≤ 255 → s.up = true →
        exec (.regulatorChange a net rate burst) s = .next ((s.modRegulator (4 * a + net) (fun g => { g with
          rate := rate, burst := burst, tokens := min g.tokens (256 * burst) })).logDecision "regulator" (4 * a + net)
            (rate + 512 * burst))))

/-! ### Power, supplies, resets and starts -/

/-- The entry into RET or OFF that the device chooses by T_next, its drain and its commit, its abort by a drain that is too long,
and the wake, after which the scrubber of a fold begins anew (R55, R431, R434, R435, R438); a lost retention waits for the wake (R439); a leaving event ends a ladder step. -/
def Obligations.PowerDomainsMove : Prop :=
  ∀ (s : State) (d tn init : Nat),
    let x := s.domain d
    (s.up = true → s.pwr.ladder = 7 → s.dev.mode ≠ .minimal → ¬ (domKind d = .fold ∧ s.pairEnabled (pairOf d) = false) →
      s.domIdle d = false → exec (.domainDecision d tn) s = .next (s.demandWake d)) ∧
    (s.up = true → s.pwr.ladder = 7 → s.dev.mode ≠ .minimal → ¬ (domKind d = .fold ∧ s.pairEnabled (pairOf d) = false) →
      s.domIdle d = true → s.domEventNow d = false →
      (domKind d = .quad → ∀ l ∈ quadLanes (d - 522), (s.lane l).state ≠ .detect) → s.chosen d tn ≠ .on →
      exec (.domainDecision d tn) s = .next (((s.modDomain d (fun y => { y with tNextUs := satTo 32 tn })).logDecision
        "power choice" d ((s.chosen d tn).code + 4 * tn)).beginEntry d (s.chosen d tn))) ∧
    (∀ target again, x.entry = .draining target again → s.inFlight d = false →
      exec (.drainComplete d) s = .next (s.commitEntry d target again)) ∧
    (∀ target again, x.entry = .draining target again → s.inFlight d = true → exec (.drainComplete d) s = .next s) ∧
    (∀ target again, x.entry = .draining target again →
      exec (.drainTimeout d init) s = .next (s.modDomain d (fun y => { y with
        entry := .none, refuser := 0x4000 + init, aborted := satTo 16 (y.aborted + 1) }))) ∧
    (x.waking = true →
      let on := s.modDomain d (fun y => { y with state := .on, waking := false, dipped := false })
      let u := if domKind d = .fold ∧ x.state ≠ .on then on.modFold d (fun y => { y with ecc := { y.ecc with scrubIdx := 0 } }) else on
      ((x.state ≠ .ret ∨ x.dipped = false) → exec (.wakeComplete d) s = .next u) ∧
      (x.state = .ret → x.dipped = true → exec (.wakeComplete d) s = .next (u.retentionLost d))) ∧
    (x.state = .ret → exec (.retLost d) s = .next (s.modDomain d (fun y => { y with dipped := true }))) ∧
    (∀ e : LadderEvent, s.up = true → e ≠ .deviceEvent → ladderLeaves s.pwr.ladder e = true →
      exec (.ladderLeave e) s = .next s.ladderToRun)

/-- A higher voltage that is acknowledged lets its frequency follow, and one that is not is written again twice; the thermal and power
limits move a die's limit by one point of 50 MHz, CAP_UNMET stands where every die is at 500 MHz and the cap is exceeded, and the
junction limit takes a die to 500 MHz (R444, R480, Table 17-6). -/
def Obligations.ClocksFollowLimits : Prop :=
  ∀ (s : State) (d m tj word watts : Nat), d < 4 → s.up = true →
    let c := s.dieClk d
    let hot := s.modDie d (fun x => { x with tj := tj, hot := x.hot && decide (105 ≤ tj) })
    (c.target = some m → s.dev.mode ≠ .hold → c.tries < 3 →
      exec (.voltageSettle d true) s =
        .next ((s.modDie d (fun x => { x with mhz := m, target := none, tries := 0 })).logDecision "step clock" d m) ∧
      (c.tries < 2 → exec (.voltageSettle d false) s =
        .next (let u := s.modDie d (fun x => { x with tries := x.tries + 1 })
          { u with out := s.out ++ [.voltage d m] }))) ∧
    exec (.pmbAlert d word) s = .next (s.logDecision "regulator alert" d word).throttled ∧
    (93 < tj → tj ≤ 95 → exec (.thermalStep d tj) s = .next (hot.settleDie d)) ∧
    (tj ≤ 93 → exec (.thermalStep d tj) s =
      .next ((hot.modDie d (fun x => { x with thermCap := min 1250 (x.thermCap + 50) })).settleDie d)) ∧
    (95 < tj → exec (.thermalStep d tj) s = .next (
      let u := (hot.modDie d (fun x => { x with
        thermCap := if 500 < x.mhz then max 500 (min x.thermCap x.mhz - 50) else x.thermCap })).settleDie d
      if (u.dieClk d).mhz < c.mhz then (u.modPwr (fun w => { w with throttle := satTo 16 (w.throttle + 1) })).throttled else u)) ∧
    (s.pwr.cap ≠ 0 → s.pwr.cap < watts → 500 < c.mhz → exec (.powerCapStep watts d) s = .next (
      let u := ((s.modPwr (fun w => { w with watts := watts })).modDie d (fun x => { x with
        powCap := max 500 (min x.powCap x.mhz - 50) })).settleDie d
      let v := ((u.modPwr (fun w => { w with capSteps := satTo 16 (w.capSteps + 1) })).countOverride d c.mhz).throttled
      v.modPwr (fun w => { w with capUnmet := (List.range 4).all (fun k => decide ((v.dieClk k).mhz ≤ 500)) }))) ∧
    (s.pwr.cap ≠ 0 → s.pwr.cap < watts → c.mhz ≤ 500 → exec (.powerCapStep watts d) s = .next (s.modPwr (fun w => { w with
      watts := watts, capUnmet := (List.range 4).all (fun k => decide ((s.dieClk k).mhz ≤ 500)) }))) ∧
    (s.pwr.cap ≠ 0 → 100 * watts < 97 * s.pwr.cap → exec (.powerCapStep watts d) s = .next (
      ((List.range 4).foldl (fun v k => (v.modDie k (fun x => { x with powCap := min 1250 (x.powCap + 50) })).settleDie k)
        (s.modPwr (fun w => { w with watts := watts }))).modPwr (fun w => { w with capUnmet := false }))) ∧
    ((s.pwr.cap = 0 ∨ (watts ≤ s.pwr.cap ∧ 97 * s.pwr.cap ≤ 100 * watts)) → exec (.powerCapStep watts d) s =
      .next (s.modPwr (fun w => { w with watts := watts, capUnmet := false }))) ∧
    (c.hot = false → 105 ≤ tj → exec (.junctionLimit d tj) s = .next (
      let u := ((hot.modPwr (fun w => { w with junction := satTo 16 (w.junction + 1) })).modDie d (fun x => { x with
        hot := true, thermCap := 500 })).settleDie d
      (u.countOverride d c.mhz).throttled)) ∧
    ((c.hot = true ∨ tj < 105) → exec (.junctionLimit d tj) s = .next hot)

/-- A supply warning takes SERVICE, EMULATE and RECOVER to HOLD, where the pastures that will roll back stop at once (R285), and waits in
the other modes (R29); its end, where no pasture has
anything to resume, is SERVICE again. A bank whose VCCO leaves its band after its pins have driven latches them at high impedance
and counts it (R404). -/
def Obligations.SuppliesHoldAndReturn : Prop :=
  ∀ (s : State) (die b mv : Nat),
    (die < 4 → s.dev.mode ∈ [Mode.service, .emulate, .recover] → exec (.supplyWarning die) s = .next (
      let u := s.modDev (fun d => { d with warned := if d.warned.contains die then d.warned else d.warned ++ [die] })
      let v := ((u.setMode .hold).devEvent evSupply).refuseEntries 0x6000
      (numsWhere 16 v.dips).foldl (fun w p => w.holdStop p) v)) ∧
    (die < 4 → s.dev.mode ∈ [Mode.boot, .minimal, .erase, .hold] → exec (.supplyWarning die) s = .next
      (s.modDev (fun d => { d with warned := if d.warned.contains die then d.warned else d.warned ++ [die] }))) ∧
    (s.dev.mode ≠ .hold → exec .supplyReturn s = .next (s.modDev (fun d => { d with warned := [] }))) ∧
    (s.dev.mode = .hold → s.pastures = [] → s.ports = [] → s.lanes = [] → s.dev.holdFaults = [] → exec .supplyReturn s = .next
      ((s.modDev (fun d => { d with warned := [] })).setMode .service)) ∧
    (vccoGood (s.bank b).decl mv = true →
      exec (.vccoGood b mv) s = .next (s.modBank b (fun x => { x with mv := mv, ok := true })) ∧
      exec (.vccoLoss b mv) s = .next s) ∧
    (vccoGood (s.bank b).decl mv = false →
      exec (.vccoGood b mv) s = .next s ∧
      exec (.vccoLoss b mv) s = .next (s.modBank b (fun x => { x with
        mv := mv, ok := false, latched := x.latched || ((s.bank b).ok && s.bankDriven b)
        drops := if (s.bank b).ok && s.bankDriven b then satTo 16 (x.drops + 1) else x.drops })))

/-- Every device reset leaves BOOT with the bit of its source set beside the earlier ones, no session, every pasture EMPTY, every
memory of the device and every lane at its reset value, and the fuses, the flash and the host's memory as they were; the loss of
VDD_AON leaves POR alone (R448, R449, R453, R455). -/
def Obligations.DeviceResets : Prop :=
  ∀ s : State,
    (∀ (src : Nat) (c : Instr),
    ((∃ n, 5000 ≤ n ∧ c = .resetN n ∧ src = 2) ∨
     (∃ r, s.railWatched r = true ∧ c = .bod r ∧ src = 1) ∨
     ((s.dev.mode = .hold ∨ (s.supplyWaits = true ∧ s.dev.warned ≠ [])) ∧ c = .holdTimeout ∧ src = 1) ∨
     (s.diagOpen = true ∧ s.dev.mode ≠ .off ∧ c = .dbgreq ∧ src = 5) ∨
     (∃ i, s.islandRuns i = true ∧ c = .clkfail i ∧ src = 6) ∨
     (s.dev.mode = .boot ∧ s.dev.booting = true ∧ s.dev.boot.stage < 10 ∧ c = .bootWatchdog ∧ src = 3) ∨
     (∃ die tj, die < 4 ∧ (s.dieClk die).hot = true ∧ 105 ≤ tj ∧ s.dev.mode ≠ .off ∧ c = .thermTimeout die tj ∧ src = 8) ∨
     (s.dev.restarting = true ∧ s.dev.cause.lastCc = 2 ∧ c = .ccRestartTimeout ∧ src = 7) ∨
     (s.dev.restarting = true ∧ s.dev.cause.lastCc ≠ 2 ∧ c = .ccRestartTimeout ∧ src = 3)) →
    ∃ t, exec c s = .next t ∧ t.dev.mode = .boot ∧ t.dev.booting = false ∧
      t.dev.cause.cause = s.dev.cause.cause ||| 2 ^ src ∧ t.dev.cause.last = src ∧ t.host.sessions = [] ∧ t.pastures = [] ∧
      t.folds = [] ∧ t.pairs = [] ∧ t.hbm = [] ∧ t.lanes = [] ∧ t.ports = [] ∧ t.time = TimeBase.init ∧ t.edge.banks = [] ∧
      t.host.mem = s.host.mem ∧ t.fuses = s.fuses ∧ t.flash = s.flash ∧ t.ident = s.ident ∧ t.pending = s.pending) ∧
    ∃ v, exec .por s = .next v ∧ v.dev = Dev.init ∧ v.edge = Edge.init ∧ v.pastures = [] ∧ v.hbm = [] ∧ v.fuses = s.fuses

/-- A start begins once the rails are good, goes on stage by stage and ends in SERVICE; a failed check ends it (R452, R455, R456).
WAKE starts the device from OFF (R450). A core failure outside a start restarts the control complex, which ends with the slot that
verifies (R460, R461); SVN_MIN is raised to the running firmware's (R426); ERASE ends with its wipe (R424). -/
def Obligations.StartsAndRestarts : Prop :=
  ∀ (s : State) (n core : Nat) (b : Bool) (st : Nat) (code : Nat) (r : StageResult) (x : Bool),
    (s.dev.mode = .boot → s.dev.booting = false → s.dev.warned = [] →
      exec .bootStart s = .next (s.modDev (fun d => { d with booting := true }))) ∧
    (s.dev.mode = .boot → s.dev.booting = true → s.dev.warned = [] →
      (s.dev.boot.stage ∈ [3, 4, 5, 7] → exec (.bootStageComplete .ok) s =
        .next (s.modDev (fun d => { d with boot := { d.boot with stage := d.boot.stage + 1 } }))) ∧
      (s.dev.boot.stage = 9 →
        exec (.bootStageComplete .ok) s = .next (s.modTime (fun t => { t with running := true })).enterService) ∧
      ((st, code, r) ∈ [(2, 0x10, .slotVerify), (5, 0x40, .hbmTrain 0), (6, 0x41, .hbmWipe 0), (4, 0x30, .sramWipe 0)] →
        s.dev.boot.stage = st → exec (.bootStageComplete r) s = .next (s.deviceReset 4 (some (code, 0))))) ∧
    (10000 ≤ n → s.dev.mode = .off → exec (.wake n) s = .next (State.setMode
      (State.modDev { s with pwr := Pwr.fresh s.ident } (fun d => { d with boot := d.boot.restart 1, booting := false })) .boot)) ∧
    (n < 10000 → exec (.wake n) s = .next s) ∧
    (core < 16 → s.dev.mode ≠ .off → s.dev.mode ≠ .boot → (b = false ∨ s.dev.restartedAt = false) →
      exec (.ccWatchdog core b) s = .next (State.beginRestart (s.modDev (fun d => { d with
        restartedAt := true, cause := { d.cause with ccWdog := true } })) 1) ∧
      exec (.ccLockup core b) s = .next (State.beginRestart (s.modDev (fun d => { d with
        restartedAt := true, cause := { d.cause with ccLockup := true } })) 2)) ∧
    (s.dev.restarting = true → s.dev.mode ≠ .minimal → s.flash.choose s.flash.preferB = some x →
      exec .ccRestartComplete s = .next (s.startSlot s.flash.preferB x).endRestart) ∧
    (s.up = true → s.dev.mode ≠ .minimal → s.dev.restarting = false → exec .svnRaise s = .next
      { s with fuses := { s.fuses with svnMin := max s.fuses.svnMin (min 64 s.flash.active.svn) } }) ∧
    (∀ back, s.dev.mode = .erase → s.dev.warned = [] → s.dev.erase = .wipe back → exec .eraseComplete s = .next
      (((s.wipeUnits.endSessions.modDev (fun d => { d with erase := .none })).completeOpcode 0x0005 0).setMode back))

/-! ### The host's function, the test access port and the trace -/

/-- A reset of the function ends its commands without completion (R367); in D3hot nothing is sent, and D0 sends what was held
(R368); an unmasked vector sends its held message. Each test instruction is selected and answers with its pins or cells, and while
a pasture holds an edge region every one but IDCODE acts as BYPASS (R407). -/
def Obligations.FunctionAndTestPort : Prop :=
  ∀ (s : State) (k : FnReset) (v code : Nat) (pins : List Nat),
    let tap (i : Nat) (o : Nat) (l : List Nat) : State :=
      { s with
        edge := { s.edge with tap := { s.edge.tap with instr := i } }
        out := s.out ++ [.tap o l] }
    (s.dev.mode ≠ .off → exec (.pcieFunctionReset k) s = .next s.functionReset ∧
      exec .d3hotEntry s = .next (s.modHost (fun h => { h with d3hot := true })) ∧
      (v < Config.numVectors → s.host.d3hot = false → exec (.msixVectorUnmask v) s =
        .next ((s.modMsix v (fun m => { m with masked := false })).flushVector v))) ∧
    (s.host.d3hot = true → exec .d0Return s = .next s.resumeHost) ∧
    exec .idcode s = .next (tap 1 1 [s.idcode]) ∧
    (5 ≤ code → exec (.bypass code) s = .next (tap code 0xFF [])) ∧
    (s.tapBypassed = true → exec (.extest pins) s = .next (tap 0 0xFF []) ∧ exec (.samplePreload pins) s = .next (tap 2 0xFF []) ∧
      exec .clamp s = .next (tap 3 0xFF []) ∧ exec .highz s = .next (tap 4 0xFF [])) ∧
    (s.tapBypassed = false → exec .clamp s = .next (tap 3 3 (s.tapPins s.edge.tap.boundary)) ∧
      exec .highz s = .next (tap 4 4 []) ∧
      exec (.samplePreload pins) s = .next
        { s with edge := { s.edge with tap := { instr := 2, boundary := pins } }, out := s.out ++ [.tap 2 pins] } ∧
      exec (.extest pins) s = .next
        { s with edge := { s.edge with tap := { instr := 0, boundary := pins } }, out := s.out ++ [.tap 0 (s.tapPins pins)] })

/-- An event of START_MASK begins an ARMED trace and one of STOP_MASK stops a TRACING one (R470); STOPPING ends when the FIFOs are
empty; the timer, and room after drops, put their packets in (R468, R472). An instruction that nothing traces only counts, and
no trace event changes anything but the trace. -/
def Obligations.TraceEventsAct : Prop :=
  ∀ (s : State) (bit core pc : Nat) (k : DcKind),
    (s.trace.state = .armed → bit < 8 → bitOf s.trace.cfg.startMask bit = true →
      exec (.traceStartEvent bit) s = .next (s.traceBegin bit)) ∧
    (s.trace.state = .tracing → bit < 8 → bitOf s.trace.cfg.stopMask bit = true →
      exec (.traceStopEvent bit) s = .next (s.traceTo .stopping bit)) ∧
    (s.trace.state = .stopping → ∃ t, exec .traceStoppingComplete s = .next t ∧ t.trace.state = .stopped ∧
      t = { s with trace := t.trace, freeCount := s.freeCount + 1 }) ∧
    (s.trace.state = .tracing → core ∈ s.tracedCores → (s.encoder core).gap = false →
      exec (.traceTimeTimer core) s = .next (s.modTrace (fun t =>
        t.emit core (t.encoder core).ref none (pktTime core s.time.ns t.wraps false)))) ∧
    ((s.encoder core).lost ≠ 0 → s.trace.fifoUsed core + 21 ≤ traceFifo → exec (.traceOverflow core) s =
      .next (s.modTrace (fun t => ((t.modEncoder core (fun e => { e with lost := 0 })).emit core (s.encoder core).ref none
        (pktOverflow core (s.encoder core).lost)).emitFull s.time.ns core
          ((s.encoder core).nextAddr.getD (s.encoder core).ref)))) ∧
    (core < Config.numCores → exec (.droverCoreInstruction core pc k) s = .next (droverStep core pc k s)) ∧
    (∀ t, exec (.droverCoreInstruction core pc k) s = .next t → t = { s with trace := t.trace })

/-! ### Completions, reset and what every step keeps -/

/-- A command that completes without a result writes its entry at CPL_TAIL with its status, its sequence number and the bit of its
pass, and in the clear where it was not authenticated; CPL_TAIL moves by one; no other byte of the host's memory and no other ring's
indices change (R303, R304). -/
def Obligations.CompletionEntries : Prop :=
  ∀ (s : State) (g : Prog) (status : Nat) (detail : List Byte), g.live = true → g.session = false → s.host.d3hot = false →
      s.dev.restarting = false →
    let r := s.ring g.ring
    let a := r.cplBase + 64 * (r.cplTail % 2 ^ r.cplLog2)
    let entry := leBytes 2 g.opcode ++ leBytes 2 status ++ leBytes 4 g.tag ++ leBytes 1 g.pasture ++ leBytes 1 g.ring ++
      leBytes 1 (1 - r.cplTail / 2 ^ r.cplLog2 % 2) ++ leBytes 1 0 ++ leBytes 4 0 ++ leBytes 8 g.seq ++ padTo 24 detail ++ padTo 16 []
    let t := s.complete g status detail
    entry.length = 64 ∧
    (∀ b, memGet t.host.mem b = if a ≤ b ∧ b < a + 64 then entry.getD (b - a) 0 else memGet s.host.mem b) ∧
    (t.ring g.ring).cplTail = (r.cplTail + 1) % 2 ^ 32 ∧
    (∀ n, n ≠ g.ring → t.ring n = s.ring n) ∧ t = { s with host := t.host, out := t.out }

/-- The state after reset: the mode is BOOT with no start begun, only POR stands in RESET_CAUSE, no pasture, session or command is
there, no ring is enabled, the servo is FREE and no memory is listed (R26, R449). SVN_MIN, at most 64, has a value of the model's
choice (DESIGN CHOICE, log 3). -/
def Obligations.ResetState : Prop :=
  let s := State.reset
  s.dev.mode = .boot ∧ s.dev.prevMode = .off ∧ s.dev.modeChanges = 0 ∧ s.dev.booting = false ∧ s.dev.cause.cause = 1 ∧
  s.pastures = [] ∧ s.host.sessions = [] ∧ s.host.prog = [] ∧ s.host.rings = [] ∧ s.hbm = [] ∧ s.host.mem = [] ∧ s.lanes = [] ∧
  s.time.servo = .free ∧ s.pending = [] ∧ s.fuses.svnMin ≤ 64

/-- Every step takes exactly one command off the queue, the front one, and leaves the device's identity as it is. The
queue is the model's own (DESIGN CHOICE, log 1). -/
def Obligations.StepKeepsIdentityAndOrder : Prop :=
  ∀ s t : State, step s = .next t → t.ident = s.ident ∧ t.pending = s.pending.tail

/-- No command but the raise of SVN_MIN and the end of an ERASE changes a fuse, SVN_MIN never falls, and where it is at most 64 it
stays so (R426). -/
def Obligations.FusesKept : Prop :=
  ∀ s t : State, step s = .next t →
    (s.pending.head? ≠ some .svnRaise → s.pending.head? ≠ some .eraseComplete → t.fuses = s.fuses) ∧
    s.fuses.svnMin ≤ t.fuses.svnMin ∧ (s.fuses.svnMin ≤ 64 → t.fuses.svnMin ≤ 64)
end

