-- ==== Sys2Proof/Laws/Tab.lean ====
section
/-!
SUPPORT. Sparse tables and memory: a read after a write, and that every operation keeps the canonical form.
-/

namespace Sys2Proof.Machine

open Sys2Proof

variable {α : Type}

/-! ### Reads after writes -/

theorem tget_nil (d : α) (k : Nat) : tget ([] : Tab α) d k = d := rfl

theorem tget_tdel_self (t : Tab α) (d : α) (k : Nat) : tget (tdel t k) d k = d := by
  induction t with
  | nil => rfl
  | cons e r ih =>
    obtain ⟨j, v⟩ := e
    unfold tdel at ih ⊢
    by_cases h : j = k <;> simp [h, tget, ih]

theorem tget_tdel_ne (t : Tab α) (d : α) {k j : Nat} (h : j ≠ k) : tget (tdel t k) d j = tget t d j := by
  induction t with
  | nil => rfl
  | cons e r ih =>
    obtain ⟨i, v⟩ := e
    unfold tdel at ih ⊢
    by_cases hi : i = k
    · subst hi
      simp [tget, ih, h.symm]
    · simp [hi, tget, ih]

theorem tget_tins_self (t : Tab α) (d v : α) (k : Nat) (h : ∀ e ∈ t, e.1 ≠ k) : tget (tins k v t) d k = v := by
  induction t with
  | nil => simp [tins, tget]
  | cons e r ih =>
    obtain ⟨j, w⟩ := e
    have hj : j ≠ k := h (j, w) (by simp)
    unfold tins
    split
    · simp [tget]
    · simp [tget, hj, ih (fun e he => h e (by simp [he]))]

theorem tget_tins_ne (t : Tab α) (d v : α) {k j : Nat} (h : j ≠ k) : tget (tins k v t) d j = tget t d j := by
  induction t with
  | nil => simp [tins, tget, h.symm]
  | cons e r ih =>
    obtain ⟨i, w⟩ := e
    unfold tins
    split
    · simp [tget, h.symm]
    · simp [tget, ih]

theorem tdel_keys (t : Tab α) (k : Nat) : ∀ e ∈ tdel t k, e.1 ≠ k := by
  intro e he
  have := (List.mem_filter.mp he).2
  simpa using this

variable [DecidableEq α]

theorem tget_tput_self (t : Tab α) (d v : α) (k : Nat) : tget (tput t d k v) d k = v := by
  unfold tput
  split
  · rename_i h
    rw [tget_tdel_self, h]
  · exact tget_tins_self _ _ _ _ (tdel_keys t k)

theorem tget_tput_ne (t : Tab α) (d v : α) {k j : Nat} (h : j ≠ k) : tget (tput t d k v) d j = tget t d j := by
  unfold tput
  split
  · exact tget_tdel_ne t d h
  · rw [tget_tins_ne _ _ _ h, tget_tdel_ne t d h]

/-- A read of a table after one record was replaced. -/
theorem tget_tmod (t : Tab α) (d : α) (k j : Nat) (f : α → α) :
    tget (tmod t d k f) d j = if j = k then f (tget t d k) else tget t d j := by
  unfold tmod
  split
  · rename_i h
    rw [h, tget_tput_self]
  · rename_i h
    exact tget_tput_ne _ _ _ h

/-! ### The canonical form -/

/-- Every key of a table is at least a bound, they rise, and no record is the default. -/
theorem twf_iff (t : Tab α) (d : α) : twf t d = true ↔ (t.Pairwise (fun a b => a.1 < b.1) ∧ ∀ e ∈ t, e.2 ≠ d) := by
  induction t with
  | nil => simp [twf]
  | cons e r ih =>
    obtain ⟨k, v⟩ := e
    simp only [twf, Bool.and_eq_true, decide_eq_true_eq, List.all_eq_true, ih, List.pairwise_cons, List.mem_cons,
      forall_eq_or_imp]
    tauto

theorem twf_filter {t : Tab α} {d : α} (p : Nat × α → Bool) (h : twf t d = true) : twf (t.filter p) d = true := by
  rw [twf_iff] at h ⊢
  exact ⟨h.1.filter p, fun e he => h.2 e (List.mem_filter.mp he).1⟩

omit [DecidableEq α] in
theorem mem_tins {k : Nat} {v : α} {t : Tab α} {e : Nat × α} (h : e ∈ tins k v t) : e = (k, v) ∨ e ∈ t := by
  induction t with
  | nil => simpa [tins] using h
  | cons x r ih =>
    obtain ⟨j, w⟩ := x
    unfold tins at h
    split at h
    · simpa using h
    · rcases List.mem_cons.mp h with h | h
      · exact .inr (by simp [h])
      · rcases ih h with h | h
        · exact .inl h
        · exact .inr (by simp [h])

theorem twf_tins {t : Tab α} {d v : α} {k : Nat} (h : twf t d = true) (hk : ∀ e ∈ t, e.1 ≠ k) (hv : v ≠ d) :
    twf (tins k v t) d = true := by
  rw [twf_iff] at h ⊢
  obtain ⟨hp, hd⟩ := h
  refine ⟨?_, fun e he => ?_⟩
  · induction t with
    | nil => simp [tins]
    | cons x r ih =>
      obtain ⟨j, w⟩ := x
      obtain ⟨h1, h2⟩ := List.pairwise_cons.mp hp
      unfold tins
      split
      · rename_i hlt
        refine List.pairwise_cons.mpr ⟨fun e he => ?_, hp⟩
        rcases List.mem_cons.mp he with rfl | he
        · exact hlt
        · exact Nat.lt_trans hlt (h1 e he)
      · rename_i hlt
        refine List.pairwise_cons.mpr ⟨fun e he => ?_, ih (fun e he => hk e (by simp [he])) h2 (fun e he => hd e (by simp [he]))⟩
        rcases mem_tins he with rfl | he
        · have : j ≠ k := hk (j, w) (by simp)
          show j < k
          omega
        · exact h1 e he
  · rcases mem_tins he with rfl | he
    · exact hv
    · exact hd e he

theorem twf_tdel {t : Tab α} {d : α} (k : Nat) (h : twf t d = true) : twf (tdel t k) d = true := twf_filter _ h

/-- A write keeps a table in its canonical form. -/
theorem twf_tput {t : Tab α} {d : α} (k : Nat) (v : α) (h : twf t d = true) : twf (tput t d k v) d = true := by
  unfold tput
  split
  · exact twf_tdel k h
  · rename_i hv
    exact twf_tins (twf_tdel k h) (tdel_keys t k) hv

theorem twf_tmod {t : Tab α} {d : α} (k : Nat) (f : α → α) (h : twf t d = true) : twf (tmod t d k f) d = true := twf_tput k _ h

theorem twf_tclear {t : Tab α} {d : α} (lo n : Nat) (h : twf t d = true) : twf (tclear t lo n) d = true := twf_filter _ h

theorem twf_tmap {t : Tab α} {d : α} (f : α → α) (h : twf t d = true) : twf (tmap t d f) d = true := by
  rw [twf_iff] at h ⊢
  unfold tmap
  refine ⟨?_, fun e he => ?_⟩
  · refine List.pairwise_filterMap.mpr (h.1.imp ?_)
    intro a b hab x hx y hy
    simp only [Option.ite_none_left_eq_some, Option.some.injEq] at hx hy
    rw [← hx.2, ← hy.2]
    exact hab
  · obtain ⟨a, _, ha⟩ := List.mem_filterMap.mp he
    simp only [Option.ite_none_left_eq_some, Option.some.injEq] at ha
    rw [← ha.2]
    exact ha.1

/-! ### Memory of bytes -/

theorem memGet_memSet (m : Mem) (a : Nat) (b : Byte) (x : Nat) : memGet (memSet m a b) x = if x = a then b else memGet m x := by
  unfold memGet memSet
  split
  · rename_i h
    rw [h, tget_tput_self]
  · rename_i h
    exact tget_tput_ne _ _ _ h

theorem wf_memSet {m : Mem} (a : Nat) (b : Byte) (h : Memory.wf m = true) : Memory.wf (memSet m a b) = true := twf_tput a b h

theorem mem_memCells {a : Nat} {bs : List Byte} {e : Nat × Byte} (h : e ∈ memCells a bs) : a ≤ e.1 ∧ e.1 < a + bs.length ∧ e.2 ≠ 0 := by
  induction bs generalizing a with
  | nil => simp [memCells] at h
  | cons b r ih =>
    unfold memCells at h
    split at h
    · obtain ⟨h1, h2, h3⟩ := ih h
      simp only [List.length_cons]
      exact ⟨by omega, by omega, h3⟩
    · rcases List.mem_cons.mp h with rfl | h
      · simp only [List.length_cons]
        refine ⟨Nat.le_refl _, by omega, ?_⟩
        assumption
      · have := ih h
        simp only [List.length_cons]
        exact ⟨by omega, by omega, this.2.2⟩

theorem pairwise_memCells (a : Nat) (bs : List Byte) : (memCells a bs).Pairwise (fun x y => x.1 < y.1) := by
  induction bs generalizing a with
  | nil => simp [memCells]
  | cons b r ih =>
    unfold memCells
    split
    · exact ih _
    · refine List.pairwise_cons.mpr ⟨fun e he => ?_, ih _⟩
      have := (mem_memCells he).1
      show a < e.1
      omega

/-- A write of bytes keeps a memory in its canonical form. -/
theorem wf_memWrite {m : Mem} (a : Nat) (bs : List Byte) (h : Memory.wf m = true) : Memory.wf (memWrite m a bs) = true := by
  unfold Memory.wf at h ⊢
  rw [twf_iff] at h ⊢
  unfold memWrite
  refine ⟨?_, fun e he => ?_⟩
  · refine List.pairwise_append.mpr ⟨List.pairwise_append.mpr ⟨h.1.filter _, pairwise_memCells _ _, ?_⟩, h.1.filter _, ?_⟩
    · intro x hx y hy
      have h1 := (List.mem_filter.mp hx).2
      have h2 := mem_memCells hy
      simp only [decide_eq_true_eq] at h1
      omega
    · intro x hx y hy
      have h3 := (List.mem_filter.mp hy).2
      simp only [decide_eq_true_eq] at h3
      rcases List.mem_append.mp hx with hx | hx
      · have h1 := (List.mem_filter.mp hx).2
        simp only [decide_eq_true_eq] at h1
        omega
      · have h2 := mem_memCells hx
        omega
  · rcases List.mem_append.mp he with he | he
    · rcases List.mem_append.mp he with he | he
      · exact h.2 e (List.mem_filter.mp he).1
      · exact (mem_memCells he).2.2
    · exact h.2 e (List.mem_filter.mp he).1

theorem wf_memZero {m : Mem} (a n : Nat) (h : Memory.wf m = true) : Memory.wf (memZero m a n) = true := twf_tclear a n h

theorem wf_nil : Memory.wf [] = true := rfl

/-! ### Memory of bytes: what a write leaves -/

omit [DecidableEq α] in
theorem tget_filter (t : Tab α) (d : α) (p : Nat → Bool) (k : Nat) :
    tget (t.filter (fun e => p e.1)) d k = if p k then tget t d k else d := by
  induction t with
  | nil => simp [tget]
  | cons e r ih =>
    obtain ⟨j, v⟩ := e
    by_cases hp : p j
    · by_cases hj : j = k
      · subst hj
        simp [hp, tget]
      · simp [hp, tget, hj, ih]
    · by_cases hj : j = k
      · subst hj
        simp [hp, ih]
      · simp [hp, tget, hj, ih]

omit [DecidableEq α] in
theorem tget_append (t u : Tab α) (d : α) (k : Nat) (h : ∀ e ∈ t, e.1 ≠ k) : tget (t ++ u) d k = tget u d k := by
  induction t with
  | nil => rfl
  | cons e r ih =>
    obtain ⟨j, v⟩ := e
    have hj : j ≠ k := h (j, v) (by simp)
    simp [tget, hj, ih (fun e he => h e (by simp [he]))]

omit [DecidableEq α] in
theorem tget_append_left (t u : Tab α) (d : α) (k : Nat) (h : ∀ e ∈ u, e.1 ≠ k) : tget (t ++ u) d k = tget t d k := by
  induction t with
  | nil =>
    have := tget_append u [] d k h
    simpa using this
  | cons e r ih =>
    obtain ⟨j, v⟩ := e
    simp [tget, ih]

theorem tget_memCells (a : Nat) (bs : List Byte) (x : Nat) :
    tget (memCells a bs) 0 x = if a ≤ x ∧ x < a + bs.length then bs.getD (x - a) 0 else 0 := by
  induction bs generalizing a with
  | nil => simp [memCells, tget]
  | cons b r ih =>
    unfold memCells
    by_cases hx : x = a
    · subst hx
      split
      · rename_i hb
        rw [ih]
        simp [hb]
      · simp [tget]
    · have hg : a < x → (b :: r).getD (x - a) 0 = r.getD (x - (a + 1)) 0 := by
        intro h
        rw [show x - a = (x - (a + 1)) + 1 by omega]
        rfl
      split
      · rw [ih]
        by_cases h : a + 1 ≤ x ∧ x < a + 1 + r.length
        · rw [if_pos h, if_pos (by simp only [List.length_cons]; omega), hg (by omega)]
        · rw [if_neg h, if_neg (by simp only [List.length_cons]; omega)]
      · have : a ≠ x := fun e => hx e.symm
        simp only [tget, this, if_false]
        rw [ih]
        by_cases h : a + 1 ≤ x ∧ x < a + 1 + r.length
        · rw [if_pos h, if_pos (by simp only [List.length_cons]; omega), hg (by omega)]
        · rw [if_neg h, if_neg (by simp only [List.length_cons]; omega)]

/-- A byte read after a write of bytes: the byte written where the write reaches, else the byte before. -/
theorem memGet_memWrite (m : Mem) (a : Nat) (bs : List Byte) (x : Nat) :
    memGet (memWrite m a bs) x = if a ≤ x ∧ x < a + bs.length then bs.getD (x - a) 0 else memGet m x := by
  unfold memGet memWrite
  have h1 := tget_filter m (0 : Byte) (fun k => decide (k < a)) x
  have h3 := tget_filter m (0 : Byte) (fun k => decide (a + bs.length ≤ k)) x
  by_cases hlo : x < a
  · rw [List.append_assoc, tget_append_left, h1]
    · rw [if_pos (by simpa using hlo), if_neg (by omega)]
    · intro e he
      rcases List.mem_append.mp he with he | he
      · have := mem_memCells he
        omega
      · have := (List.mem_filter.mp he).2
        simp only [decide_eq_true_eq] at this
        omega
  · have hA : ∀ e ∈ m.filter (fun e => decide (e.1 < a)), e.1 ≠ x := by
      intro e he
      have := (List.mem_filter.mp he).2
      simp only [decide_eq_true_eq] at this
      omega
    rw [List.append_assoc, tget_append _ _ _ _ hA]
    by_cases hhi : a + bs.length ≤ x
    · rw [tget_append, h3]
      · simp only [hhi, decide_true, if_true]
        rw [if_neg (by omega)]
      · intro e he
        have := mem_memCells he
        omega
    · rw [tget_append_left, tget_memCells]
      · rw [if_pos (by omega), if_pos (by omega)]
      · intro e he
        have := (List.mem_filter.mp he).2
        simp only [decide_eq_true_eq] at this
        omega

end Sys2Proof.Machine
end

