-- ==== Sys2Proof/Laws/Command.lean ====
section
/-!
SUPPORT. What the taking of a packet does: a card whose checks pass runs on the state with its command in progress, and what that
state shares with the one before.
-/

namespace Sys2Proof

open Machine

/-! ### The command in progress -/

theorem taken_eq (s : State) (c : Cmd) (op : Nat) :
    taken s c op = { s with host := (taken s c op).host } := rfl

@[simp] theorem taken_dev (s : State) (c : Cmd) (op : Nat) : (taken s c op).dev = s.dev := rfl
@[simp] theorem taken_flash (s : State) (c : Cmd) (op : Nat) : (taken s c op).flash = s.flash := rfl
@[simp] theorem taken_fuses (s : State) (c : Cmd) (op : Nat) : (taken s c op).fuses = s.fuses := rfl
@[simp] theorem taken_ident (s : State) (c : Cmd) (op : Nat) : (taken s c op).ident = s.ident := rfl
@[simp] theorem taken_time (s : State) (c : Cmd) (op : Nat) : (taken s c op).time = s.time := rfl
@[simp] theorem taken_trace (s : State) (c : Cmd) (op : Nat) : (taken s c op).trace = s.trace := rfl
@[simp] theorem taken_pwr (s : State) (c : Cmd) (op : Nat) : (taken s c op).pwr = s.pwr := rfl
@[simp] theorem taken_pastures (s : State) (c : Cmd) (op : Nat) : (taken s c op).pastures = s.pastures := rfl
@[simp] theorem taken_pas (s : State) (c : Cmd) (op p : Nat) : (taken s c op).pas p = s.pas p := rfl
@[simp] theorem taken_pstate (s : State) (c : Cmd) (op p : Nat) : (taken s c op).pstate p = s.pstate p := rfl
@[simp] theorem taken_acqOf (s : State) (c : Cmd) (op p : Nat) : (taken s c op).acqOf p = s.acqOf p := rfl
@[simp] theorem taken_task (s : State) (c : Cmd) (op t : Nat) : (taken s c op).task t = s.task t := rfl
@[simp] theorem taken_anyLive (s : State) (c : Cmd) (op : Nat) : (taken s c op).anyLive = s.anyLive := rfl
@[simp] theorem taken_ringsOn (s : State) (c : Cmd) (op p : Nat) : (taken s c op).ringsOn p = s.ringsOn p := rfl

/-- A command in progress leaves every ring register but the sequence number. -/
theorem taken_ring (s : State) (c : Cmd) (op n : Nat) :
    (taken s c op).ring n = if n = c.ring then { s.ring c.ring with seq := (s.ring c.ring).seq + 1 } else s.ring n :=
  tget_tmod s.host.rings CmdRing.init c.ring n (fun r => { r with seq := r.seq + 1 })

@[simp] theorem taken_bound (s : State) (c : Cmd) (op n : Nat) : ((taken s c op).ring n).bound = (s.ring n).bound := by
  rw [taken_ring]
  split
  · rename_i h
    rw [h]
  · rfl

@[simp] theorem taken_ringSid (s : State) (c : Cmd) (op n : Nat) : (taken s c op).ringSid n = s.ringSid n := by
  unfold State.ringSid
  rw [taken_bound]

/-! ### Checks -/

/-! ### Bit fields -/

theorem bitsOf_eq (x lo w : Nat) : bitsOf x lo w = x / 2 ^ lo % 2 ^ w := by simp [bitsOf, Nat.shiftRight_eq_div_pow]
theorem bitOf_eq (x i : Nat) : bitOf x i = decide (x / 2 ^ i % 2 = 1) := by
  simp [bitOf, Nat.shiftRight_eq_div_pow, Bool.beq_eq_decide_eq]
theorem bitsOf_lt (x lo w : Nat) : bitsOf x lo w < 2 ^ w := Nat.mod_lt _ (Nat.two_pow_pos w)

theorem firstFail_none {l : List Check} (h : ∀ x ∈ l, x.1 = false) : firstFail l = none := by
  unfold firstFail
  rw [List.find?_eq_none.mpr (fun x hx => by simp [h x hx])]
  rfl

theorem checked_ok {s : State} {g : Prog} {l : List Check} {f : State → State} (h : ∀ x ∈ l, x.1 = false) :
    s.checked g l f = f s := by
  unfold State.checked
  rw [firstFail_none h]

theorem slice_getD (bs : List Byte) (o n i : Nat) (h : i < n) : (slice bs o n).getD i 0 = bs.getD (o + i) 0 := by
  unfold slice
  simp only [List.getD_eq_getElem?_getD, List.getElem?_append, List.getElem?_replicate, List.length_take, List.length_drop,
    List.getElem?_take, List.getElem?_drop, h, if_true]
  split
  · rfl
  · rename_i hb
    have : bs.length ≤ o + i := by omega
    rw [List.getElem?_eq_none this]
    split <;> rfl

theorem slice_length (bs : List Byte) (o n : Nat) : (slice bs o n).length = n := by
  unfold slice
  simp only [List.length_append, List.length_replicate, List.length_take, List.length_drop]
  omega

theorem paramZero_getD {c : Cmd} {lo n : Nat} (h : paramZero c lo n) (i : Nat) (hi : i < n) : c.params.getD (lo + i) 0 = 0 := by
  unfold paramZero zeroAt at h
  rw [List.all_eq_true] at h
  rw [← slice_getD c.params lo n i hi]
  have hl : i < (slice c.params lo n).length := by rw [slice_length]; exact hi
  have := h ((slice c.params lo n)[i]) (List.getElem_mem hl)
  rw [List.getD_eq_getElem?_getD, List.getElem?_eq_getElem hl]
  simpa using this

/-- A field inside a range that is zero is zero. -/
theorem paramZero_sub {c : Cmd} {a n b m : Nat} (h : paramZero c a n) (h1 : a ≤ b) (h2 : b + m ≤ a + n) : paramZero c b m := by
  unfold paramZero zeroAt
  rw [List.all_eq_true]
  intro x hx
  obtain ⟨i, hi, rfl⟩ := List.getElem_of_mem hx
  have hm : i < m := by rwa [slice_length] at hi
  have := paramZero_getD h (b + i - a) (by omega)
  rw [show a + (b + i - a) = b + i by omega, ← slice_getD c.params b m i hm, List.getD_eq_getElem?_getD,
    List.getElem?_eq_getElem hi] at this
  simpa using this

theorem reservedZero_ok {c : Cmd} {lo n : Nat} (h : paramZero c lo n) : ∀ x ∈ reservedZero c lo n, x.1 = false := by
  unfold paramZero at h
  simp [reservedZero, h]

theorem zeroFields_ok {c : Cmd} {l : List (Nat × Nat)} (h : ∀ f ∈ l, paramZero c f.1 f.2) : ∀ x ∈ zeroFields c l, x.1 = false := by
  intro x hx
  obtain ⟨f, hf, rfl⟩ := List.mem_map.mp hx
  have := h f hf
  unfold paramZero at this
  simp [rangeCheck, this]

theorem resultChecks_ok {c : Cmd} {n : Nat} (h : resultFits c n) : ∀ x ∈ resultChecks c n, x.1 = false := by
  obtain ⟨h1, h2⟩ := h
  unfold param at h1 h2
  intro x hx
  simp only [resultChecks, List.mem_cons, List.not_mem_nil, or_false] at hx
  rcases hx with rfl | rfl
  · simp [h1]
  · simpa using h2

theorem append_ok {l m : List Check} (h : ∀ x ∈ l, x.1 = false) (k : ∀ x ∈ m, x.1 = false) : ∀ x ∈ l ++ m, x.1 = false := by
  intro x hx
  rcases List.mem_append.mp hx with hx | hx
  · exact h x hx
  · exact k x hx

theorem cons_ok {b : Bool} {v : Nat × Nat} {m : List Check} (h : b = false) (k : ∀ x ∈ m, x.1 = false) :
    ∀ x ∈ (b, v) :: m, x.1 = false := by
  intro x hx
  rcases List.mem_cons.mp hx with rfl | hx
  · exact h
  · exact k x hx

theorem range_ok {b : Bool} {o : Nat} {m : List Check} (h : b = false) (k : ∀ x ∈ m, x.1 = false) :
    ∀ x ∈ rangeCheck b o :: m, x.1 = false := cons_ok h k

theorem state_ok {b : Bool} {v : Nat} {m : List Check} (h : b = false) (k : ∀ x ∈ m, x.1 = false) :
    ∀ x ∈ stateCheck b v :: m, x.1 = false := cons_ok h k

theorem nil_ok : ∀ x ∈ ([] : List Check), x.1 = false := fun _ hx => absurd hx (List.not_mem_nil)

/-! ### Cards -/

theorem ringServes_of_ready {s : State} {c : Cmd} (h : ringReady s c) : s.ringServes c.ring c.fence = true := by
  obtain ⟨h1, h2, h3, h4, h5, h6, h7, h8, h9, h10⟩ := h
  unfold State.ringServes
  cases hf : c.fence <;> simp_all

/-- Whether a card's modes take a packet in each of a list of modes. -/
def takenIn (modes : String) (ms : List Mode) : Bool :=
  ms.all (fun m => match m with
    | .service => decide ('S' ∈ modes.toList)
    | .emulate => decide ('E' ∈ modes.toList)
    | .minimal => decide ('M' ∈ modes.toList)
    | .erase => decide ('W' ∈ modes.toList)
    | .hold | .recover => decide ('H' ∈ modes.toList)
    | _ => false)

theorem modeVerdict_take {s : State} {modes : String} {ms : List Mode} (h : s.dev.mode ∈ ms) (k : takenIn modes ms = true) :
    s.modeVerdict modes = .take := by
  unfold takenIn at k
  have := List.all_eq_true.mp k _ h
  unfold State.modeVerdict
  revert this
  cases s.dev.mode <;> simp

/-- A device command that is taken runs its card. -/
theorem runCard_device {s : State} {c : Cmd} {card : Card} {ms : List Mode} {needs : Bool} (h : takesDevice s c ms needs)
    (hm : takenIn card.modes ms = true) (hs : card.session = needs) (hn : card.names = false) (hw : card.waits = false)
    (hl : card.lengthOk c.params = true) :
    s.runCard card c = card.run c (cmdOf s c card.opcode) (taken s c card.opcode) := by
  obtain ⟨h1, h2, h3, h4, h5⟩ := h
  have hv := modeVerdict_take h2 hm
  have hr := ringServes_of_ready h1
  have ha : (c.session && (s.ring c.ring).bound.isSome) = c.session := by
    cases hc : c.session
    · rfl
    · simp [h4 hc]
  have ht : s.takes card c = true := by simp [State.takes, State.pastureWaits, hv, hr, hw]
  have hb : ¬ (c.session = true ∧ (s.ring c.ring).bound = none) := by
    rintro ⟨x, y⟩
    have := h4 x
    simp [y] at this
  have hc : s.cardRefusal card c = none := by
    have h6 : ¬ ((card.session = true ∧ ¬ c.session = true) ∨ (c.session = true ∧ (s.ring c.ring).bound = none)) := by
      rintro (⟨x, y⟩ | z)
      · exact y (h5 (hs ▸ x))
      · exact hb z
    simp only [State.cardRefusal, hv, hn, hl, h3, if_neg h6]
    simp
  simp only [State.runCard, ht, hc, ha]
  rfl

/-- A command of a pasture that is taken runs its card. -/
theorem runCard_pasture {s : State} {c : Cmd} {card : Card} (h : takesPasture s c)
    (hm : takenIn card.modes [.service, .emulate] = true) (hn : card.names = true)
    (hw : card.waits = true → s.pstate c.pasture ≠ .recovering) (hl : card.lengthOk c.params = true) :
    s.runCard card c = card.run c (cmdOf s c card.opcode) (taken s c card.opcode) := by
  obtain ⟨h1, h2, h3, h4, h5, h6⟩ := h
  have hv := modeVerdict_take h2 hm
  have hr := ringServes_of_ready h1
  have hb := h5 h4
  have ha : (c.session && (s.ring c.ring).bound.isSome) = c.session := by simp [h4, hb]
  have hb' : (s.ring c.ring).bound ≠ none := by
    intro y
    simp [y] at hb
  have ht : s.takes card c = true := by
    have : s.pastureWaits card c = false := by
      unfold State.pastureWaits
      cases hc : card.waits
      · simp
      · simp [hw hc]
    simp [State.takes, hv, hr, this]
  have hc : s.cardRefusal card c = none := by
    have h7 : ¬ 16 ≤ c.pasture := by omega
    simp only [State.cardRefusal, hv, hn, hl, h4, State.heldBy]
    by_cases he : s.pstate c.pasture = .empty
    · simp [he, h7, hb']
    · simp [he, h7, hb', h6 he]
  simp only [State.runCard, ht, hc, ha]
  rfl

end Sys2Proof
end

