-- ==== Sys2Proof/Laws/Crypto.lean ====
section
/-!
SUPPORT. Lengths of digests and tags, and that a sealed text opens.
-/

namespace Sys2Proof.Machine

open Sys2Proof

theorem beBytes_length (n x : Nat) : (beBytes n x).length = n := by
  have h : ∀ n x, (leBytes n x).length = n := by
    intro n; induction n with
    | zero => intro x; rfl
    | succ n ih => intro x; simp [leBytes, ih]
  simp [beBytes, h]

theorem shaRound_length {st : List Nat} (kw : Nat) (h : st.length = 8) : (shaRound st kw).length = 8 := by
  unfold shaRound; split
  · rfl
  · exact h

theorem shaBlock_length {st : List Nat} (blk : List Byte) (h : st.length = 8) : (shaBlock st blk).length = 8 := by
  have key (l : List (Nat × Nat)) (t : List Nat) (ht : t.length = 8) :
      (l.foldl (fun st iw => shaRound st (shaK.getD iw.1 0 + iw.2)) t).length = 8 := by
    induction l generalizing t with
    | nil => exact ht
    | cons a l ih => exact ih _ (shaRound_length _ ht)
  unfold shaBlock
  simp only [List.length_zipWith, key _ _ h, h, Nat.min_self]

theorem sha384Init_length : sha384Init.length = 8 := by decide +kernel

theorem sha384_length (m : List Byte) : (sha384 m).length = 48 := by
  have key (l : List (List Byte)) (t : List Nat) (ht : t.length = 8) : (l.foldl shaBlock t).length = 8 := by
    induction l generalizing t with
    | nil => exact ht
    | cons a l ih => exact ih _ (shaBlock_length _ ht)
  unfold sha384
  simp only [List.length_flatten, List.map_map]
  have h (l : List Nat) : ((l.map (List.length ∘ beBytes 8))).sum = 8 * l.length := by
    induction l with
    | nil => rfl
    | cons a l ih => simp only [List.map_cons, List.sum_cons, ih, Function.comp, beBytes_length, List.length_cons]; omega
  rw [h, List.length_take, key _ _ sha384Init_length]; rfl

theorem hmac384_length (key m : List Byte) : (hmac384 key m).length = 48 := sha384_length _

theorem gcmTag_length (key iv aad ct : List Byte) : (gcmTag key iv aad ct).length = 16 := beBytes_length _ _

theorem gcmOpen_tag (key iv aad ct : List Byte) :
    gcmOpen key iv aad ct (gcmTag key iv aad ct) = some (aesCtrFrom (aesKeys key) iv 2 (ct.length / 16 + 1) ct) := if_pos rfl

end Sys2Proof.Machine
end

