-- ==== Sys2Proof/Laws/State.lean ====
section
/-!
SUPPORT. What each update of the state leaves alone, one lemma per field, and what it makes of the record it updates.
-/

namespace Sys2Proof.Machine

open Sys2Proof

variable {s : State}

/-! ### modDev -/

@[simp] theorem State.modDev_ident {f : Dev → Dev} : (s.modDev f).ident = s.ident := rfl
@[simp] theorem State.modDev_fuses {f : Dev → Dev} : (s.modDev f).fuses = s.fuses := rfl
@[simp] theorem State.modDev_flash {f : Dev → Dev} : (s.modDev f).flash = s.flash := rfl
@[simp] theorem State.modDev_host {f : Dev → Dev} : (s.modDev f).host = s.host := rfl
@[simp] theorem State.modDev_out {f : Dev → Dev} : (s.modDev f).out = s.out := rfl
@[simp] theorem State.modDev_folds {f : Dev → Dev} : (s.modDev f).folds = s.folds := rfl
@[simp] theorem State.modDev_pairs {f : Dev → Dev} : (s.modDev f).pairs = s.pairs := rfl
@[simp] theorem State.modDev_hbm {f : Dev → Dev} : (s.modDev f).hbm = s.hbm := rfl
@[simp] theorem State.modDev_pastures {f : Dev → Dev} : (s.modDev f).pastures = s.pastures := rfl
@[simp] theorem State.modDev_mregions {f : Dev → Dev} : (s.modDev f).mregions = s.mregions := rfl
@[simp] theorem State.modDev_mstatus {f : Dev → Dev} : (s.modDev f).mstatus = s.mstatus := rfl
@[simp] theorem State.modDev_flow {f : Dev → Dev} : (s.modDev f).flow = s.flow := rfl
@[simp] theorem State.modDev_acq {f : Dev → Dev} : (s.modDev f).acq = s.acq := rfl
@[simp] theorem State.modDev_snaps {f : Dev → Dev} : (s.modDev f).snaps = s.snaps := rfl
@[simp] theorem State.modDev_noc {f : Dev → Dev} : (s.modDev f).noc = s.noc := rfl
@[simp] theorem State.modDev_lanes {f : Dev → Dev} : (s.modDev f).lanes = s.lanes := rfl
@[simp] theorem State.modDev_ports {f : Dev → Dev} : (s.modDev f).ports = s.ports := rfl
@[simp] theorem State.modDev_time {f : Dev → Dev} : (s.modDev f).time = s.time := rfl
@[simp] theorem State.modDev_eth {f : Dev → Dev} : (s.modDev f).eth = s.eth := rfl
@[simp] theorem State.modDev_edge {f : Dev → Dev} : (s.modDev f).edge = s.edge := rfl
@[simp] theorem State.modDev_pwr {f : Dev → Dev} : (s.modDev f).pwr = s.pwr := rfl
@[simp] theorem State.modDev_trace {f : Dev → Dev} : (s.modDev f).trace = s.trace := rfl
@[simp] theorem State.modDev_freeCount {f : Dev → Dev} : (s.modDev f).freeCount = s.freeCount := rfl
@[simp] theorem State.modDev_pending {f : Dev → Dev} : (s.modDev f).pending = s.pending := rfl
@[simp] theorem State.modDev_dev {f : Dev → Dev} : (s.modDev f).dev = f s.dev := rfl

/-! ### modHost -/

@[simp] theorem State.modHost_ident {f : HostSide → HostSide} : (s.modHost f).ident = s.ident := rfl
@[simp] theorem State.modHost_fuses {f : HostSide → HostSide} : (s.modHost f).fuses = s.fuses := rfl
@[simp] theorem State.modHost_flash {f : HostSide → HostSide} : (s.modHost f).flash = s.flash := rfl
@[simp] theorem State.modHost_dev {f : HostSide → HostSide} : (s.modHost f).dev = s.dev := rfl
@[simp] theorem State.modHost_out {f : HostSide → HostSide} : (s.modHost f).out = s.out := rfl
@[simp] theorem State.modHost_folds {f : HostSide → HostSide} : (s.modHost f).folds = s.folds := rfl
@[simp] theorem State.modHost_pairs {f : HostSide → HostSide} : (s.modHost f).pairs = s.pairs := rfl
@[simp] theorem State.modHost_hbm {f : HostSide → HostSide} : (s.modHost f).hbm = s.hbm := rfl
@[simp] theorem State.modHost_pastures {f : HostSide → HostSide} : (s.modHost f).pastures = s.pastures := rfl
@[simp] theorem State.modHost_mregions {f : HostSide → HostSide} : (s.modHost f).mregions = s.mregions := rfl
@[simp] theorem State.modHost_mstatus {f : HostSide → HostSide} : (s.modHost f).mstatus = s.mstatus := rfl
@[simp] theorem State.modHost_flow {f : HostSide → HostSide} : (s.modHost f).flow = s.flow := rfl
@[simp] theorem State.modHost_acq {f : HostSide → HostSide} : (s.modHost f).acq = s.acq := rfl
@[simp] theorem State.modHost_snaps {f : HostSide → HostSide} : (s.modHost f).snaps = s.snaps := rfl
@[simp] theorem State.modHost_noc {f : HostSide → HostSide} : (s.modHost f).noc = s.noc := rfl
@[simp] theorem State.modHost_lanes {f : HostSide → HostSide} : (s.modHost f).lanes = s.lanes := rfl
@[simp] theorem State.modHost_ports {f : HostSide → HostSide} : (s.modHost f).ports = s.ports := rfl
@[simp] theorem State.modHost_time {f : HostSide → HostSide} : (s.modHost f).time = s.time := rfl
@[simp] theorem State.modHost_eth {f : HostSide → HostSide} : (s.modHost f).eth = s.eth := rfl
@[simp] theorem State.modHost_edge {f : HostSide → HostSide} : (s.modHost f).edge = s.edge := rfl
@[simp] theorem State.modHost_pwr {f : HostSide → HostSide} : (s.modHost f).pwr = s.pwr := rfl
@[simp] theorem State.modHost_trace {f : HostSide → HostSide} : (s.modHost f).trace = s.trace := rfl
@[simp] theorem State.modHost_freeCount {f : HostSide → HostSide} : (s.modHost f).freeCount = s.freeCount := rfl
@[simp] theorem State.modHost_pending {f : HostSide → HostSide} : (s.modHost f).pending = s.pending := rfl
@[simp] theorem State.modHost_host {f : HostSide → HostSide} : (s.modHost f).host = f s.host := rfl

/-! ### modNoc -/

@[simp] theorem State.modNoc_ident {f : Noc → Noc} : (s.modNoc f).ident = s.ident := rfl
@[simp] theorem State.modNoc_fuses {f : Noc → Noc} : (s.modNoc f).fuses = s.fuses := rfl
@[simp] theorem State.modNoc_flash {f : Noc → Noc} : (s.modNoc f).flash = s.flash := rfl
@[simp] theorem State.modNoc_dev {f : Noc → Noc} : (s.modNoc f).dev = s.dev := rfl
@[simp] theorem State.modNoc_host {f : Noc → Noc} : (s.modNoc f).host = s.host := rfl
@[simp] theorem State.modNoc_out {f : Noc → Noc} : (s.modNoc f).out = s.out := rfl
@[simp] theorem State.modNoc_folds {f : Noc → Noc} : (s.modNoc f).folds = s.folds := rfl
@[simp] theorem State.modNoc_pairs {f : Noc → Noc} : (s.modNoc f).pairs = s.pairs := rfl
@[simp] theorem State.modNoc_hbm {f : Noc → Noc} : (s.modNoc f).hbm = s.hbm := rfl
@[simp] theorem State.modNoc_pastures {f : Noc → Noc} : (s.modNoc f).pastures = s.pastures := rfl
@[simp] theorem State.modNoc_mregions {f : Noc → Noc} : (s.modNoc f).mregions = s.mregions := rfl
@[simp] theorem State.modNoc_mstatus {f : Noc → Noc} : (s.modNoc f).mstatus = s.mstatus := rfl
@[simp] theorem State.modNoc_flow {f : Noc → Noc} : (s.modNoc f).flow = s.flow := rfl
@[simp] theorem State.modNoc_acq {f : Noc → Noc} : (s.modNoc f).acq = s.acq := rfl
@[simp] theorem State.modNoc_snaps {f : Noc → Noc} : (s.modNoc f).snaps = s.snaps := rfl
@[simp] theorem State.modNoc_lanes {f : Noc → Noc} : (s.modNoc f).lanes = s.lanes := rfl
@[simp] theorem State.modNoc_ports {f : Noc → Noc} : (s.modNoc f).ports = s.ports := rfl
@[simp] theorem State.modNoc_time {f : Noc → Noc} : (s.modNoc f).time = s.time := rfl
@[simp] theorem State.modNoc_eth {f : Noc → Noc} : (s.modNoc f).eth = s.eth := rfl
@[simp] theorem State.modNoc_edge {f : Noc → Noc} : (s.modNoc f).edge = s.edge := rfl
@[simp] theorem State.modNoc_pwr {f : Noc → Noc} : (s.modNoc f).pwr = s.pwr := rfl
@[simp] theorem State.modNoc_trace {f : Noc → Noc} : (s.modNoc f).trace = s.trace := rfl
@[simp] theorem State.modNoc_freeCount {f : Noc → Noc} : (s.modNoc f).freeCount = s.freeCount := rfl
@[simp] theorem State.modNoc_pending {f : Noc → Noc} : (s.modNoc f).pending = s.pending := rfl
@[simp] theorem State.modNoc_noc {f : Noc → Noc} : (s.modNoc f).noc = f s.noc := rfl

/-! ### modTime -/

@[simp] theorem State.modTime_ident {f : TimeBase → TimeBase} : (s.modTime f).ident = s.ident := rfl
@[simp] theorem State.modTime_fuses {f : TimeBase → TimeBase} : (s.modTime f).fuses = s.fuses := rfl
@[simp] theorem State.modTime_flash {f : TimeBase → TimeBase} : (s.modTime f).flash = s.flash := rfl
@[simp] theorem State.modTime_dev {f : TimeBase → TimeBase} : (s.modTime f).dev = s.dev := rfl
@[simp] theorem State.modTime_host {f : TimeBase → TimeBase} : (s.modTime f).host = s.host := rfl
@[simp] theorem State.modTime_out {f : TimeBase → TimeBase} : (s.modTime f).out = s.out := rfl
@[simp] theorem State.modTime_folds {f : TimeBase → TimeBase} : (s.modTime f).folds = s.folds := rfl
@[simp] theorem State.modTime_pairs {f : TimeBase → TimeBase} : (s.modTime f).pairs = s.pairs := rfl
@[simp] theorem State.modTime_hbm {f : TimeBase → TimeBase} : (s.modTime f).hbm = s.hbm := rfl
@[simp] theorem State.modTime_pastures {f : TimeBase → TimeBase} : (s.modTime f).pastures = s.pastures := rfl
@[simp] theorem State.modTime_mregions {f : TimeBase → TimeBase} : (s.modTime f).mregions = s.mregions := rfl
@[simp] theorem State.modTime_mstatus {f : TimeBase → TimeBase} : (s.modTime f).mstatus = s.mstatus := rfl
@[simp] theorem State.modTime_flow {f : TimeBase → TimeBase} : (s.modTime f).flow = s.flow := rfl
@[simp] theorem State.modTime_acq {f : TimeBase → TimeBase} : (s.modTime f).acq = s.acq := rfl
@[simp] theorem State.modTime_snaps {f : TimeBase → TimeBase} : (s.modTime f).snaps = s.snaps := rfl
@[simp] theorem State.modTime_noc {f : TimeBase → TimeBase} : (s.modTime f).noc = s.noc := rfl
@[simp] theorem State.modTime_lanes {f : TimeBase → TimeBase} : (s.modTime f).lanes = s.lanes := rfl
@[simp] theorem State.modTime_ports {f : TimeBase → TimeBase} : (s.modTime f).ports = s.ports := rfl
@[simp] theorem State.modTime_eth {f : TimeBase → TimeBase} : (s.modTime f).eth = s.eth := rfl
@[simp] theorem State.modTime_edge {f : TimeBase → TimeBase} : (s.modTime f).edge = s.edge := rfl
@[simp] theorem State.modTime_pwr {f : TimeBase → TimeBase} : (s.modTime f).pwr = s.pwr := rfl
@[simp] theorem State.modTime_trace {f : TimeBase → TimeBase} : (s.modTime f).trace = s.trace := rfl
@[simp] theorem State.modTime_freeCount {f : TimeBase → TimeBase} : (s.modTime f).freeCount = s.freeCount := rfl
@[simp] theorem State.modTime_pending {f : TimeBase → TimeBase} : (s.modTime f).pending = s.pending := rfl
@[simp] theorem State.modTime_time {f : TimeBase → TimeBase} : (s.modTime f).time = f s.time := rfl

/-! ### modEdge -/

@[simp] theorem State.modEdge_ident {f : Edge → Edge} : (s.modEdge f).ident = s.ident := rfl
@[simp] theorem State.modEdge_fuses {f : Edge → Edge} : (s.modEdge f).fuses = s.fuses := rfl
@[simp] theorem State.modEdge_flash {f : Edge → Edge} : (s.modEdge f).flash = s.flash := rfl
@[simp] theorem State.modEdge_dev {f : Edge → Edge} : (s.modEdge f).dev = s.dev := rfl
@[simp] theorem State.modEdge_host {f : Edge → Edge} : (s.modEdge f).host = s.host := rfl
@[simp] theorem State.modEdge_out {f : Edge → Edge} : (s.modEdge f).out = s.out := rfl
@[simp] theorem State.modEdge_folds {f : Edge → Edge} : (s.modEdge f).folds = s.folds := rfl
@[simp] theorem State.modEdge_pairs {f : Edge → Edge} : (s.modEdge f).pairs = s.pairs := rfl
@[simp] theorem State.modEdge_hbm {f : Edge → Edge} : (s.modEdge f).hbm = s.hbm := rfl
@[simp] theorem State.modEdge_pastures {f : Edge → Edge} : (s.modEdge f).pastures = s.pastures := rfl
@[simp] theorem State.modEdge_mregions {f : Edge → Edge} : (s.modEdge f).mregions = s.mregions := rfl
@[simp] theorem State.modEdge_mstatus {f : Edge → Edge} : (s.modEdge f).mstatus = s.mstatus := rfl
@[simp] theorem State.modEdge_flow {f : Edge → Edge} : (s.modEdge f).flow = s.flow := rfl
@[simp] theorem State.modEdge_acq {f : Edge → Edge} : (s.modEdge f).acq = s.acq := rfl
@[simp] theorem State.modEdge_snaps {f : Edge → Edge} : (s.modEdge f).snaps = s.snaps := rfl
@[simp] theorem State.modEdge_noc {f : Edge → Edge} : (s.modEdge f).noc = s.noc := rfl
@[simp] theorem State.modEdge_lanes {f : Edge → Edge} : (s.modEdge f).lanes = s.lanes := rfl
@[simp] theorem State.modEdge_ports {f : Edge → Edge} : (s.modEdge f).ports = s.ports := rfl
@[simp] theorem State.modEdge_time {f : Edge → Edge} : (s.modEdge f).time = s.time := rfl
@[simp] theorem State.modEdge_eth {f : Edge → Edge} : (s.modEdge f).eth = s.eth := rfl
@[simp] theorem State.modEdge_pwr {f : Edge → Edge} : (s.modEdge f).pwr = s.pwr := rfl
@[simp] theorem State.modEdge_trace {f : Edge → Edge} : (s.modEdge f).trace = s.trace := rfl
@[simp] theorem State.modEdge_freeCount {f : Edge → Edge} : (s.modEdge f).freeCount = s.freeCount := rfl
@[simp] theorem State.modEdge_pending {f : Edge → Edge} : (s.modEdge f).pending = s.pending := rfl
@[simp] theorem State.modEdge_edge {f : Edge → Edge} : (s.modEdge f).edge = f s.edge := rfl

/-! ### modPwr -/

@[simp] theorem State.modPwr_ident {f : Pwr → Pwr} : (s.modPwr f).ident = s.ident := rfl
@[simp] theorem State.modPwr_fuses {f : Pwr → Pwr} : (s.modPwr f).fuses = s.fuses := rfl
@[simp] theorem State.modPwr_flash {f : Pwr → Pwr} : (s.modPwr f).flash = s.flash := rfl
@[simp] theorem State.modPwr_dev {f : Pwr → Pwr} : (s.modPwr f).dev = s.dev := rfl
@[simp] theorem State.modPwr_host {f : Pwr → Pwr} : (s.modPwr f).host = s.host := rfl
@[simp] theorem State.modPwr_out {f : Pwr → Pwr} : (s.modPwr f).out = s.out := rfl
@[simp] theorem State.modPwr_folds {f : Pwr → Pwr} : (s.modPwr f).folds = s.folds := rfl
@[simp] theorem State.modPwr_pairs {f : Pwr → Pwr} : (s.modPwr f).pairs = s.pairs := rfl
@[simp] theorem State.modPwr_hbm {f : Pwr → Pwr} : (s.modPwr f).hbm = s.hbm := rfl
@[simp] theorem State.modPwr_pastures {f : Pwr → Pwr} : (s.modPwr f).pastures = s.pastures := rfl
@[simp] theorem State.modPwr_mregions {f : Pwr → Pwr} : (s.modPwr f).mregions = s.mregions := rfl
@[simp] theorem State.modPwr_mstatus {f : Pwr → Pwr} : (s.modPwr f).mstatus = s.mstatus := rfl
@[simp] theorem State.modPwr_flow {f : Pwr → Pwr} : (s.modPwr f).flow = s.flow := rfl
@[simp] theorem State.modPwr_acq {f : Pwr → Pwr} : (s.modPwr f).acq = s.acq := rfl
@[simp] theorem State.modPwr_snaps {f : Pwr → Pwr} : (s.modPwr f).snaps = s.snaps := rfl
@[simp] theorem State.modPwr_noc {f : Pwr → Pwr} : (s.modPwr f).noc = s.noc := rfl
@[simp] theorem State.modPwr_lanes {f : Pwr → Pwr} : (s.modPwr f).lanes = s.lanes := rfl
@[simp] theorem State.modPwr_ports {f : Pwr → Pwr} : (s.modPwr f).ports = s.ports := rfl
@[simp] theorem State.modPwr_time {f : Pwr → Pwr} : (s.modPwr f).time = s.time := rfl
@[simp] theorem State.modPwr_eth {f : Pwr → Pwr} : (s.modPwr f).eth = s.eth := rfl
@[simp] theorem State.modPwr_edge {f : Pwr → Pwr} : (s.modPwr f).edge = s.edge := rfl
@[simp] theorem State.modPwr_trace {f : Pwr → Pwr} : (s.modPwr f).trace = s.trace := rfl
@[simp] theorem State.modPwr_freeCount {f : Pwr → Pwr} : (s.modPwr f).freeCount = s.freeCount := rfl
@[simp] theorem State.modPwr_pending {f : Pwr → Pwr} : (s.modPwr f).pending = s.pending := rfl
@[simp] theorem State.modPwr_pwr {f : Pwr → Pwr} : (s.modPwr f).pwr = f s.pwr := rfl

/-! ### modTrace -/

@[simp] theorem State.modTrace_ident {f : Trace → Trace} : (s.modTrace f).ident = s.ident := rfl
@[simp] theorem State.modTrace_fuses {f : Trace → Trace} : (s.modTrace f).fuses = s.fuses := rfl
@[simp] theorem State.modTrace_flash {f : Trace → Trace} : (s.modTrace f).flash = s.flash := rfl
@[simp] theorem State.modTrace_dev {f : Trace → Trace} : (s.modTrace f).dev = s.dev := rfl
@[simp] theorem State.modTrace_host {f : Trace → Trace} : (s.modTrace f).host = s.host := rfl
@[simp] theorem State.modTrace_out {f : Trace → Trace} : (s.modTrace f).out = s.out := rfl
@[simp] theorem State.modTrace_folds {f : Trace → Trace} : (s.modTrace f).folds = s.folds := rfl
@[simp] theorem State.modTrace_pairs {f : Trace → Trace} : (s.modTrace f).pairs = s.pairs := rfl
@[simp] theorem State.modTrace_hbm {f : Trace → Trace} : (s.modTrace f).hbm = s.hbm := rfl
@[simp] theorem State.modTrace_pastures {f : Trace → Trace} : (s.modTrace f).pastures = s.pastures := rfl
@[simp] theorem State.modTrace_mregions {f : Trace → Trace} : (s.modTrace f).mregions = s.mregions := rfl
@[simp] theorem State.modTrace_mstatus {f : Trace → Trace} : (s.modTrace f).mstatus = s.mstatus := rfl
@[simp] theorem State.modTrace_flow {f : Trace → Trace} : (s.modTrace f).flow = s.flow := rfl
@[simp] theorem State.modTrace_acq {f : Trace → Trace} : (s.modTrace f).acq = s.acq := rfl
@[simp] theorem State.modTrace_snaps {f : Trace → Trace} : (s.modTrace f).snaps = s.snaps := rfl
@[simp] theorem State.modTrace_noc {f : Trace → Trace} : (s.modTrace f).noc = s.noc := rfl
@[simp] theorem State.modTrace_lanes {f : Trace → Trace} : (s.modTrace f).lanes = s.lanes := rfl
@[simp] theorem State.modTrace_ports {f : Trace → Trace} : (s.modTrace f).ports = s.ports := rfl
@[simp] theorem State.modTrace_time {f : Trace → Trace} : (s.modTrace f).time = s.time := rfl
@[simp] theorem State.modTrace_eth {f : Trace → Trace} : (s.modTrace f).eth = s.eth := rfl
@[simp] theorem State.modTrace_edge {f : Trace → Trace} : (s.modTrace f).edge = s.edge := rfl
@[simp] theorem State.modTrace_pwr {f : Trace → Trace} : (s.modTrace f).pwr = s.pwr := rfl
@[simp] theorem State.modTrace_freeCount {f : Trace → Trace} : (s.modTrace f).freeCount = s.freeCount := rfl
@[simp] theorem State.modTrace_pending {f : Trace → Trace} : (s.modTrace f).pending = s.pending := rfl
@[simp] theorem State.modTrace_trace {f : Trace → Trace} : (s.modTrace f).trace = f s.trace := rfl

/-! ### modFlow -/

@[simp] theorem State.modFlow_ident {f : FlowSide → FlowSide} : (s.modFlow f).ident = s.ident := rfl
@[simp] theorem State.modFlow_fuses {f : FlowSide → FlowSide} : (s.modFlow f).fuses = s.fuses := rfl
@[simp] theorem State.modFlow_flash {f : FlowSide → FlowSide} : (s.modFlow f).flash = s.flash := rfl
@[simp] theorem State.modFlow_dev {f : FlowSide → FlowSide} : (s.modFlow f).dev = s.dev := rfl
@[simp] theorem State.modFlow_host {f : FlowSide → FlowSide} : (s.modFlow f).host = s.host := rfl
@[simp] theorem State.modFlow_out {f : FlowSide → FlowSide} : (s.modFlow f).out = s.out := rfl
@[simp] theorem State.modFlow_folds {f : FlowSide → FlowSide} : (s.modFlow f).folds = s.folds := rfl
@[simp] theorem State.modFlow_pairs {f : FlowSide → FlowSide} : (s.modFlow f).pairs = s.pairs := rfl
@[simp] theorem State.modFlow_hbm {f : FlowSide → FlowSide} : (s.modFlow f).hbm = s.hbm := rfl
@[simp] theorem State.modFlow_pastures {f : FlowSide → FlowSide} : (s.modFlow f).pastures = s.pastures := rfl
@[simp] theorem State.modFlow_mregions {f : FlowSide → FlowSide} : (s.modFlow f).mregions = s.mregions := rfl
@[simp] theorem State.modFlow_mstatus {f : FlowSide → FlowSide} : (s.modFlow f).mstatus = s.mstatus := rfl
@[simp] theorem State.modFlow_acq {f : FlowSide → FlowSide} : (s.modFlow f).acq = s.acq := rfl
@[simp] theorem State.modFlow_snaps {f : FlowSide → FlowSide} : (s.modFlow f).snaps = s.snaps := rfl
@[simp] theorem State.modFlow_noc {f : FlowSide → FlowSide} : (s.modFlow f).noc = s.noc := rfl
@[simp] theorem State.modFlow_lanes {f : FlowSide → FlowSide} : (s.modFlow f).lanes = s.lanes := rfl
@[simp] theorem State.modFlow_ports {f : FlowSide → FlowSide} : (s.modFlow f).ports = s.ports := rfl
@[simp] theorem State.modFlow_time {f : FlowSide → FlowSide} : (s.modFlow f).time = s.time := rfl
@[simp] theorem State.modFlow_eth {f : FlowSide → FlowSide} : (s.modFlow f).eth = s.eth := rfl
@[simp] theorem State.modFlow_edge {f : FlowSide → FlowSide} : (s.modFlow f).edge = s.edge := rfl
@[simp] theorem State.modFlow_pwr {f : FlowSide → FlowSide} : (s.modFlow f).pwr = s.pwr := rfl
@[simp] theorem State.modFlow_trace {f : FlowSide → FlowSide} : (s.modFlow f).trace = s.trace := rfl
@[simp] theorem State.modFlow_freeCount {f : FlowSide → FlowSide} : (s.modFlow f).freeCount = s.freeCount := rfl
@[simp] theorem State.modFlow_pending {f : FlowSide → FlowSide} : (s.modFlow f).pending = s.pending := rfl
@[simp] theorem State.modFlow_flow {f : FlowSide → FlowSide} : (s.modFlow f).flow = f s.flow := rfl

/-! ### modRing -/

@[simp] theorem State.modRing_ident {n : Nat} {f : CmdRing → CmdRing} : (s.modRing n f).ident = s.ident := rfl
@[simp] theorem State.modRing_fuses {n : Nat} {f : CmdRing → CmdRing} : (s.modRing n f).fuses = s.fuses := rfl
@[simp] theorem State.modRing_flash {n : Nat} {f : CmdRing → CmdRing} : (s.modRing n f).flash = s.flash := rfl
@[simp] theorem State.modRing_dev {n : Nat} {f : CmdRing → CmdRing} : (s.modRing n f).dev = s.dev := rfl
@[simp] theorem State.modRing_out {n : Nat} {f : CmdRing → CmdRing} : (s.modRing n f).out = s.out := rfl
@[simp] theorem State.modRing_folds {n : Nat} {f : CmdRing → CmdRing} : (s.modRing n f).folds = s.folds := rfl
@[simp] theorem State.modRing_pairs {n : Nat} {f : CmdRing → CmdRing} : (s.modRing n f).pairs = s.pairs := rfl
@[simp] theorem State.modRing_hbm {n : Nat} {f : CmdRing → CmdRing} : (s.modRing n f).hbm = s.hbm := rfl
@[simp] theorem State.modRing_pastures {n : Nat} {f : CmdRing → CmdRing} : (s.modRing n f).pastures = s.pastures := rfl
@[simp] theorem State.modRing_mregions {n : Nat} {f : CmdRing → CmdRing} : (s.modRing n f).mregions = s.mregions := rfl
@[simp] theorem State.modRing_mstatus {n : Nat} {f : CmdRing → CmdRing} : (s.modRing n f).mstatus = s.mstatus := rfl
@[simp] theorem State.modRing_flow {n : Nat} {f : CmdRing → CmdRing} : (s.modRing n f).flow = s.flow := rfl
@[simp] theorem State.modRing_acq {n : Nat} {f : CmdRing → CmdRing} : (s.modRing n f).acq = s.acq := rfl
@[simp] theorem State.modRing_snaps {n : Nat} {f : CmdRing → CmdRing} : (s.modRing n f).snaps = s.snaps := rfl
@[simp] theorem State.modRing_noc {n : Nat} {f : CmdRing → CmdRing} : (s.modRing n f).noc = s.noc := rfl
@[simp] theorem State.modRing_lanes {n : Nat} {f : CmdRing → CmdRing} : (s.modRing n f).lanes = s.lanes := rfl
@[simp] theorem State.modRing_ports {n : Nat} {f : CmdRing → CmdRing} : (s.modRing n f).ports = s.ports := rfl
@[simp] theorem State.modRing_time {n : Nat} {f : CmdRing → CmdRing} : (s.modRing n f).time = s.time := rfl
@[simp] theorem State.modRing_eth {n : Nat} {f : CmdRing → CmdRing} : (s.modRing n f).eth = s.eth := rfl
@[simp] theorem State.modRing_edge {n : Nat} {f : CmdRing → CmdRing} : (s.modRing n f).edge = s.edge := rfl
@[simp] theorem State.modRing_pwr {n : Nat} {f : CmdRing → CmdRing} : (s.modRing n f).pwr = s.pwr := rfl
@[simp] theorem State.modRing_trace {n : Nat} {f : CmdRing → CmdRing} : (s.modRing n f).trace = s.trace := rfl
@[simp] theorem State.modRing_freeCount {n : Nat} {f : CmdRing → CmdRing} : (s.modRing n f).freeCount = s.freeCount := rfl
@[simp] theorem State.modRing_pending {n : Nat} {f : CmdRing → CmdRing} : (s.modRing n f).pending = s.pending := rfl

/-! ### modFold -/

@[simp] theorem State.modFold_ident {n : Nat} {f : Fold → Fold} : (s.modFold n f).ident = s.ident := rfl
@[simp] theorem State.modFold_fuses {n : Nat} {f : Fold → Fold} : (s.modFold n f).fuses = s.fuses := rfl
@[simp] theorem State.modFold_flash {n : Nat} {f : Fold → Fold} : (s.modFold n f).flash = s.flash := rfl
@[simp] theorem State.modFold_dev {n : Nat} {f : Fold → Fold} : (s.modFold n f).dev = s.dev := rfl
@[simp] theorem State.modFold_host {n : Nat} {f : Fold → Fold} : (s.modFold n f).host = s.host := rfl
@[simp] theorem State.modFold_out {n : Nat} {f : Fold → Fold} : (s.modFold n f).out = s.out := rfl
@[simp] theorem State.modFold_pairs {n : Nat} {f : Fold → Fold} : (s.modFold n f).pairs = s.pairs := rfl
@[simp] theorem State.modFold_hbm {n : Nat} {f : Fold → Fold} : (s.modFold n f).hbm = s.hbm := rfl
@[simp] theorem State.modFold_pastures {n : Nat} {f : Fold → Fold} : (s.modFold n f).pastures = s.pastures := rfl
@[simp] theorem State.modFold_mregions {n : Nat} {f : Fold → Fold} : (s.modFold n f).mregions = s.mregions := rfl
@[simp] theorem State.modFold_mstatus {n : Nat} {f : Fold → Fold} : (s.modFold n f).mstatus = s.mstatus := rfl
@[simp] theorem State.modFold_flow {n : Nat} {f : Fold → Fold} : (s.modFold n f).flow = s.flow := rfl
@[simp] theorem State.modFold_acq {n : Nat} {f : Fold → Fold} : (s.modFold n f).acq = s.acq := rfl
@[simp] theorem State.modFold_snaps {n : Nat} {f : Fold → Fold} : (s.modFold n f).snaps = s.snaps := rfl
@[simp] theorem State.modFold_noc {n : Nat} {f : Fold → Fold} : (s.modFold n f).noc = s.noc := rfl
@[simp] theorem State.modFold_lanes {n : Nat} {f : Fold → Fold} : (s.modFold n f).lanes = s.lanes := rfl
@[simp] theorem State.modFold_ports {n : Nat} {f : Fold → Fold} : (s.modFold n f).ports = s.ports := rfl
@[simp] theorem State.modFold_time {n : Nat} {f : Fold → Fold} : (s.modFold n f).time = s.time := rfl
@[simp] theorem State.modFold_eth {n : Nat} {f : Fold → Fold} : (s.modFold n f).eth = s.eth := rfl
@[simp] theorem State.modFold_edge {n : Nat} {f : Fold → Fold} : (s.modFold n f).edge = s.edge := rfl
@[simp] theorem State.modFold_pwr {n : Nat} {f : Fold → Fold} : (s.modFold n f).pwr = s.pwr := rfl
@[simp] theorem State.modFold_trace {n : Nat} {f : Fold → Fold} : (s.modFold n f).trace = s.trace := rfl
@[simp] theorem State.modFold_freeCount {n : Nat} {f : Fold → Fold} : (s.modFold n f).freeCount = s.freeCount := rfl
@[simp] theorem State.modFold_pending {n : Nat} {f : Fold → Fold} : (s.modFold n f).pending = s.pending := rfl

/-! ### modSeq -/

@[simp] theorem State.modSeq_ident {n : Nat} {f : FoldSeq → FoldSeq} : (s.modSeq n f).ident = s.ident := rfl
@[simp] theorem State.modSeq_fuses {n : Nat} {f : FoldSeq → FoldSeq} : (s.modSeq n f).fuses = s.fuses := rfl
@[simp] theorem State.modSeq_flash {n : Nat} {f : FoldSeq → FoldSeq} : (s.modSeq n f).flash = s.flash := rfl
@[simp] theorem State.modSeq_dev {n : Nat} {f : FoldSeq → FoldSeq} : (s.modSeq n f).dev = s.dev := rfl
@[simp] theorem State.modSeq_host {n : Nat} {f : FoldSeq → FoldSeq} : (s.modSeq n f).host = s.host := rfl
@[simp] theorem State.modSeq_out {n : Nat} {f : FoldSeq → FoldSeq} : (s.modSeq n f).out = s.out := rfl
@[simp] theorem State.modSeq_pairs {n : Nat} {f : FoldSeq → FoldSeq} : (s.modSeq n f).pairs = s.pairs := rfl
@[simp] theorem State.modSeq_hbm {n : Nat} {f : FoldSeq → FoldSeq} : (s.modSeq n f).hbm = s.hbm := rfl
@[simp] theorem State.modSeq_pastures {n : Nat} {f : FoldSeq → FoldSeq} : (s.modSeq n f).pastures = s.pastures := rfl
@[simp] theorem State.modSeq_mregions {n : Nat} {f : FoldSeq → FoldSeq} : (s.modSeq n f).mregions = s.mregions := rfl
@[simp] theorem State.modSeq_mstatus {n : Nat} {f : FoldSeq → FoldSeq} : (s.modSeq n f).mstatus = s.mstatus := rfl
@[simp] theorem State.modSeq_flow {n : Nat} {f : FoldSeq → FoldSeq} : (s.modSeq n f).flow = s.flow := rfl
@[simp] theorem State.modSeq_acq {n : Nat} {f : FoldSeq → FoldSeq} : (s.modSeq n f).acq = s.acq := rfl
@[simp] theorem State.modSeq_snaps {n : Nat} {f : FoldSeq → FoldSeq} : (s.modSeq n f).snaps = s.snaps := rfl
@[simp] theorem State.modSeq_noc {n : Nat} {f : FoldSeq → FoldSeq} : (s.modSeq n f).noc = s.noc := rfl
@[simp] theorem State.modSeq_lanes {n : Nat} {f : FoldSeq → FoldSeq} : (s.modSeq n f).lanes = s.lanes := rfl
@[simp] theorem State.modSeq_ports {n : Nat} {f : FoldSeq → FoldSeq} : (s.modSeq n f).ports = s.ports := rfl
@[simp] theorem State.modSeq_time {n : Nat} {f : FoldSeq → FoldSeq} : (s.modSeq n f).time = s.time := rfl
@[simp] theorem State.modSeq_eth {n : Nat} {f : FoldSeq → FoldSeq} : (s.modSeq n f).eth = s.eth := rfl
@[simp] theorem State.modSeq_edge {n : Nat} {f : FoldSeq → FoldSeq} : (s.modSeq n f).edge = s.edge := rfl
@[simp] theorem State.modSeq_pwr {n : Nat} {f : FoldSeq → FoldSeq} : (s.modSeq n f).pwr = s.pwr := rfl
@[simp] theorem State.modSeq_trace {n : Nat} {f : FoldSeq → FoldSeq} : (s.modSeq n f).trace = s.trace := rfl
@[simp] theorem State.modSeq_freeCount {n : Nat} {f : FoldSeq → FoldSeq} : (s.modSeq n f).freeCount = s.freeCount := rfl
@[simp] theorem State.modSeq_pending {n : Nat} {f : FoldSeq → FoldSeq} : (s.modSeq n f).pending = s.pending := rfl

/-! ### modPair -/

@[simp] theorem State.modPair_ident {n : Nat} {f : Pair → Pair} : (s.modPair n f).ident = s.ident := rfl
@[simp] theorem State.modPair_fuses {n : Nat} {f : Pair → Pair} : (s.modPair n f).fuses = s.fuses := rfl
@[simp] theorem State.modPair_flash {n : Nat} {f : Pair → Pair} : (s.modPair n f).flash = s.flash := rfl
@[simp] theorem State.modPair_dev {n : Nat} {f : Pair → Pair} : (s.modPair n f).dev = s.dev := rfl
@[simp] theorem State.modPair_host {n : Nat} {f : Pair → Pair} : (s.modPair n f).host = s.host := rfl
@[simp] theorem State.modPair_out {n : Nat} {f : Pair → Pair} : (s.modPair n f).out = s.out := rfl
@[simp] theorem State.modPair_folds {n : Nat} {f : Pair → Pair} : (s.modPair n f).folds = s.folds := rfl
@[simp] theorem State.modPair_hbm {n : Nat} {f : Pair → Pair} : (s.modPair n f).hbm = s.hbm := rfl
@[simp] theorem State.modPair_pastures {n : Nat} {f : Pair → Pair} : (s.modPair n f).pastures = s.pastures := rfl
@[simp] theorem State.modPair_mregions {n : Nat} {f : Pair → Pair} : (s.modPair n f).mregions = s.mregions := rfl
@[simp] theorem State.modPair_mstatus {n : Nat} {f : Pair → Pair} : (s.modPair n f).mstatus = s.mstatus := rfl
@[simp] theorem State.modPair_flow {n : Nat} {f : Pair → Pair} : (s.modPair n f).flow = s.flow := rfl
@[simp] theorem State.modPair_acq {n : Nat} {f : Pair → Pair} : (s.modPair n f).acq = s.acq := rfl
@[simp] theorem State.modPair_snaps {n : Nat} {f : Pair → Pair} : (s.modPair n f).snaps = s.snaps := rfl
@[simp] theorem State.modPair_noc {n : Nat} {f : Pair → Pair} : (s.modPair n f).noc = s.noc := rfl
@[simp] theorem State.modPair_lanes {n : Nat} {f : Pair → Pair} : (s.modPair n f).lanes = s.lanes := rfl
@[simp] theorem State.modPair_ports {n : Nat} {f : Pair → Pair} : (s.modPair n f).ports = s.ports := rfl
@[simp] theorem State.modPair_time {n : Nat} {f : Pair → Pair} : (s.modPair n f).time = s.time := rfl
@[simp] theorem State.modPair_eth {n : Nat} {f : Pair → Pair} : (s.modPair n f).eth = s.eth := rfl
@[simp] theorem State.modPair_edge {n : Nat} {f : Pair → Pair} : (s.modPair n f).edge = s.edge := rfl
@[simp] theorem State.modPair_pwr {n : Nat} {f : Pair → Pair} : (s.modPair n f).pwr = s.pwr := rfl
@[simp] theorem State.modPair_trace {n : Nat} {f : Pair → Pair} : (s.modPair n f).trace = s.trace := rfl
@[simp] theorem State.modPair_freeCount {n : Nat} {f : Pair → Pair} : (s.modPair n f).freeCount = s.freeCount := rfl
@[simp] theorem State.modPair_pending {n : Nat} {f : Pair → Pair} : (s.modPair n f).pending = s.pending := rfl

/-! ### modPas -/

@[simp] theorem State.modPas_ident {p : Nat} {f : Pasture → Pasture} : (s.modPas p f).ident = s.ident := rfl
@[simp] theorem State.modPas_fuses {p : Nat} {f : Pasture → Pasture} : (s.modPas p f).fuses = s.fuses := rfl
@[simp] theorem State.modPas_flash {p : Nat} {f : Pasture → Pasture} : (s.modPas p f).flash = s.flash := rfl
@[simp] theorem State.modPas_dev {p : Nat} {f : Pasture → Pasture} : (s.modPas p f).dev = s.dev := rfl
@[simp] theorem State.modPas_host {p : Nat} {f : Pasture → Pasture} : (s.modPas p f).host = s.host := rfl
@[simp] theorem State.modPas_out {p : Nat} {f : Pasture → Pasture} : (s.modPas p f).out = s.out := rfl
@[simp] theorem State.modPas_folds {p : Nat} {f : Pasture → Pasture} : (s.modPas p f).folds = s.folds := rfl
@[simp] theorem State.modPas_pairs {p : Nat} {f : Pasture → Pasture} : (s.modPas p f).pairs = s.pairs := rfl
@[simp] theorem State.modPas_hbm {p : Nat} {f : Pasture → Pasture} : (s.modPas p f).hbm = s.hbm := rfl
@[simp] theorem State.modPas_mregions {p : Nat} {f : Pasture → Pasture} : (s.modPas p f).mregions = s.mregions := rfl
@[simp] theorem State.modPas_mstatus {p : Nat} {f : Pasture → Pasture} : (s.modPas p f).mstatus = s.mstatus := rfl
@[simp] theorem State.modPas_flow {p : Nat} {f : Pasture → Pasture} : (s.modPas p f).flow = s.flow := rfl
@[simp] theorem State.modPas_acq {p : Nat} {f : Pasture → Pasture} : (s.modPas p f).acq = s.acq := rfl
@[simp] theorem State.modPas_snaps {p : Nat} {f : Pasture → Pasture} : (s.modPas p f).snaps = s.snaps := rfl
@[simp] theorem State.modPas_noc {p : Nat} {f : Pasture → Pasture} : (s.modPas p f).noc = s.noc := rfl
@[simp] theorem State.modPas_lanes {p : Nat} {f : Pasture → Pasture} : (s.modPas p f).lanes = s.lanes := rfl
@[simp] theorem State.modPas_ports {p : Nat} {f : Pasture → Pasture} : (s.modPas p f).ports = s.ports := rfl
@[simp] theorem State.modPas_time {p : Nat} {f : Pasture → Pasture} : (s.modPas p f).time = s.time := rfl
@[simp] theorem State.modPas_eth {p : Nat} {f : Pasture → Pasture} : (s.modPas p f).eth = s.eth := rfl
@[simp] theorem State.modPas_edge {p : Nat} {f : Pasture → Pasture} : (s.modPas p f).edge = s.edge := rfl
@[simp] theorem State.modPas_pwr {p : Nat} {f : Pasture → Pasture} : (s.modPas p f).pwr = s.pwr := rfl
@[simp] theorem State.modPas_trace {p : Nat} {f : Pasture → Pasture} : (s.modPas p f).trace = s.trace := rfl
@[simp] theorem State.modPas_freeCount {p : Nat} {f : Pasture → Pasture} : (s.modPas p f).freeCount = s.freeCount := rfl
@[simp] theorem State.modPas_pending {p : Nat} {f : Pasture → Pasture} : (s.modPas p f).pending = s.pending := rfl

/-! ### modStat -/

@[simp] theorem State.modStat_ident {p : Nat} {f : PStat → PStat} : (s.modStat p f).ident = s.ident := rfl
@[simp] theorem State.modStat_fuses {p : Nat} {f : PStat → PStat} : (s.modStat p f).fuses = s.fuses := rfl
@[simp] theorem State.modStat_flash {p : Nat} {f : PStat → PStat} : (s.modStat p f).flash = s.flash := rfl
@[simp] theorem State.modStat_dev {p : Nat} {f : PStat → PStat} : (s.modStat p f).dev = s.dev := rfl
@[simp] theorem State.modStat_host {p : Nat} {f : PStat → PStat} : (s.modStat p f).host = s.host := rfl
@[simp] theorem State.modStat_out {p : Nat} {f : PStat → PStat} : (s.modStat p f).out = s.out := rfl
@[simp] theorem State.modStat_folds {p : Nat} {f : PStat → PStat} : (s.modStat p f).folds = s.folds := rfl
@[simp] theorem State.modStat_pairs {p : Nat} {f : PStat → PStat} : (s.modStat p f).pairs = s.pairs := rfl
@[simp] theorem State.modStat_hbm {p : Nat} {f : PStat → PStat} : (s.modStat p f).hbm = s.hbm := rfl
@[simp] theorem State.modStat_mregions {p : Nat} {f : PStat → PStat} : (s.modStat p f).mregions = s.mregions := rfl
@[simp] theorem State.modStat_mstatus {p : Nat} {f : PStat → PStat} : (s.modStat p f).mstatus = s.mstatus := rfl
@[simp] theorem State.modStat_flow {p : Nat} {f : PStat → PStat} : (s.modStat p f).flow = s.flow := rfl
@[simp] theorem State.modStat_acq {p : Nat} {f : PStat → PStat} : (s.modStat p f).acq = s.acq := rfl
@[simp] theorem State.modStat_snaps {p : Nat} {f : PStat → PStat} : (s.modStat p f).snaps = s.snaps := rfl
@[simp] theorem State.modStat_noc {p : Nat} {f : PStat → PStat} : (s.modStat p f).noc = s.noc := rfl
@[simp] theorem State.modStat_lanes {p : Nat} {f : PStat → PStat} : (s.modStat p f).lanes = s.lanes := rfl
@[simp] theorem State.modStat_ports {p : Nat} {f : PStat → PStat} : (s.modStat p f).ports = s.ports := rfl
@[simp] theorem State.modStat_time {p : Nat} {f : PStat → PStat} : (s.modStat p f).time = s.time := rfl
@[simp] theorem State.modStat_eth {p : Nat} {f : PStat → PStat} : (s.modStat p f).eth = s.eth := rfl
@[simp] theorem State.modStat_edge {p : Nat} {f : PStat → PStat} : (s.modStat p f).edge = s.edge := rfl
@[simp] theorem State.modStat_pwr {p : Nat} {f : PStat → PStat} : (s.modStat p f).pwr = s.pwr := rfl
@[simp] theorem State.modStat_trace {p : Nat} {f : PStat → PStat} : (s.modStat p f).trace = s.trace := rfl
@[simp] theorem State.modStat_freeCount {p : Nat} {f : PStat → PStat} : (s.modStat p f).freeCount = s.freeCount := rfl
@[simp] theorem State.modStat_pending {p : Nat} {f : PStat → PStat} : (s.modStat p f).pending = s.pending := rfl

/-! ### modRun -/

@[simp] theorem State.modRun_ident {p : Nat} {f : PRun → PRun} : (s.modRun p f).ident = s.ident := rfl
@[simp] theorem State.modRun_fuses {p : Nat} {f : PRun → PRun} : (s.modRun p f).fuses = s.fuses := rfl
@[simp] theorem State.modRun_flash {p : Nat} {f : PRun → PRun} : (s.modRun p f).flash = s.flash := rfl
@[simp] theorem State.modRun_dev {p : Nat} {f : PRun → PRun} : (s.modRun p f).dev = s.dev := rfl
@[simp] theorem State.modRun_host {p : Nat} {f : PRun → PRun} : (s.modRun p f).host = s.host := rfl
@[simp] theorem State.modRun_out {p : Nat} {f : PRun → PRun} : (s.modRun p f).out = s.out := rfl
@[simp] theorem State.modRun_folds {p : Nat} {f : PRun → PRun} : (s.modRun p f).folds = s.folds := rfl
@[simp] theorem State.modRun_pairs {p : Nat} {f : PRun → PRun} : (s.modRun p f).pairs = s.pairs := rfl
@[simp] theorem State.modRun_hbm {p : Nat} {f : PRun → PRun} : (s.modRun p f).hbm = s.hbm := rfl
@[simp] theorem State.modRun_mregions {p : Nat} {f : PRun → PRun} : (s.modRun p f).mregions = s.mregions := rfl
@[simp] theorem State.modRun_mstatus {p : Nat} {f : PRun → PRun} : (s.modRun p f).mstatus = s.mstatus := rfl
@[simp] theorem State.modRun_flow {p : Nat} {f : PRun → PRun} : (s.modRun p f).flow = s.flow := rfl
@[simp] theorem State.modRun_acq {p : Nat} {f : PRun → PRun} : (s.modRun p f).acq = s.acq := rfl
@[simp] theorem State.modRun_snaps {p : Nat} {f : PRun → PRun} : (s.modRun p f).snaps = s.snaps := rfl
@[simp] theorem State.modRun_noc {p : Nat} {f : PRun → PRun} : (s.modRun p f).noc = s.noc := rfl
@[simp] theorem State.modRun_lanes {p : Nat} {f : PRun → PRun} : (s.modRun p f).lanes = s.lanes := rfl
@[simp] theorem State.modRun_ports {p : Nat} {f : PRun → PRun} : (s.modRun p f).ports = s.ports := rfl
@[simp] theorem State.modRun_time {p : Nat} {f : PRun → PRun} : (s.modRun p f).time = s.time := rfl
@[simp] theorem State.modRun_eth {p : Nat} {f : PRun → PRun} : (s.modRun p f).eth = s.eth := rfl
@[simp] theorem State.modRun_edge {p : Nat} {f : PRun → PRun} : (s.modRun p f).edge = s.edge := rfl
@[simp] theorem State.modRun_pwr {p : Nat} {f : PRun → PRun} : (s.modRun p f).pwr = s.pwr := rfl
@[simp] theorem State.modRun_trace {p : Nat} {f : PRun → PRun} : (s.modRun p f).trace = s.trace := rfl
@[simp] theorem State.modRun_freeCount {p : Nat} {f : PRun → PRun} : (s.modRun p f).freeCount = s.freeCount := rfl
@[simp] theorem State.modRun_pending {p : Nat} {f : PRun → PRun} : (s.modRun p f).pending = s.pending := rfl

/-! ### modExt -/

@[simp] theorem State.modExt_ident {p : Nat} {f : PExt → PExt} : (s.modExt p f).ident = s.ident := rfl
@[simp] theorem State.modExt_fuses {p : Nat} {f : PExt → PExt} : (s.modExt p f).fuses = s.fuses := rfl
@[simp] theorem State.modExt_flash {p : Nat} {f : PExt → PExt} : (s.modExt p f).flash = s.flash := rfl
@[simp] theorem State.modExt_dev {p : Nat} {f : PExt → PExt} : (s.modExt p f).dev = s.dev := rfl
@[simp] theorem State.modExt_host {p : Nat} {f : PExt → PExt} : (s.modExt p f).host = s.host := rfl
@[simp] theorem State.modExt_out {p : Nat} {f : PExt → PExt} : (s.modExt p f).out = s.out := rfl
@[simp] theorem State.modExt_folds {p : Nat} {f : PExt → PExt} : (s.modExt p f).folds = s.folds := rfl
@[simp] theorem State.modExt_pairs {p : Nat} {f : PExt → PExt} : (s.modExt p f).pairs = s.pairs := rfl
@[simp] theorem State.modExt_hbm {p : Nat} {f : PExt → PExt} : (s.modExt p f).hbm = s.hbm := rfl
@[simp] theorem State.modExt_mregions {p : Nat} {f : PExt → PExt} : (s.modExt p f).mregions = s.mregions := rfl
@[simp] theorem State.modExt_mstatus {p : Nat} {f : PExt → PExt} : (s.modExt p f).mstatus = s.mstatus := rfl
@[simp] theorem State.modExt_flow {p : Nat} {f : PExt → PExt} : (s.modExt p f).flow = s.flow := rfl
@[simp] theorem State.modExt_acq {p : Nat} {f : PExt → PExt} : (s.modExt p f).acq = s.acq := rfl
@[simp] theorem State.modExt_snaps {p : Nat} {f : PExt → PExt} : (s.modExt p f).snaps = s.snaps := rfl
@[simp] theorem State.modExt_noc {p : Nat} {f : PExt → PExt} : (s.modExt p f).noc = s.noc := rfl
@[simp] theorem State.modExt_lanes {p : Nat} {f : PExt → PExt} : (s.modExt p f).lanes = s.lanes := rfl
@[simp] theorem State.modExt_ports {p : Nat} {f : PExt → PExt} : (s.modExt p f).ports = s.ports := rfl
@[simp] theorem State.modExt_time {p : Nat} {f : PExt → PExt} : (s.modExt p f).time = s.time := rfl
@[simp] theorem State.modExt_eth {p : Nat} {f : PExt → PExt} : (s.modExt p f).eth = s.eth := rfl
@[simp] theorem State.modExt_edge {p : Nat} {f : PExt → PExt} : (s.modExt p f).edge = s.edge := rfl
@[simp] theorem State.modExt_pwr {p : Nat} {f : PExt → PExt} : (s.modExt p f).pwr = s.pwr := rfl
@[simp] theorem State.modExt_trace {p : Nat} {f : PExt → PExt} : (s.modExt p f).trace = s.trace := rfl
@[simp] theorem State.modExt_freeCount {p : Nat} {f : PExt → PExt} : (s.modExt p f).freeCount = s.freeCount := rfl
@[simp] theorem State.modExt_pending {p : Nat} {f : PExt → PExt} : (s.modExt p f).pending = s.pending := rfl

/-! ### modCk -/

@[simp] theorem State.modCk_ident {p : Nat} {f : PRing → PRing} : (s.modCk p f).ident = s.ident := rfl
@[simp] theorem State.modCk_fuses {p : Nat} {f : PRing → PRing} : (s.modCk p f).fuses = s.fuses := rfl
@[simp] theorem State.modCk_flash {p : Nat} {f : PRing → PRing} : (s.modCk p f).flash = s.flash := rfl
@[simp] theorem State.modCk_dev {p : Nat} {f : PRing → PRing} : (s.modCk p f).dev = s.dev := rfl
@[simp] theorem State.modCk_host {p : Nat} {f : PRing → PRing} : (s.modCk p f).host = s.host := rfl
@[simp] theorem State.modCk_out {p : Nat} {f : PRing → PRing} : (s.modCk p f).out = s.out := rfl
@[simp] theorem State.modCk_folds {p : Nat} {f : PRing → PRing} : (s.modCk p f).folds = s.folds := rfl
@[simp] theorem State.modCk_pairs {p : Nat} {f : PRing → PRing} : (s.modCk p f).pairs = s.pairs := rfl
@[simp] theorem State.modCk_hbm {p : Nat} {f : PRing → PRing} : (s.modCk p f).hbm = s.hbm := rfl
@[simp] theorem State.modCk_mregions {p : Nat} {f : PRing → PRing} : (s.modCk p f).mregions = s.mregions := rfl
@[simp] theorem State.modCk_mstatus {p : Nat} {f : PRing → PRing} : (s.modCk p f).mstatus = s.mstatus := rfl
@[simp] theorem State.modCk_flow {p : Nat} {f : PRing → PRing} : (s.modCk p f).flow = s.flow := rfl
@[simp] theorem State.modCk_acq {p : Nat} {f : PRing → PRing} : (s.modCk p f).acq = s.acq := rfl
@[simp] theorem State.modCk_snaps {p : Nat} {f : PRing → PRing} : (s.modCk p f).snaps = s.snaps := rfl
@[simp] theorem State.modCk_noc {p : Nat} {f : PRing → PRing} : (s.modCk p f).noc = s.noc := rfl
@[simp] theorem State.modCk_lanes {p : Nat} {f : PRing → PRing} : (s.modCk p f).lanes = s.lanes := rfl
@[simp] theorem State.modCk_ports {p : Nat} {f : PRing → PRing} : (s.modCk p f).ports = s.ports := rfl
@[simp] theorem State.modCk_time {p : Nat} {f : PRing → PRing} : (s.modCk p f).time = s.time := rfl
@[simp] theorem State.modCk_eth {p : Nat} {f : PRing → PRing} : (s.modCk p f).eth = s.eth := rfl
@[simp] theorem State.modCk_edge {p : Nat} {f : PRing → PRing} : (s.modCk p f).edge = s.edge := rfl
@[simp] theorem State.modCk_pwr {p : Nat} {f : PRing → PRing} : (s.modCk p f).pwr = s.pwr := rfl
@[simp] theorem State.modCk_trace {p : Nat} {f : PRing → PRing} : (s.modCk p f).trace = s.trace := rfl
@[simp] theorem State.modCk_freeCount {p : Nat} {f : PRing → PRing} : (s.modCk p f).freeCount = s.freeCount := rfl
@[simp] theorem State.modCk_pending {p : Nat} {f : PRing → PRing} : (s.modCk p f).pending = s.pending := rfl

/-! ### modPFlow -/

@[simp] theorem State.modPFlow_ident {p : Nat} {f : PFlow → PFlow} : (s.modPFlow p f).ident = s.ident := rfl
@[simp] theorem State.modPFlow_fuses {p : Nat} {f : PFlow → PFlow} : (s.modPFlow p f).fuses = s.fuses := rfl
@[simp] theorem State.modPFlow_flash {p : Nat} {f : PFlow → PFlow} : (s.modPFlow p f).flash = s.flash := rfl
@[simp] theorem State.modPFlow_dev {p : Nat} {f : PFlow → PFlow} : (s.modPFlow p f).dev = s.dev := rfl
@[simp] theorem State.modPFlow_host {p : Nat} {f : PFlow → PFlow} : (s.modPFlow p f).host = s.host := rfl
@[simp] theorem State.modPFlow_out {p : Nat} {f : PFlow → PFlow} : (s.modPFlow p f).out = s.out := rfl
@[simp] theorem State.modPFlow_folds {p : Nat} {f : PFlow → PFlow} : (s.modPFlow p f).folds = s.folds := rfl
@[simp] theorem State.modPFlow_pairs {p : Nat} {f : PFlow → PFlow} : (s.modPFlow p f).pairs = s.pairs := rfl
@[simp] theorem State.modPFlow_hbm {p : Nat} {f : PFlow → PFlow} : (s.modPFlow p f).hbm = s.hbm := rfl
@[simp] theorem State.modPFlow_mregions {p : Nat} {f : PFlow → PFlow} : (s.modPFlow p f).mregions = s.mregions := rfl
@[simp] theorem State.modPFlow_mstatus {p : Nat} {f : PFlow → PFlow} : (s.modPFlow p f).mstatus = s.mstatus := rfl
@[simp] theorem State.modPFlow_flow {p : Nat} {f : PFlow → PFlow} : (s.modPFlow p f).flow = s.flow := rfl
@[simp] theorem State.modPFlow_acq {p : Nat} {f : PFlow → PFlow} : (s.modPFlow p f).acq = s.acq := rfl
@[simp] theorem State.modPFlow_snaps {p : Nat} {f : PFlow → PFlow} : (s.modPFlow p f).snaps = s.snaps := rfl
@[simp] theorem State.modPFlow_noc {p : Nat} {f : PFlow → PFlow} : (s.modPFlow p f).noc = s.noc := rfl
@[simp] theorem State.modPFlow_lanes {p : Nat} {f : PFlow → PFlow} : (s.modPFlow p f).lanes = s.lanes := rfl
@[simp] theorem State.modPFlow_ports {p : Nat} {f : PFlow → PFlow} : (s.modPFlow p f).ports = s.ports := rfl
@[simp] theorem State.modPFlow_time {p : Nat} {f : PFlow → PFlow} : (s.modPFlow p f).time = s.time := rfl
@[simp] theorem State.modPFlow_eth {p : Nat} {f : PFlow → PFlow} : (s.modPFlow p f).eth = s.eth := rfl
@[simp] theorem State.modPFlow_edge {p : Nat} {f : PFlow → PFlow} : (s.modPFlow p f).edge = s.edge := rfl
@[simp] theorem State.modPFlow_pwr {p : Nat} {f : PFlow → PFlow} : (s.modPFlow p f).pwr = s.pwr := rfl
@[simp] theorem State.modPFlow_trace {p : Nat} {f : PFlow → PFlow} : (s.modPFlow p f).trace = s.trace := rfl
@[simp] theorem State.modPFlow_freeCount {p : Nat} {f : PFlow → PFlow} : (s.modPFlow p f).freeCount = s.freeCount := rfl
@[simp] theorem State.modPFlow_pending {p : Nat} {f : PFlow → PFlow} : (s.modPFlow p f).pending = s.pending := rfl

/-! ### modWdog -/

@[simp] theorem State.modWdog_ident {p : Nat} {f : PWdog → PWdog} : (s.modWdog p f).ident = s.ident := rfl
@[simp] theorem State.modWdog_fuses {p : Nat} {f : PWdog → PWdog} : (s.modWdog p f).fuses = s.fuses := rfl
@[simp] theorem State.modWdog_flash {p : Nat} {f : PWdog → PWdog} : (s.modWdog p f).flash = s.flash := rfl
@[simp] theorem State.modWdog_dev {p : Nat} {f : PWdog → PWdog} : (s.modWdog p f).dev = s.dev := rfl
@[simp] theorem State.modWdog_host {p : Nat} {f : PWdog → PWdog} : (s.modWdog p f).host = s.host := rfl
@[simp] theorem State.modWdog_out {p : Nat} {f : PWdog → PWdog} : (s.modWdog p f).out = s.out := rfl
@[simp] theorem State.modWdog_folds {p : Nat} {f : PWdog → PWdog} : (s.modWdog p f).folds = s.folds := rfl
@[simp] theorem State.modWdog_pairs {p : Nat} {f : PWdog → PWdog} : (s.modWdog p f).pairs = s.pairs := rfl
@[simp] theorem State.modWdog_hbm {p : Nat} {f : PWdog → PWdog} : (s.modWdog p f).hbm = s.hbm := rfl
@[simp] theorem State.modWdog_mregions {p : Nat} {f : PWdog → PWdog} : (s.modWdog p f).mregions = s.mregions := rfl
@[simp] theorem State.modWdog_mstatus {p : Nat} {f : PWdog → PWdog} : (s.modWdog p f).mstatus = s.mstatus := rfl
@[simp] theorem State.modWdog_flow {p : Nat} {f : PWdog → PWdog} : (s.modWdog p f).flow = s.flow := rfl
@[simp] theorem State.modWdog_acq {p : Nat} {f : PWdog → PWdog} : (s.modWdog p f).acq = s.acq := rfl
@[simp] theorem State.modWdog_snaps {p : Nat} {f : PWdog → PWdog} : (s.modWdog p f).snaps = s.snaps := rfl
@[simp] theorem State.modWdog_noc {p : Nat} {f : PWdog → PWdog} : (s.modWdog p f).noc = s.noc := rfl
@[simp] theorem State.modWdog_lanes {p : Nat} {f : PWdog → PWdog} : (s.modWdog p f).lanes = s.lanes := rfl
@[simp] theorem State.modWdog_ports {p : Nat} {f : PWdog → PWdog} : (s.modWdog p f).ports = s.ports := rfl
@[simp] theorem State.modWdog_time {p : Nat} {f : PWdog → PWdog} : (s.modWdog p f).time = s.time := rfl
@[simp] theorem State.modWdog_eth {p : Nat} {f : PWdog → PWdog} : (s.modWdog p f).eth = s.eth := rfl
@[simp] theorem State.modWdog_edge {p : Nat} {f : PWdog → PWdog} : (s.modWdog p f).edge = s.edge := rfl
@[simp] theorem State.modWdog_pwr {p : Nat} {f : PWdog → PWdog} : (s.modWdog p f).pwr = s.pwr := rfl
@[simp] theorem State.modWdog_trace {p : Nat} {f : PWdog → PWdog} : (s.modWdog p f).trace = s.trace := rfl
@[simp] theorem State.modWdog_freeCount {p : Nat} {f : PWdog → PWdog} : (s.modWdog p f).freeCount = s.freeCount := rfl
@[simp] theorem State.modWdog_pending {p : Nat} {f : PWdog → PWdog} : (s.modWdog p f).pending = s.pending := rfl

/-! ### modSpan -/

@[simp] theorem State.modSpan_ident {p : Nat} {f : PSpan → PSpan} : (s.modSpan p f).ident = s.ident := rfl
@[simp] theorem State.modSpan_fuses {p : Nat} {f : PSpan → PSpan} : (s.modSpan p f).fuses = s.fuses := rfl
@[simp] theorem State.modSpan_flash {p : Nat} {f : PSpan → PSpan} : (s.modSpan p f).flash = s.flash := rfl
@[simp] theorem State.modSpan_dev {p : Nat} {f : PSpan → PSpan} : (s.modSpan p f).dev = s.dev := rfl
@[simp] theorem State.modSpan_host {p : Nat} {f : PSpan → PSpan} : (s.modSpan p f).host = s.host := rfl
@[simp] theorem State.modSpan_out {p : Nat} {f : PSpan → PSpan} : (s.modSpan p f).out = s.out := rfl
@[simp] theorem State.modSpan_folds {p : Nat} {f : PSpan → PSpan} : (s.modSpan p f).folds = s.folds := rfl
@[simp] theorem State.modSpan_pairs {p : Nat} {f : PSpan → PSpan} : (s.modSpan p f).pairs = s.pairs := rfl
@[simp] theorem State.modSpan_hbm {p : Nat} {f : PSpan → PSpan} : (s.modSpan p f).hbm = s.hbm := rfl
@[simp] theorem State.modSpan_mregions {p : Nat} {f : PSpan → PSpan} : (s.modSpan p f).mregions = s.mregions := rfl
@[simp] theorem State.modSpan_mstatus {p : Nat} {f : PSpan → PSpan} : (s.modSpan p f).mstatus = s.mstatus := rfl
@[simp] theorem State.modSpan_flow {p : Nat} {f : PSpan → PSpan} : (s.modSpan p f).flow = s.flow := rfl
@[simp] theorem State.modSpan_acq {p : Nat} {f : PSpan → PSpan} : (s.modSpan p f).acq = s.acq := rfl
@[simp] theorem State.modSpan_snaps {p : Nat} {f : PSpan → PSpan} : (s.modSpan p f).snaps = s.snaps := rfl
@[simp] theorem State.modSpan_noc {p : Nat} {f : PSpan → PSpan} : (s.modSpan p f).noc = s.noc := rfl
@[simp] theorem State.modSpan_lanes {p : Nat} {f : PSpan → PSpan} : (s.modSpan p f).lanes = s.lanes := rfl
@[simp] theorem State.modSpan_ports {p : Nat} {f : PSpan → PSpan} : (s.modSpan p f).ports = s.ports := rfl
@[simp] theorem State.modSpan_time {p : Nat} {f : PSpan → PSpan} : (s.modSpan p f).time = s.time := rfl
@[simp] theorem State.modSpan_eth {p : Nat} {f : PSpan → PSpan} : (s.modSpan p f).eth = s.eth := rfl
@[simp] theorem State.modSpan_edge {p : Nat} {f : PSpan → PSpan} : (s.modSpan p f).edge = s.edge := rfl
@[simp] theorem State.modSpan_pwr {p : Nat} {f : PSpan → PSpan} : (s.modSpan p f).pwr = s.pwr := rfl
@[simp] theorem State.modSpan_trace {p : Nat} {f : PSpan → PSpan} : (s.modSpan p f).trace = s.trace := rfl
@[simp] theorem State.modSpan_freeCount {p : Nat} {f : PSpan → PSpan} : (s.modSpan p f).freeCount = s.freeCount := rfl
@[simp] theorem State.modSpan_pending {p : Nat} {f : PSpan → PSpan} : (s.modSpan p f).pending = s.pending := rfl

/-! ### modChan -/

@[simp] theorem State.modChan_ident {p c : Nat} {f : Chan → Chan} : (s.modChan p c f).ident = s.ident := rfl
@[simp] theorem State.modChan_fuses {p c : Nat} {f : Chan → Chan} : (s.modChan p c f).fuses = s.fuses := rfl
@[simp] theorem State.modChan_flash {p c : Nat} {f : Chan → Chan} : (s.modChan p c f).flash = s.flash := rfl
@[simp] theorem State.modChan_dev {p c : Nat} {f : Chan → Chan} : (s.modChan p c f).dev = s.dev := rfl
@[simp] theorem State.modChan_host {p c : Nat} {f : Chan → Chan} : (s.modChan p c f).host = s.host := rfl
@[simp] theorem State.modChan_out {p c : Nat} {f : Chan → Chan} : (s.modChan p c f).out = s.out := rfl
@[simp] theorem State.modChan_folds {p c : Nat} {f : Chan → Chan} : (s.modChan p c f).folds = s.folds := rfl
@[simp] theorem State.modChan_pairs {p c : Nat} {f : Chan → Chan} : (s.modChan p c f).pairs = s.pairs := rfl
@[simp] theorem State.modChan_hbm {p c : Nat} {f : Chan → Chan} : (s.modChan p c f).hbm = s.hbm := rfl
@[simp] theorem State.modChan_mregions {p c : Nat} {f : Chan → Chan} : (s.modChan p c f).mregions = s.mregions := rfl
@[simp] theorem State.modChan_mstatus {p c : Nat} {f : Chan → Chan} : (s.modChan p c f).mstatus = s.mstatus := rfl
@[simp] theorem State.modChan_flow {p c : Nat} {f : Chan → Chan} : (s.modChan p c f).flow = s.flow := rfl
@[simp] theorem State.modChan_acq {p c : Nat} {f : Chan → Chan} : (s.modChan p c f).acq = s.acq := rfl
@[simp] theorem State.modChan_snaps {p c : Nat} {f : Chan → Chan} : (s.modChan p c f).snaps = s.snaps := rfl
@[simp] theorem State.modChan_noc {p c : Nat} {f : Chan → Chan} : (s.modChan p c f).noc = s.noc := rfl
@[simp] theorem State.modChan_lanes {p c : Nat} {f : Chan → Chan} : (s.modChan p c f).lanes = s.lanes := rfl
@[simp] theorem State.modChan_ports {p c : Nat} {f : Chan → Chan} : (s.modChan p c f).ports = s.ports := rfl
@[simp] theorem State.modChan_time {p c : Nat} {f : Chan → Chan} : (s.modChan p c f).time = s.time := rfl
@[simp] theorem State.modChan_eth {p c : Nat} {f : Chan → Chan} : (s.modChan p c f).eth = s.eth := rfl
@[simp] theorem State.modChan_edge {p c : Nat} {f : Chan → Chan} : (s.modChan p c f).edge = s.edge := rfl
@[simp] theorem State.modChan_pwr {p c : Nat} {f : Chan → Chan} : (s.modChan p c f).pwr = s.pwr := rfl
@[simp] theorem State.modChan_trace {p c : Nat} {f : Chan → Chan} : (s.modChan p c f).trace = s.trace := rfl
@[simp] theorem State.modChan_freeCount {p c : Nat} {f : Chan → Chan} : (s.modChan p c f).freeCount = s.freeCount := rfl
@[simp] theorem State.modChan_pending {p c : Nat} {f : Chan → Chan} : (s.modChan p c f).pending = s.pending := rfl

/-! ### modQueue -/

@[simp] theorem State.modQueue_ident {q : Nat} {f : Queue → Queue} : (s.modQueue q f).ident = s.ident := rfl
@[simp] theorem State.modQueue_fuses {q : Nat} {f : Queue → Queue} : (s.modQueue q f).fuses = s.fuses := rfl
@[simp] theorem State.modQueue_flash {q : Nat} {f : Queue → Queue} : (s.modQueue q f).flash = s.flash := rfl
@[simp] theorem State.modQueue_dev {q : Nat} {f : Queue → Queue} : (s.modQueue q f).dev = s.dev := rfl
@[simp] theorem State.modQueue_host {q : Nat} {f : Queue → Queue} : (s.modQueue q f).host = s.host := rfl
@[simp] theorem State.modQueue_out {q : Nat} {f : Queue → Queue} : (s.modQueue q f).out = s.out := rfl
@[simp] theorem State.modQueue_folds {q : Nat} {f : Queue → Queue} : (s.modQueue q f).folds = s.folds := rfl
@[simp] theorem State.modQueue_pairs {q : Nat} {f : Queue → Queue} : (s.modQueue q f).pairs = s.pairs := rfl
@[simp] theorem State.modQueue_hbm {q : Nat} {f : Queue → Queue} : (s.modQueue q f).hbm = s.hbm := rfl
@[simp] theorem State.modQueue_pastures {q : Nat} {f : Queue → Queue} : (s.modQueue q f).pastures = s.pastures := rfl
@[simp] theorem State.modQueue_mregions {q : Nat} {f : Queue → Queue} : (s.modQueue q f).mregions = s.mregions := rfl
@[simp] theorem State.modQueue_mstatus {q : Nat} {f : Queue → Queue} : (s.modQueue q f).mstatus = s.mstatus := rfl
@[simp] theorem State.modQueue_acq {q : Nat} {f : Queue → Queue} : (s.modQueue q f).acq = s.acq := rfl
@[simp] theorem State.modQueue_snaps {q : Nat} {f : Queue → Queue} : (s.modQueue q f).snaps = s.snaps := rfl
@[simp] theorem State.modQueue_noc {q : Nat} {f : Queue → Queue} : (s.modQueue q f).noc = s.noc := rfl
@[simp] theorem State.modQueue_lanes {q : Nat} {f : Queue → Queue} : (s.modQueue q f).lanes = s.lanes := rfl
@[simp] theorem State.modQueue_ports {q : Nat} {f : Queue → Queue} : (s.modQueue q f).ports = s.ports := rfl
@[simp] theorem State.modQueue_time {q : Nat} {f : Queue → Queue} : (s.modQueue q f).time = s.time := rfl
@[simp] theorem State.modQueue_eth {q : Nat} {f : Queue → Queue} : (s.modQueue q f).eth = s.eth := rfl
@[simp] theorem State.modQueue_edge {q : Nat} {f : Queue → Queue} : (s.modQueue q f).edge = s.edge := rfl
@[simp] theorem State.modQueue_pwr {q : Nat} {f : Queue → Queue} : (s.modQueue q f).pwr = s.pwr := rfl
@[simp] theorem State.modQueue_trace {q : Nat} {f : Queue → Queue} : (s.modQueue q f).trace = s.trace := rfl
@[simp] theorem State.modQueue_freeCount {q : Nat} {f : Queue → Queue} : (s.modQueue q f).freeCount = s.freeCount := rfl
@[simp] theorem State.modQueue_pending {q : Nat} {f : Queue → Queue} : (s.modQueue q f).pending = s.pending := rfl

/-! ### modTask -/

@[simp] theorem State.modTask_ident {t : Nat} {f : Task → Task} : (s.modTask t f).ident = s.ident := rfl
@[simp] theorem State.modTask_fuses {t : Nat} {f : Task → Task} : (s.modTask t f).fuses = s.fuses := rfl
@[simp] theorem State.modTask_flash {t : Nat} {f : Task → Task} : (s.modTask t f).flash = s.flash := rfl
@[simp] theorem State.modTask_dev {t : Nat} {f : Task → Task} : (s.modTask t f).dev = s.dev := rfl
@[simp] theorem State.modTask_host {t : Nat} {f : Task → Task} : (s.modTask t f).host = s.host := rfl
@[simp] theorem State.modTask_out {t : Nat} {f : Task → Task} : (s.modTask t f).out = s.out := rfl
@[simp] theorem State.modTask_folds {t : Nat} {f : Task → Task} : (s.modTask t f).folds = s.folds := rfl
@[simp] theorem State.modTask_pairs {t : Nat} {f : Task → Task} : (s.modTask t f).pairs = s.pairs := rfl
@[simp] theorem State.modTask_hbm {t : Nat} {f : Task → Task} : (s.modTask t f).hbm = s.hbm := rfl
@[simp] theorem State.modTask_pastures {t : Nat} {f : Task → Task} : (s.modTask t f).pastures = s.pastures := rfl
@[simp] theorem State.modTask_mregions {t : Nat} {f : Task → Task} : (s.modTask t f).mregions = s.mregions := rfl
@[simp] theorem State.modTask_mstatus {t : Nat} {f : Task → Task} : (s.modTask t f).mstatus = s.mstatus := rfl
@[simp] theorem State.modTask_acq {t : Nat} {f : Task → Task} : (s.modTask t f).acq = s.acq := rfl
@[simp] theorem State.modTask_snaps {t : Nat} {f : Task → Task} : (s.modTask t f).snaps = s.snaps := rfl
@[simp] theorem State.modTask_noc {t : Nat} {f : Task → Task} : (s.modTask t f).noc = s.noc := rfl
@[simp] theorem State.modTask_lanes {t : Nat} {f : Task → Task} : (s.modTask t f).lanes = s.lanes := rfl
@[simp] theorem State.modTask_ports {t : Nat} {f : Task → Task} : (s.modTask t f).ports = s.ports := rfl
@[simp] theorem State.modTask_time {t : Nat} {f : Task → Task} : (s.modTask t f).time = s.time := rfl
@[simp] theorem State.modTask_eth {t : Nat} {f : Task → Task} : (s.modTask t f).eth = s.eth := rfl
@[simp] theorem State.modTask_edge {t : Nat} {f : Task → Task} : (s.modTask t f).edge = s.edge := rfl
@[simp] theorem State.modTask_pwr {t : Nat} {f : Task → Task} : (s.modTask t f).pwr = s.pwr := rfl
@[simp] theorem State.modTask_trace {t : Nat} {f : Task → Task} : (s.modTask t f).trace = s.trace := rfl
@[simp] theorem State.modTask_freeCount {t : Nat} {f : Task → Task} : (s.modTask t f).freeCount = s.freeCount := rfl
@[simp] theorem State.modTask_pending {t : Nat} {f : Task → Task} : (s.modTask t f).pending = s.pending := rfl

/-! ### modEngine -/

@[simp] theorem State.modEngine_ident {e : Nat} {f : Engine → Engine} : (s.modEngine e f).ident = s.ident := rfl
@[simp] theorem State.modEngine_fuses {e : Nat} {f : Engine → Engine} : (s.modEngine e f).fuses = s.fuses := rfl
@[simp] theorem State.modEngine_flash {e : Nat} {f : Engine → Engine} : (s.modEngine e f).flash = s.flash := rfl
@[simp] theorem State.modEngine_dev {e : Nat} {f : Engine → Engine} : (s.modEngine e f).dev = s.dev := rfl
@[simp] theorem State.modEngine_host {e : Nat} {f : Engine → Engine} : (s.modEngine e f).host = s.host := rfl
@[simp] theorem State.modEngine_out {e : Nat} {f : Engine → Engine} : (s.modEngine e f).out = s.out := rfl
@[simp] theorem State.modEngine_folds {e : Nat} {f : Engine → Engine} : (s.modEngine e f).folds = s.folds := rfl
@[simp] theorem State.modEngine_pairs {e : Nat} {f : Engine → Engine} : (s.modEngine e f).pairs = s.pairs := rfl
@[simp] theorem State.modEngine_hbm {e : Nat} {f : Engine → Engine} : (s.modEngine e f).hbm = s.hbm := rfl
@[simp] theorem State.modEngine_pastures {e : Nat} {f : Engine → Engine} : (s.modEngine e f).pastures = s.pastures := rfl
@[simp] theorem State.modEngine_mregions {e : Nat} {f : Engine → Engine} : (s.modEngine e f).mregions = s.mregions := rfl
@[simp] theorem State.modEngine_mstatus {e : Nat} {f : Engine → Engine} : (s.modEngine e f).mstatus = s.mstatus := rfl
@[simp] theorem State.modEngine_acq {e : Nat} {f : Engine → Engine} : (s.modEngine e f).acq = s.acq := rfl
@[simp] theorem State.modEngine_snaps {e : Nat} {f : Engine → Engine} : (s.modEngine e f).snaps = s.snaps := rfl
@[simp] theorem State.modEngine_noc {e : Nat} {f : Engine → Engine} : (s.modEngine e f).noc = s.noc := rfl
@[simp] theorem State.modEngine_lanes {e : Nat} {f : Engine → Engine} : (s.modEngine e f).lanes = s.lanes := rfl
@[simp] theorem State.modEngine_ports {e : Nat} {f : Engine → Engine} : (s.modEngine e f).ports = s.ports := rfl
@[simp] theorem State.modEngine_time {e : Nat} {f : Engine → Engine} : (s.modEngine e f).time = s.time := rfl
@[simp] theorem State.modEngine_eth {e : Nat} {f : Engine → Engine} : (s.modEngine e f).eth = s.eth := rfl
@[simp] theorem State.modEngine_edge {e : Nat} {f : Engine → Engine} : (s.modEngine e f).edge = s.edge := rfl
@[simp] theorem State.modEngine_pwr {e : Nat} {f : Engine → Engine} : (s.modEngine e f).pwr = s.pwr := rfl
@[simp] theorem State.modEngine_trace {e : Nat} {f : Engine → Engine} : (s.modEngine e f).trace = s.trace := rfl
@[simp] theorem State.modEngine_freeCount {e : Nat} {f : Engine → Engine} : (s.modEngine e f).freeCount = s.freeCount := rfl
@[simp] theorem State.modEngine_pending {e : Nat} {f : Engine → Engine} : (s.modEngine e f).pending = s.pending := rfl

/-! ### modAcq -/

@[simp] theorem State.modAcq_ident {p : Nat} {f : Acq → Acq} : (s.modAcq p f).ident = s.ident := rfl
@[simp] theorem State.modAcq_fuses {p : Nat} {f : Acq → Acq} : (s.modAcq p f).fuses = s.fuses := rfl
@[simp] theorem State.modAcq_flash {p : Nat} {f : Acq → Acq} : (s.modAcq p f).flash = s.flash := rfl
@[simp] theorem State.modAcq_dev {p : Nat} {f : Acq → Acq} : (s.modAcq p f).dev = s.dev := rfl
@[simp] theorem State.modAcq_host {p : Nat} {f : Acq → Acq} : (s.modAcq p f).host = s.host := rfl
@[simp] theorem State.modAcq_out {p : Nat} {f : Acq → Acq} : (s.modAcq p f).out = s.out := rfl
@[simp] theorem State.modAcq_folds {p : Nat} {f : Acq → Acq} : (s.modAcq p f).folds = s.folds := rfl
@[simp] theorem State.modAcq_pairs {p : Nat} {f : Acq → Acq} : (s.modAcq p f).pairs = s.pairs := rfl
@[simp] theorem State.modAcq_hbm {p : Nat} {f : Acq → Acq} : (s.modAcq p f).hbm = s.hbm := rfl
@[simp] theorem State.modAcq_pastures {p : Nat} {f : Acq → Acq} : (s.modAcq p f).pastures = s.pastures := rfl
@[simp] theorem State.modAcq_mregions {p : Nat} {f : Acq → Acq} : (s.modAcq p f).mregions = s.mregions := rfl
@[simp] theorem State.modAcq_mstatus {p : Nat} {f : Acq → Acq} : (s.modAcq p f).mstatus = s.mstatus := rfl
@[simp] theorem State.modAcq_flow {p : Nat} {f : Acq → Acq} : (s.modAcq p f).flow = s.flow := rfl
@[simp] theorem State.modAcq_snaps {p : Nat} {f : Acq → Acq} : (s.modAcq p f).snaps = s.snaps := rfl
@[simp] theorem State.modAcq_noc {p : Nat} {f : Acq → Acq} : (s.modAcq p f).noc = s.noc := rfl
@[simp] theorem State.modAcq_lanes {p : Nat} {f : Acq → Acq} : (s.modAcq p f).lanes = s.lanes := rfl
@[simp] theorem State.modAcq_ports {p : Nat} {f : Acq → Acq} : (s.modAcq p f).ports = s.ports := rfl
@[simp] theorem State.modAcq_time {p : Nat} {f : Acq → Acq} : (s.modAcq p f).time = s.time := rfl
@[simp] theorem State.modAcq_eth {p : Nat} {f : Acq → Acq} : (s.modAcq p f).eth = s.eth := rfl
@[simp] theorem State.modAcq_edge {p : Nat} {f : Acq → Acq} : (s.modAcq p f).edge = s.edge := rfl
@[simp] theorem State.modAcq_pwr {p : Nat} {f : Acq → Acq} : (s.modAcq p f).pwr = s.pwr := rfl
@[simp] theorem State.modAcq_trace {p : Nat} {f : Acq → Acq} : (s.modAcq p f).trace = s.trace := rfl
@[simp] theorem State.modAcq_freeCount {p : Nat} {f : Acq → Acq} : (s.modAcq p f).freeCount = s.freeCount := rfl
@[simp] theorem State.modAcq_pending {p : Nat} {f : Acq → Acq} : (s.modAcq p f).pending = s.pending := rfl

/-! ### modSnap -/

@[simp] theorem State.modSnap_ident {p : Nat} {f : Snap → Snap} : (s.modSnap p f).ident = s.ident := rfl
@[simp] theorem State.modSnap_fuses {p : Nat} {f : Snap → Snap} : (s.modSnap p f).fuses = s.fuses := rfl
@[simp] theorem State.modSnap_flash {p : Nat} {f : Snap → Snap} : (s.modSnap p f).flash = s.flash := rfl
@[simp] theorem State.modSnap_dev {p : Nat} {f : Snap → Snap} : (s.modSnap p f).dev = s.dev := rfl
@[simp] theorem State.modSnap_host {p : Nat} {f : Snap → Snap} : (s.modSnap p f).host = s.host := rfl
@[simp] theorem State.modSnap_out {p : Nat} {f : Snap → Snap} : (s.modSnap p f).out = s.out := rfl
@[simp] theorem State.modSnap_folds {p : Nat} {f : Snap → Snap} : (s.modSnap p f).folds = s.folds := rfl
@[simp] theorem State.modSnap_pairs {p : Nat} {f : Snap → Snap} : (s.modSnap p f).pairs = s.pairs := rfl
@[simp] theorem State.modSnap_hbm {p : Nat} {f : Snap → Snap} : (s.modSnap p f).hbm = s.hbm := rfl
@[simp] theorem State.modSnap_pastures {p : Nat} {f : Snap → Snap} : (s.modSnap p f).pastures = s.pastures := rfl
@[simp] theorem State.modSnap_mregions {p : Nat} {f : Snap → Snap} : (s.modSnap p f).mregions = s.mregions := rfl
@[simp] theorem State.modSnap_mstatus {p : Nat} {f : Snap → Snap} : (s.modSnap p f).mstatus = s.mstatus := rfl
@[simp] theorem State.modSnap_flow {p : Nat} {f : Snap → Snap} : (s.modSnap p f).flow = s.flow := rfl
@[simp] theorem State.modSnap_acq {p : Nat} {f : Snap → Snap} : (s.modSnap p f).acq = s.acq := rfl
@[simp] theorem State.modSnap_noc {p : Nat} {f : Snap → Snap} : (s.modSnap p f).noc = s.noc := rfl
@[simp] theorem State.modSnap_lanes {p : Nat} {f : Snap → Snap} : (s.modSnap p f).lanes = s.lanes := rfl
@[simp] theorem State.modSnap_ports {p : Nat} {f : Snap → Snap} : (s.modSnap p f).ports = s.ports := rfl
@[simp] theorem State.modSnap_time {p : Nat} {f : Snap → Snap} : (s.modSnap p f).time = s.time := rfl
@[simp] theorem State.modSnap_eth {p : Nat} {f : Snap → Snap} : (s.modSnap p f).eth = s.eth := rfl
@[simp] theorem State.modSnap_edge {p : Nat} {f : Snap → Snap} : (s.modSnap p f).edge = s.edge := rfl
@[simp] theorem State.modSnap_pwr {p : Nat} {f : Snap → Snap} : (s.modSnap p f).pwr = s.pwr := rfl
@[simp] theorem State.modSnap_trace {p : Nat} {f : Snap → Snap} : (s.modSnap p f).trace = s.trace := rfl
@[simp] theorem State.modSnap_freeCount {p : Nat} {f : Snap → Snap} : (s.modSnap p f).freeCount = s.freeCount := rfl
@[simp] theorem State.modSnap_pending {p : Nat} {f : Snap → Snap} : (s.modSnap p f).pending = s.pending := rfl

/-! ### modMstat -/

@[simp] theorem State.modMstat_ident {i : Nat} {f : MStatus → MStatus} : (s.modMstat i f).ident = s.ident := rfl
@[simp] theorem State.modMstat_fuses {i : Nat} {f : MStatus → MStatus} : (s.modMstat i f).fuses = s.fuses := rfl
@[simp] theorem State.modMstat_flash {i : Nat} {f : MStatus → MStatus} : (s.modMstat i f).flash = s.flash := rfl
@[simp] theorem State.modMstat_dev {i : Nat} {f : MStatus → MStatus} : (s.modMstat i f).dev = s.dev := rfl
@[simp] theorem State.modMstat_host {i : Nat} {f : MStatus → MStatus} : (s.modMstat i f).host = s.host := rfl
@[simp] theorem State.modMstat_out {i : Nat} {f : MStatus → MStatus} : (s.modMstat i f).out = s.out := rfl
@[simp] theorem State.modMstat_folds {i : Nat} {f : MStatus → MStatus} : (s.modMstat i f).folds = s.folds := rfl
@[simp] theorem State.modMstat_pairs {i : Nat} {f : MStatus → MStatus} : (s.modMstat i f).pairs = s.pairs := rfl
@[simp] theorem State.modMstat_hbm {i : Nat} {f : MStatus → MStatus} : (s.modMstat i f).hbm = s.hbm := rfl
@[simp] theorem State.modMstat_pastures {i : Nat} {f : MStatus → MStatus} : (s.modMstat i f).pastures = s.pastures := rfl
@[simp] theorem State.modMstat_mregions {i : Nat} {f : MStatus → MStatus} : (s.modMstat i f).mregions = s.mregions := rfl
@[simp] theorem State.modMstat_flow {i : Nat} {f : MStatus → MStatus} : (s.modMstat i f).flow = s.flow := rfl
@[simp] theorem State.modMstat_acq {i : Nat} {f : MStatus → MStatus} : (s.modMstat i f).acq = s.acq := rfl
@[simp] theorem State.modMstat_snaps {i : Nat} {f : MStatus → MStatus} : (s.modMstat i f).snaps = s.snaps := rfl
@[simp] theorem State.modMstat_noc {i : Nat} {f : MStatus → MStatus} : (s.modMstat i f).noc = s.noc := rfl
@[simp] theorem State.modMstat_lanes {i : Nat} {f : MStatus → MStatus} : (s.modMstat i f).lanes = s.lanes := rfl
@[simp] theorem State.modMstat_ports {i : Nat} {f : MStatus → MStatus} : (s.modMstat i f).ports = s.ports := rfl
@[simp] theorem State.modMstat_time {i : Nat} {f : MStatus → MStatus} : (s.modMstat i f).time = s.time := rfl
@[simp] theorem State.modMstat_eth {i : Nat} {f : MStatus → MStatus} : (s.modMstat i f).eth = s.eth := rfl
@[simp] theorem State.modMstat_edge {i : Nat} {f : MStatus → MStatus} : (s.modMstat i f).edge = s.edge := rfl
@[simp] theorem State.modMstat_pwr {i : Nat} {f : MStatus → MStatus} : (s.modMstat i f).pwr = s.pwr := rfl
@[simp] theorem State.modMstat_trace {i : Nat} {f : MStatus → MStatus} : (s.modMstat i f).trace = s.trace := rfl
@[simp] theorem State.modMstat_freeCount {i : Nat} {f : MStatus → MStatus} : (s.modMstat i f).freeCount = s.freeCount := rfl
@[simp] theorem State.modMstat_pending {i : Nat} {f : MStatus → MStatus} : (s.modMstat i f).pending = s.pending := rfl

/-! ### modRouter -/

@[simp] theorem State.modRouter_ident {r : Nat} {f : Router → Router} : (s.modRouter r f).ident = s.ident := rfl
@[simp] theorem State.modRouter_fuses {r : Nat} {f : Router → Router} : (s.modRouter r f).fuses = s.fuses := rfl
@[simp] theorem State.modRouter_flash {r : Nat} {f : Router → Router} : (s.modRouter r f).flash = s.flash := rfl
@[simp] theorem State.modRouter_dev {r : Nat} {f : Router → Router} : (s.modRouter r f).dev = s.dev := rfl
@[simp] theorem State.modRouter_host {r : Nat} {f : Router → Router} : (s.modRouter r f).host = s.host := rfl
@[simp] theorem State.modRouter_out {r : Nat} {f : Router → Router} : (s.modRouter r f).out = s.out := rfl
@[simp] theorem State.modRouter_folds {r : Nat} {f : Router → Router} : (s.modRouter r f).folds = s.folds := rfl
@[simp] theorem State.modRouter_pairs {r : Nat} {f : Router → Router} : (s.modRouter r f).pairs = s.pairs := rfl
@[simp] theorem State.modRouter_hbm {r : Nat} {f : Router → Router} : (s.modRouter r f).hbm = s.hbm := rfl
@[simp] theorem State.modRouter_pastures {r : Nat} {f : Router → Router} : (s.modRouter r f).pastures = s.pastures := rfl
@[simp] theorem State.modRouter_mregions {r : Nat} {f : Router → Router} : (s.modRouter r f).mregions = s.mregions := rfl
@[simp] theorem State.modRouter_mstatus {r : Nat} {f : Router → Router} : (s.modRouter r f).mstatus = s.mstatus := rfl
@[simp] theorem State.modRouter_flow {r : Nat} {f : Router → Router} : (s.modRouter r f).flow = s.flow := rfl
@[simp] theorem State.modRouter_acq {r : Nat} {f : Router → Router} : (s.modRouter r f).acq = s.acq := rfl
@[simp] theorem State.modRouter_snaps {r : Nat} {f : Router → Router} : (s.modRouter r f).snaps = s.snaps := rfl
@[simp] theorem State.modRouter_lanes {r : Nat} {f : Router → Router} : (s.modRouter r f).lanes = s.lanes := rfl
@[simp] theorem State.modRouter_ports {r : Nat} {f : Router → Router} : (s.modRouter r f).ports = s.ports := rfl
@[simp] theorem State.modRouter_time {r : Nat} {f : Router → Router} : (s.modRouter r f).time = s.time := rfl
@[simp] theorem State.modRouter_eth {r : Nat} {f : Router → Router} : (s.modRouter r f).eth = s.eth := rfl
@[simp] theorem State.modRouter_edge {r : Nat} {f : Router → Router} : (s.modRouter r f).edge = s.edge := rfl
@[simp] theorem State.modRouter_pwr {r : Nat} {f : Router → Router} : (s.modRouter r f).pwr = s.pwr := rfl
@[simp] theorem State.modRouter_trace {r : Nat} {f : Router → Router} : (s.modRouter r f).trace = s.trace := rfl
@[simp] theorem State.modRouter_freeCount {r : Nat} {f : Router → Router} : (s.modRouter r f).freeCount = s.freeCount := rfl
@[simp] theorem State.modRouter_pending {r : Nat} {f : Router → Router} : (s.modRouter r f).pending = s.pending := rfl

/-! ### modRegulator -/

@[simp] theorem State.modRegulator_ident {i : Nat} {f : Regulator → Regulator} : (s.modRegulator i f).ident = s.ident := rfl
@[simp] theorem State.modRegulator_fuses {i : Nat} {f : Regulator → Regulator} : (s.modRegulator i f).fuses = s.fuses := rfl
@[simp] theorem State.modRegulator_flash {i : Nat} {f : Regulator → Regulator} : (s.modRegulator i f).flash = s.flash := rfl
@[simp] theorem State.modRegulator_dev {i : Nat} {f : Regulator → Regulator} : (s.modRegulator i f).dev = s.dev := rfl
@[simp] theorem State.modRegulator_host {i : Nat} {f : Regulator → Regulator} : (s.modRegulator i f).host = s.host := rfl
@[simp] theorem State.modRegulator_out {i : Nat} {f : Regulator → Regulator} : (s.modRegulator i f).out = s.out := rfl
@[simp] theorem State.modRegulator_folds {i : Nat} {f : Regulator → Regulator} : (s.modRegulator i f).folds = s.folds := rfl
@[simp] theorem State.modRegulator_pairs {i : Nat} {f : Regulator → Regulator} : (s.modRegulator i f).pairs = s.pairs := rfl
@[simp] theorem State.modRegulator_hbm {i : Nat} {f : Regulator → Regulator} : (s.modRegulator i f).hbm = s.hbm := rfl
@[simp] theorem State.modRegulator_pastures {i : Nat} {f : Regulator → Regulator} : (s.modRegulator i f).pastures = s.pastures := rfl
@[simp] theorem State.modRegulator_mregions {i : Nat} {f : Regulator → Regulator} : (s.modRegulator i f).mregions = s.mregions := rfl
@[simp] theorem State.modRegulator_mstatus {i : Nat} {f : Regulator → Regulator} : (s.modRegulator i f).mstatus = s.mstatus := rfl
@[simp] theorem State.modRegulator_flow {i : Nat} {f : Regulator → Regulator} : (s.modRegulator i f).flow = s.flow := rfl
@[simp] theorem State.modRegulator_acq {i : Nat} {f : Regulator → Regulator} : (s.modRegulator i f).acq = s.acq := rfl
@[simp] theorem State.modRegulator_snaps {i : Nat} {f : Regulator → Regulator} : (s.modRegulator i f).snaps = s.snaps := rfl
@[simp] theorem State.modRegulator_lanes {i : Nat} {f : Regulator → Regulator} : (s.modRegulator i f).lanes = s.lanes := rfl
@[simp] theorem State.modRegulator_ports {i : Nat} {f : Regulator → Regulator} : (s.modRegulator i f).ports = s.ports := rfl
@[simp] theorem State.modRegulator_time {i : Nat} {f : Regulator → Regulator} : (s.modRegulator i f).time = s.time := rfl
@[simp] theorem State.modRegulator_eth {i : Nat} {f : Regulator → Regulator} : (s.modRegulator i f).eth = s.eth := rfl
@[simp] theorem State.modRegulator_edge {i : Nat} {f : Regulator → Regulator} : (s.modRegulator i f).edge = s.edge := rfl
@[simp] theorem State.modRegulator_pwr {i : Nat} {f : Regulator → Regulator} : (s.modRegulator i f).pwr = s.pwr := rfl
@[simp] theorem State.modRegulator_trace {i : Nat} {f : Regulator → Regulator} : (s.modRegulator i f).trace = s.trace := rfl
@[simp] theorem State.modRegulator_freeCount {i : Nat} {f : Regulator → Regulator} : (s.modRegulator i f).freeCount = s.freeCount := rfl
@[simp] theorem State.modRegulator_pending {i : Nat} {f : Regulator → Regulator} : (s.modRegulator i f).pending = s.pending := rfl

/-! ### modNocProbe -/

@[simp] theorem State.modNocProbe_ident {i : Nat} {f : NocProbe → NocProbe} : (s.modNocProbe i f).ident = s.ident := rfl
@[simp] theorem State.modNocProbe_fuses {i : Nat} {f : NocProbe → NocProbe} : (s.modNocProbe i f).fuses = s.fuses := rfl
@[simp] theorem State.modNocProbe_flash {i : Nat} {f : NocProbe → NocProbe} : (s.modNocProbe i f).flash = s.flash := rfl
@[simp] theorem State.modNocProbe_dev {i : Nat} {f : NocProbe → NocProbe} : (s.modNocProbe i f).dev = s.dev := rfl
@[simp] theorem State.modNocProbe_host {i : Nat} {f : NocProbe → NocProbe} : (s.modNocProbe i f).host = s.host := rfl
@[simp] theorem State.modNocProbe_out {i : Nat} {f : NocProbe → NocProbe} : (s.modNocProbe i f).out = s.out := rfl
@[simp] theorem State.modNocProbe_folds {i : Nat} {f : NocProbe → NocProbe} : (s.modNocProbe i f).folds = s.folds := rfl
@[simp] theorem State.modNocProbe_pairs {i : Nat} {f : NocProbe → NocProbe} : (s.modNocProbe i f).pairs = s.pairs := rfl
@[simp] theorem State.modNocProbe_hbm {i : Nat} {f : NocProbe → NocProbe} : (s.modNocProbe i f).hbm = s.hbm := rfl
@[simp] theorem State.modNocProbe_pastures {i : Nat} {f : NocProbe → NocProbe} : (s.modNocProbe i f).pastures = s.pastures := rfl
@[simp] theorem State.modNocProbe_mregions {i : Nat} {f : NocProbe → NocProbe} : (s.modNocProbe i f).mregions = s.mregions := rfl
@[simp] theorem State.modNocProbe_mstatus {i : Nat} {f : NocProbe → NocProbe} : (s.modNocProbe i f).mstatus = s.mstatus := rfl
@[simp] theorem State.modNocProbe_flow {i : Nat} {f : NocProbe → NocProbe} : (s.modNocProbe i f).flow = s.flow := rfl
@[simp] theorem State.modNocProbe_acq {i : Nat} {f : NocProbe → NocProbe} : (s.modNocProbe i f).acq = s.acq := rfl
@[simp] theorem State.modNocProbe_snaps {i : Nat} {f : NocProbe → NocProbe} : (s.modNocProbe i f).snaps = s.snaps := rfl
@[simp] theorem State.modNocProbe_lanes {i : Nat} {f : NocProbe → NocProbe} : (s.modNocProbe i f).lanes = s.lanes := rfl
@[simp] theorem State.modNocProbe_ports {i : Nat} {f : NocProbe → NocProbe} : (s.modNocProbe i f).ports = s.ports := rfl
@[simp] theorem State.modNocProbe_time {i : Nat} {f : NocProbe → NocProbe} : (s.modNocProbe i f).time = s.time := rfl
@[simp] theorem State.modNocProbe_eth {i : Nat} {f : NocProbe → NocProbe} : (s.modNocProbe i f).eth = s.eth := rfl
@[simp] theorem State.modNocProbe_edge {i : Nat} {f : NocProbe → NocProbe} : (s.modNocProbe i f).edge = s.edge := rfl
@[simp] theorem State.modNocProbe_pwr {i : Nat} {f : NocProbe → NocProbe} : (s.modNocProbe i f).pwr = s.pwr := rfl
@[simp] theorem State.modNocProbe_trace {i : Nat} {f : NocProbe → NocProbe} : (s.modNocProbe i f).trace = s.trace := rfl
@[simp] theorem State.modNocProbe_freeCount {i : Nat} {f : NocProbe → NocProbe} : (s.modNocProbe i f).freeCount = s.freeCount := rfl
@[simp] theorem State.modNocProbe_pending {i : Nat} {f : NocProbe → NocProbe} : (s.modNocProbe i f).pending = s.pending := rfl

/-! ### modLane -/

@[simp] theorem State.modLane_ident {l : Nat} {f : Lane → Lane} : (s.modLane l f).ident = s.ident := rfl
@[simp] theorem State.modLane_fuses {l : Nat} {f : Lane → Lane} : (s.modLane l f).fuses = s.fuses := rfl
@[simp] theorem State.modLane_flash {l : Nat} {f : Lane → Lane} : (s.modLane l f).flash = s.flash := rfl
@[simp] theorem State.modLane_dev {l : Nat} {f : Lane → Lane} : (s.modLane l f).dev = s.dev := rfl
@[simp] theorem State.modLane_host {l : Nat} {f : Lane → Lane} : (s.modLane l f).host = s.host := rfl
@[simp] theorem State.modLane_out {l : Nat} {f : Lane → Lane} : (s.modLane l f).out = s.out := rfl
@[simp] theorem State.modLane_folds {l : Nat} {f : Lane → Lane} : (s.modLane l f).folds = s.folds := rfl
@[simp] theorem State.modLane_pairs {l : Nat} {f : Lane → Lane} : (s.modLane l f).pairs = s.pairs := rfl
@[simp] theorem State.modLane_hbm {l : Nat} {f : Lane → Lane} : (s.modLane l f).hbm = s.hbm := rfl
@[simp] theorem State.modLane_pastures {l : Nat} {f : Lane → Lane} : (s.modLane l f).pastures = s.pastures := rfl
@[simp] theorem State.modLane_mregions {l : Nat} {f : Lane → Lane} : (s.modLane l f).mregions = s.mregions := rfl
@[simp] theorem State.modLane_mstatus {l : Nat} {f : Lane → Lane} : (s.modLane l f).mstatus = s.mstatus := rfl
@[simp] theorem State.modLane_flow {l : Nat} {f : Lane → Lane} : (s.modLane l f).flow = s.flow := rfl
@[simp] theorem State.modLane_acq {l : Nat} {f : Lane → Lane} : (s.modLane l f).acq = s.acq := rfl
@[simp] theorem State.modLane_snaps {l : Nat} {f : Lane → Lane} : (s.modLane l f).snaps = s.snaps := rfl
@[simp] theorem State.modLane_noc {l : Nat} {f : Lane → Lane} : (s.modLane l f).noc = s.noc := rfl
@[simp] theorem State.modLane_ports {l : Nat} {f : Lane → Lane} : (s.modLane l f).ports = s.ports := rfl
@[simp] theorem State.modLane_time {l : Nat} {f : Lane → Lane} : (s.modLane l f).time = s.time := rfl
@[simp] theorem State.modLane_eth {l : Nat} {f : Lane → Lane} : (s.modLane l f).eth = s.eth := rfl
@[simp] theorem State.modLane_edge {l : Nat} {f : Lane → Lane} : (s.modLane l f).edge = s.edge := rfl
@[simp] theorem State.modLane_pwr {l : Nat} {f : Lane → Lane} : (s.modLane l f).pwr = s.pwr := rfl
@[simp] theorem State.modLane_trace {l : Nat} {f : Lane → Lane} : (s.modLane l f).trace = s.trace := rfl
@[simp] theorem State.modLane_freeCount {l : Nat} {f : Lane → Lane} : (s.modLane l f).freeCount = s.freeCount := rfl
@[simp] theorem State.modLane_pending {l : Nat} {f : Lane → Lane} : (s.modLane l f).pending = s.pending := rfl

/-! ### modPort -/

@[simp] theorem State.modPort_ident {n : Nat} {f : LinkPort → LinkPort} : (s.modPort n f).ident = s.ident := rfl
@[simp] theorem State.modPort_fuses {n : Nat} {f : LinkPort → LinkPort} : (s.modPort n f).fuses = s.fuses := rfl
@[simp] theorem State.modPort_flash {n : Nat} {f : LinkPort → LinkPort} : (s.modPort n f).flash = s.flash := rfl
@[simp] theorem State.modPort_dev {n : Nat} {f : LinkPort → LinkPort} : (s.modPort n f).dev = s.dev := rfl
@[simp] theorem State.modPort_host {n : Nat} {f : LinkPort → LinkPort} : (s.modPort n f).host = s.host := rfl
@[simp] theorem State.modPort_out {n : Nat} {f : LinkPort → LinkPort} : (s.modPort n f).out = s.out := rfl
@[simp] theorem State.modPort_folds {n : Nat} {f : LinkPort → LinkPort} : (s.modPort n f).folds = s.folds := rfl
@[simp] theorem State.modPort_pairs {n : Nat} {f : LinkPort → LinkPort} : (s.modPort n f).pairs = s.pairs := rfl
@[simp] theorem State.modPort_hbm {n : Nat} {f : LinkPort → LinkPort} : (s.modPort n f).hbm = s.hbm := rfl
@[simp] theorem State.modPort_pastures {n : Nat} {f : LinkPort → LinkPort} : (s.modPort n f).pastures = s.pastures := rfl
@[simp] theorem State.modPort_mregions {n : Nat} {f : LinkPort → LinkPort} : (s.modPort n f).mregions = s.mregions := rfl
@[simp] theorem State.modPort_mstatus {n : Nat} {f : LinkPort → LinkPort} : (s.modPort n f).mstatus = s.mstatus := rfl
@[simp] theorem State.modPort_flow {n : Nat} {f : LinkPort → LinkPort} : (s.modPort n f).flow = s.flow := rfl
@[simp] theorem State.modPort_acq {n : Nat} {f : LinkPort → LinkPort} : (s.modPort n f).acq = s.acq := rfl
@[simp] theorem State.modPort_snaps {n : Nat} {f : LinkPort → LinkPort} : (s.modPort n f).snaps = s.snaps := rfl
@[simp] theorem State.modPort_noc {n : Nat} {f : LinkPort → LinkPort} : (s.modPort n f).noc = s.noc := rfl
@[simp] theorem State.modPort_lanes {n : Nat} {f : LinkPort → LinkPort} : (s.modPort n f).lanes = s.lanes := rfl
@[simp] theorem State.modPort_time {n : Nat} {f : LinkPort → LinkPort} : (s.modPort n f).time = s.time := rfl
@[simp] theorem State.modPort_eth {n : Nat} {f : LinkPort → LinkPort} : (s.modPort n f).eth = s.eth := rfl
@[simp] theorem State.modPort_edge {n : Nat} {f : LinkPort → LinkPort} : (s.modPort n f).edge = s.edge := rfl
@[simp] theorem State.modPort_pwr {n : Nat} {f : LinkPort → LinkPort} : (s.modPort n f).pwr = s.pwr := rfl
@[simp] theorem State.modPort_trace {n : Nat} {f : LinkPort → LinkPort} : (s.modPort n f).trace = s.trace := rfl
@[simp] theorem State.modPort_freeCount {n : Nat} {f : LinkPort → LinkPort} : (s.modPort n f).freeCount = s.freeCount := rfl
@[simp] theorem State.modPort_pending {n : Nat} {f : LinkPort → LinkPort} : (s.modPort n f).pending = s.pending := rfl

/-! ### modEth -/

@[simp] theorem State.modEth_ident {k : Nat} {f : EthPort → EthPort} : (s.modEth k f).ident = s.ident := rfl
@[simp] theorem State.modEth_fuses {k : Nat} {f : EthPort → EthPort} : (s.modEth k f).fuses = s.fuses := rfl
@[simp] theorem State.modEth_flash {k : Nat} {f : EthPort → EthPort} : (s.modEth k f).flash = s.flash := rfl
@[simp] theorem State.modEth_dev {k : Nat} {f : EthPort → EthPort} : (s.modEth k f).dev = s.dev := rfl
@[simp] theorem State.modEth_host {k : Nat} {f : EthPort → EthPort} : (s.modEth k f).host = s.host := rfl
@[simp] theorem State.modEth_out {k : Nat} {f : EthPort → EthPort} : (s.modEth k f).out = s.out := rfl
@[simp] theorem State.modEth_folds {k : Nat} {f : EthPort → EthPort} : (s.modEth k f).folds = s.folds := rfl
@[simp] theorem State.modEth_pairs {k : Nat} {f : EthPort → EthPort} : (s.modEth k f).pairs = s.pairs := rfl
@[simp] theorem State.modEth_hbm {k : Nat} {f : EthPort → EthPort} : (s.modEth k f).hbm = s.hbm := rfl
@[simp] theorem State.modEth_pastures {k : Nat} {f : EthPort → EthPort} : (s.modEth k f).pastures = s.pastures := rfl
@[simp] theorem State.modEth_mregions {k : Nat} {f : EthPort → EthPort} : (s.modEth k f).mregions = s.mregions := rfl
@[simp] theorem State.modEth_mstatus {k : Nat} {f : EthPort → EthPort} : (s.modEth k f).mstatus = s.mstatus := rfl
@[simp] theorem State.modEth_flow {k : Nat} {f : EthPort → EthPort} : (s.modEth k f).flow = s.flow := rfl
@[simp] theorem State.modEth_acq {k : Nat} {f : EthPort → EthPort} : (s.modEth k f).acq = s.acq := rfl
@[simp] theorem State.modEth_snaps {k : Nat} {f : EthPort → EthPort} : (s.modEth k f).snaps = s.snaps := rfl
@[simp] theorem State.modEth_noc {k : Nat} {f : EthPort → EthPort} : (s.modEth k f).noc = s.noc := rfl
@[simp] theorem State.modEth_lanes {k : Nat} {f : EthPort → EthPort} : (s.modEth k f).lanes = s.lanes := rfl
@[simp] theorem State.modEth_ports {k : Nat} {f : EthPort → EthPort} : (s.modEth k f).ports = s.ports := rfl
@[simp] theorem State.modEth_time {k : Nat} {f : EthPort → EthPort} : (s.modEth k f).time = s.time := rfl
@[simp] theorem State.modEth_edge {k : Nat} {f : EthPort → EthPort} : (s.modEth k f).edge = s.edge := rfl
@[simp] theorem State.modEth_pwr {k : Nat} {f : EthPort → EthPort} : (s.modEth k f).pwr = s.pwr := rfl
@[simp] theorem State.modEth_trace {k : Nat} {f : EthPort → EthPort} : (s.modEth k f).trace = s.trace := rfl
@[simp] theorem State.modEth_freeCount {k : Nat} {f : EthPort → EthPort} : (s.modEth k f).freeCount = s.freeCount := rfl
@[simp] theorem State.modEth_pending {k : Nat} {f : EthPort → EthPort} : (s.modEth k f).pending = s.pending := rfl

/-! ### modRegion -/

@[simp] theorem State.modRegion_ident {r : Nat} {f : Region → Region} : (s.modRegion r f).ident = s.ident := rfl
@[simp] theorem State.modRegion_fuses {r : Nat} {f : Region → Region} : (s.modRegion r f).fuses = s.fuses := rfl
@[simp] theorem State.modRegion_flash {r : Nat} {f : Region → Region} : (s.modRegion r f).flash = s.flash := rfl
@[simp] theorem State.modRegion_dev {r : Nat} {f : Region → Region} : (s.modRegion r f).dev = s.dev := rfl
@[simp] theorem State.modRegion_host {r : Nat} {f : Region → Region} : (s.modRegion r f).host = s.host := rfl
@[simp] theorem State.modRegion_out {r : Nat} {f : Region → Region} : (s.modRegion r f).out = s.out := rfl
@[simp] theorem State.modRegion_folds {r : Nat} {f : Region → Region} : (s.modRegion r f).folds = s.folds := rfl
@[simp] theorem State.modRegion_pairs {r : Nat} {f : Region → Region} : (s.modRegion r f).pairs = s.pairs := rfl
@[simp] theorem State.modRegion_hbm {r : Nat} {f : Region → Region} : (s.modRegion r f).hbm = s.hbm := rfl
@[simp] theorem State.modRegion_pastures {r : Nat} {f : Region → Region} : (s.modRegion r f).pastures = s.pastures := rfl
@[simp] theorem State.modRegion_mregions {r : Nat} {f : Region → Region} : (s.modRegion r f).mregions = s.mregions := rfl
@[simp] theorem State.modRegion_mstatus {r : Nat} {f : Region → Region} : (s.modRegion r f).mstatus = s.mstatus := rfl
@[simp] theorem State.modRegion_flow {r : Nat} {f : Region → Region} : (s.modRegion r f).flow = s.flow := rfl
@[simp] theorem State.modRegion_acq {r : Nat} {f : Region → Region} : (s.modRegion r f).acq = s.acq := rfl
@[simp] theorem State.modRegion_snaps {r : Nat} {f : Region → Region} : (s.modRegion r f).snaps = s.snaps := rfl
@[simp] theorem State.modRegion_noc {r : Nat} {f : Region → Region} : (s.modRegion r f).noc = s.noc := rfl
@[simp] theorem State.modRegion_lanes {r : Nat} {f : Region → Region} : (s.modRegion r f).lanes = s.lanes := rfl
@[simp] theorem State.modRegion_ports {r : Nat} {f : Region → Region} : (s.modRegion r f).ports = s.ports := rfl
@[simp] theorem State.modRegion_time {r : Nat} {f : Region → Region} : (s.modRegion r f).time = s.time := rfl
@[simp] theorem State.modRegion_eth {r : Nat} {f : Region → Region} : (s.modRegion r f).eth = s.eth := rfl
@[simp] theorem State.modRegion_pwr {r : Nat} {f : Region → Region} : (s.modRegion r f).pwr = s.pwr := rfl
@[simp] theorem State.modRegion_trace {r : Nat} {f : Region → Region} : (s.modRegion r f).trace = s.trace := rfl
@[simp] theorem State.modRegion_freeCount {r : Nat} {f : Region → Region} : (s.modRegion r f).freeCount = s.freeCount := rfl
@[simp] theorem State.modRegion_pending {r : Nat} {f : Region → Region} : (s.modRegion r f).pending = s.pending := rfl

/-! ### modBank -/

@[simp] theorem State.modBank_ident {b : Nat} {f : Bank → Bank} : (s.modBank b f).ident = s.ident := rfl
@[simp] theorem State.modBank_fuses {b : Nat} {f : Bank → Bank} : (s.modBank b f).fuses = s.fuses := rfl
@[simp] theorem State.modBank_flash {b : Nat} {f : Bank → Bank} : (s.modBank b f).flash = s.flash := rfl
@[simp] theorem State.modBank_dev {b : Nat} {f : Bank → Bank} : (s.modBank b f).dev = s.dev := rfl
@[simp] theorem State.modBank_host {b : Nat} {f : Bank → Bank} : (s.modBank b f).host = s.host := rfl
@[simp] theorem State.modBank_out {b : Nat} {f : Bank → Bank} : (s.modBank b f).out = s.out := rfl
@[simp] theorem State.modBank_folds {b : Nat} {f : Bank → Bank} : (s.modBank b f).folds = s.folds := rfl
@[simp] theorem State.modBank_pairs {b : Nat} {f : Bank → Bank} : (s.modBank b f).pairs = s.pairs := rfl
@[simp] theorem State.modBank_hbm {b : Nat} {f : Bank → Bank} : (s.modBank b f).hbm = s.hbm := rfl
@[simp] theorem State.modBank_pastures {b : Nat} {f : Bank → Bank} : (s.modBank b f).pastures = s.pastures := rfl
@[simp] theorem State.modBank_mregions {b : Nat} {f : Bank → Bank} : (s.modBank b f).mregions = s.mregions := rfl
@[simp] theorem State.modBank_mstatus {b : Nat} {f : Bank → Bank} : (s.modBank b f).mstatus = s.mstatus := rfl
@[simp] theorem State.modBank_flow {b : Nat} {f : Bank → Bank} : (s.modBank b f).flow = s.flow := rfl
@[simp] theorem State.modBank_acq {b : Nat} {f : Bank → Bank} : (s.modBank b f).acq = s.acq := rfl
@[simp] theorem State.modBank_snaps {b : Nat} {f : Bank → Bank} : (s.modBank b f).snaps = s.snaps := rfl
@[simp] theorem State.modBank_noc {b : Nat} {f : Bank → Bank} : (s.modBank b f).noc = s.noc := rfl
@[simp] theorem State.modBank_lanes {b : Nat} {f : Bank → Bank} : (s.modBank b f).lanes = s.lanes := rfl
@[simp] theorem State.modBank_ports {b : Nat} {f : Bank → Bank} : (s.modBank b f).ports = s.ports := rfl
@[simp] theorem State.modBank_time {b : Nat} {f : Bank → Bank} : (s.modBank b f).time = s.time := rfl
@[simp] theorem State.modBank_eth {b : Nat} {f : Bank → Bank} : (s.modBank b f).eth = s.eth := rfl
@[simp] theorem State.modBank_pwr {b : Nat} {f : Bank → Bank} : (s.modBank b f).pwr = s.pwr := rfl
@[simp] theorem State.modBank_trace {b : Nat} {f : Bank → Bank} : (s.modBank b f).trace = s.trace := rfl
@[simp] theorem State.modBank_freeCount {b : Nat} {f : Bank → Bank} : (s.modBank b f).freeCount = s.freeCount := rfl
@[simp] theorem State.modBank_pending {b : Nat} {f : Bank → Bank} : (s.modBank b f).pending = s.pending := rfl

/-! ### modDomain -/

@[simp] theorem State.modDomain_ident {d : Nat} {f : Domain → Domain} : (s.modDomain d f).ident = s.ident := rfl
@[simp] theorem State.modDomain_fuses {d : Nat} {f : Domain → Domain} : (s.modDomain d f).fuses = s.fuses := rfl
@[simp] theorem State.modDomain_flash {d : Nat} {f : Domain → Domain} : (s.modDomain d f).flash = s.flash := rfl
@[simp] theorem State.modDomain_dev {d : Nat} {f : Domain → Domain} : (s.modDomain d f).dev = s.dev := rfl
@[simp] theorem State.modDomain_host {d : Nat} {f : Domain → Domain} : (s.modDomain d f).host = s.host := rfl
@[simp] theorem State.modDomain_out {d : Nat} {f : Domain → Domain} : (s.modDomain d f).out = s.out := rfl
@[simp] theorem State.modDomain_folds {d : Nat} {f : Domain → Domain} : (s.modDomain d f).folds = s.folds := rfl
@[simp] theorem State.modDomain_pairs {d : Nat} {f : Domain → Domain} : (s.modDomain d f).pairs = s.pairs := rfl
@[simp] theorem State.modDomain_hbm {d : Nat} {f : Domain → Domain} : (s.modDomain d f).hbm = s.hbm := rfl
@[simp] theorem State.modDomain_pastures {d : Nat} {f : Domain → Domain} : (s.modDomain d f).pastures = s.pastures := rfl
@[simp] theorem State.modDomain_mregions {d : Nat} {f : Domain → Domain} : (s.modDomain d f).mregions = s.mregions := rfl
@[simp] theorem State.modDomain_mstatus {d : Nat} {f : Domain → Domain} : (s.modDomain d f).mstatus = s.mstatus := rfl
@[simp] theorem State.modDomain_flow {d : Nat} {f : Domain → Domain} : (s.modDomain d f).flow = s.flow := rfl
@[simp] theorem State.modDomain_acq {d : Nat} {f : Domain → Domain} : (s.modDomain d f).acq = s.acq := rfl
@[simp] theorem State.modDomain_snaps {d : Nat} {f : Domain → Domain} : (s.modDomain d f).snaps = s.snaps := rfl
@[simp] theorem State.modDomain_noc {d : Nat} {f : Domain → Domain} : (s.modDomain d f).noc = s.noc := rfl
@[simp] theorem State.modDomain_lanes {d : Nat} {f : Domain → Domain} : (s.modDomain d f).lanes = s.lanes := rfl
@[simp] theorem State.modDomain_ports {d : Nat} {f : Domain → Domain} : (s.modDomain d f).ports = s.ports := rfl
@[simp] theorem State.modDomain_time {d : Nat} {f : Domain → Domain} : (s.modDomain d f).time = s.time := rfl
@[simp] theorem State.modDomain_eth {d : Nat} {f : Domain → Domain} : (s.modDomain d f).eth = s.eth := rfl
@[simp] theorem State.modDomain_edge {d : Nat} {f : Domain → Domain} : (s.modDomain d f).edge = s.edge := rfl
@[simp] theorem State.modDomain_trace {d : Nat} {f : Domain → Domain} : (s.modDomain d f).trace = s.trace := rfl
@[simp] theorem State.modDomain_freeCount {d : Nat} {f : Domain → Domain} : (s.modDomain d f).freeCount = s.freeCount := rfl
@[simp] theorem State.modDomain_pending {d : Nat} {f : Domain → Domain} : (s.modDomain d f).pending = s.pending := rfl

/-! ### modDie -/

@[simp] theorem State.modDie_ident {d : Nat} {f : DieClk → DieClk} : (s.modDie d f).ident = s.ident := rfl
@[simp] theorem State.modDie_fuses {d : Nat} {f : DieClk → DieClk} : (s.modDie d f).fuses = s.fuses := rfl
@[simp] theorem State.modDie_flash {d : Nat} {f : DieClk → DieClk} : (s.modDie d f).flash = s.flash := rfl
@[simp] theorem State.modDie_dev {d : Nat} {f : DieClk → DieClk} : (s.modDie d f).dev = s.dev := rfl
@[simp] theorem State.modDie_host {d : Nat} {f : DieClk → DieClk} : (s.modDie d f).host = s.host := rfl
@[simp] theorem State.modDie_out {d : Nat} {f : DieClk → DieClk} : (s.modDie d f).out = s.out := rfl
@[simp] theorem State.modDie_folds {d : Nat} {f : DieClk → DieClk} : (s.modDie d f).folds = s.folds := rfl
@[simp] theorem State.modDie_pairs {d : Nat} {f : DieClk → DieClk} : (s.modDie d f).pairs = s.pairs := rfl
@[simp] theorem State.modDie_hbm {d : Nat} {f : DieClk → DieClk} : (s.modDie d f).hbm = s.hbm := rfl
@[simp] theorem State.modDie_pastures {d : Nat} {f : DieClk → DieClk} : (s.modDie d f).pastures = s.pastures := rfl
@[simp] theorem State.modDie_mregions {d : Nat} {f : DieClk → DieClk} : (s.modDie d f).mregions = s.mregions := rfl
@[simp] theorem State.modDie_mstatus {d : Nat} {f : DieClk → DieClk} : (s.modDie d f).mstatus = s.mstatus := rfl
@[simp] theorem State.modDie_flow {d : Nat} {f : DieClk → DieClk} : (s.modDie d f).flow = s.flow := rfl
@[simp] theorem State.modDie_acq {d : Nat} {f : DieClk → DieClk} : (s.modDie d f).acq = s.acq := rfl
@[simp] theorem State.modDie_snaps {d : Nat} {f : DieClk → DieClk} : (s.modDie d f).snaps = s.snaps := rfl
@[simp] theorem State.modDie_noc {d : Nat} {f : DieClk → DieClk} : (s.modDie d f).noc = s.noc := rfl
@[simp] theorem State.modDie_lanes {d : Nat} {f : DieClk → DieClk} : (s.modDie d f).lanes = s.lanes := rfl
@[simp] theorem State.modDie_ports {d : Nat} {f : DieClk → DieClk} : (s.modDie d f).ports = s.ports := rfl
@[simp] theorem State.modDie_time {d : Nat} {f : DieClk → DieClk} : (s.modDie d f).time = s.time := rfl
@[simp] theorem State.modDie_eth {d : Nat} {f : DieClk → DieClk} : (s.modDie d f).eth = s.eth := rfl
@[simp] theorem State.modDie_edge {d : Nat} {f : DieClk → DieClk} : (s.modDie d f).edge = s.edge := rfl
@[simp] theorem State.modDie_trace {d : Nat} {f : DieClk → DieClk} : (s.modDie d f).trace = s.trace := rfl
@[simp] theorem State.modDie_freeCount {d : Nat} {f : DieClk → DieClk} : (s.modDie d f).freeCount = s.freeCount := rfl
@[simp] theorem State.modDie_pending {d : Nat} {f : DieClk → DieClk} : (s.modDie d f).pending = s.pending := rfl

/-! ### modEncoder -/

@[simp] theorem State.modEncoder_ident {c : Nat} {f : Encoder → Encoder} : (s.modEncoder c f).ident = s.ident := rfl
@[simp] theorem State.modEncoder_fuses {c : Nat} {f : Encoder → Encoder} : (s.modEncoder c f).fuses = s.fuses := rfl
@[simp] theorem State.modEncoder_flash {c : Nat} {f : Encoder → Encoder} : (s.modEncoder c f).flash = s.flash := rfl
@[simp] theorem State.modEncoder_dev {c : Nat} {f : Encoder → Encoder} : (s.modEncoder c f).dev = s.dev := rfl
@[simp] theorem State.modEncoder_host {c : Nat} {f : Encoder → Encoder} : (s.modEncoder c f).host = s.host := rfl
@[simp] theorem State.modEncoder_out {c : Nat} {f : Encoder → Encoder} : (s.modEncoder c f).out = s.out := rfl
@[simp] theorem State.modEncoder_folds {c : Nat} {f : Encoder → Encoder} : (s.modEncoder c f).folds = s.folds := rfl
@[simp] theorem State.modEncoder_pairs {c : Nat} {f : Encoder → Encoder} : (s.modEncoder c f).pairs = s.pairs := rfl
@[simp] theorem State.modEncoder_hbm {c : Nat} {f : Encoder → Encoder} : (s.modEncoder c f).hbm = s.hbm := rfl
@[simp] theorem State.modEncoder_pastures {c : Nat} {f : Encoder → Encoder} : (s.modEncoder c f).pastures = s.pastures := rfl
@[simp] theorem State.modEncoder_mregions {c : Nat} {f : Encoder → Encoder} : (s.modEncoder c f).mregions = s.mregions := rfl
@[simp] theorem State.modEncoder_mstatus {c : Nat} {f : Encoder → Encoder} : (s.modEncoder c f).mstatus = s.mstatus := rfl
@[simp] theorem State.modEncoder_flow {c : Nat} {f : Encoder → Encoder} : (s.modEncoder c f).flow = s.flow := rfl
@[simp] theorem State.modEncoder_acq {c : Nat} {f : Encoder → Encoder} : (s.modEncoder c f).acq = s.acq := rfl
@[simp] theorem State.modEncoder_snaps {c : Nat} {f : Encoder → Encoder} : (s.modEncoder c f).snaps = s.snaps := rfl
@[simp] theorem State.modEncoder_noc {c : Nat} {f : Encoder → Encoder} : (s.modEncoder c f).noc = s.noc := rfl
@[simp] theorem State.modEncoder_lanes {c : Nat} {f : Encoder → Encoder} : (s.modEncoder c f).lanes = s.lanes := rfl
@[simp] theorem State.modEncoder_ports {c : Nat} {f : Encoder → Encoder} : (s.modEncoder c f).ports = s.ports := rfl
@[simp] theorem State.modEncoder_time {c : Nat} {f : Encoder → Encoder} : (s.modEncoder c f).time = s.time := rfl
@[simp] theorem State.modEncoder_eth {c : Nat} {f : Encoder → Encoder} : (s.modEncoder c f).eth = s.eth := rfl
@[simp] theorem State.modEncoder_edge {c : Nat} {f : Encoder → Encoder} : (s.modEncoder c f).edge = s.edge := rfl
@[simp] theorem State.modEncoder_pwr {c : Nat} {f : Encoder → Encoder} : (s.modEncoder c f).pwr = s.pwr := rfl
@[simp] theorem State.modEncoder_freeCount {c : Nat} {f : Encoder → Encoder} : (s.modEncoder c f).freeCount = s.freeCount := rfl
@[simp] theorem State.modEncoder_pending {c : Nat} {f : Encoder → Encoder} : (s.modEncoder c f).pending = s.pending := rfl

/-! ### send and draw -/

@[simp] theorem State.send_ident {o : Output} : (s.send o).ident = s.ident := rfl
@[simp] theorem State.send_fuses {o : Output} : (s.send o).fuses = s.fuses := rfl
@[simp] theorem State.send_flash {o : Output} : (s.send o).flash = s.flash := rfl
@[simp] theorem State.send_dev {o : Output} : (s.send o).dev = s.dev := rfl
@[simp] theorem State.send_host {o : Output} : (s.send o).host = s.host := rfl
@[simp] theorem State.send_folds {o : Output} : (s.send o).folds = s.folds := rfl
@[simp] theorem State.send_pairs {o : Output} : (s.send o).pairs = s.pairs := rfl
@[simp] theorem State.send_hbm {o : Output} : (s.send o).hbm = s.hbm := rfl
@[simp] theorem State.send_pastures {o : Output} : (s.send o).pastures = s.pastures := rfl
@[simp] theorem State.send_mregions {o : Output} : (s.send o).mregions = s.mregions := rfl
@[simp] theorem State.send_mstatus {o : Output} : (s.send o).mstatus = s.mstatus := rfl
@[simp] theorem State.send_flow {o : Output} : (s.send o).flow = s.flow := rfl
@[simp] theorem State.send_acq {o : Output} : (s.send o).acq = s.acq := rfl
@[simp] theorem State.send_snaps {o : Output} : (s.send o).snaps = s.snaps := rfl
@[simp] theorem State.send_noc {o : Output} : (s.send o).noc = s.noc := rfl
@[simp] theorem State.send_lanes {o : Output} : (s.send o).lanes = s.lanes := rfl
@[simp] theorem State.send_ports {o : Output} : (s.send o).ports = s.ports := rfl
@[simp] theorem State.send_time {o : Output} : (s.send o).time = s.time := rfl
@[simp] theorem State.send_eth {o : Output} : (s.send o).eth = s.eth := rfl
@[simp] theorem State.send_edge {o : Output} : (s.send o).edge = s.edge := rfl
@[simp] theorem State.send_pwr {o : Output} : (s.send o).pwr = s.pwr := rfl
@[simp] theorem State.send_trace {o : Output} : (s.send o).trace = s.trace := rfl
@[simp] theorem State.send_freeCount {o : Output} : (s.send o).freeCount = s.freeCount := rfl
@[simp] theorem State.send_pending {o : Output} : (s.send o).pending = s.pending := rfl
@[simp] theorem State.send_out {o : Output} : (s.send o).out = s.out ++ [o] := rfl
@[simp] theorem State.draw_ident {w : Nat} : (s.draw w).2.ident = s.ident := rfl
@[simp] theorem State.draw_fuses {w : Nat} : (s.draw w).2.fuses = s.fuses := rfl
@[simp] theorem State.draw_flash {w : Nat} : (s.draw w).2.flash = s.flash := rfl
@[simp] theorem State.draw_dev {w : Nat} : (s.draw w).2.dev = s.dev := rfl
@[simp] theorem State.draw_host {w : Nat} : (s.draw w).2.host = s.host := rfl
@[simp] theorem State.draw_out {w : Nat} : (s.draw w).2.out = s.out := rfl
@[simp] theorem State.draw_folds {w : Nat} : (s.draw w).2.folds = s.folds := rfl
@[simp] theorem State.draw_pairs {w : Nat} : (s.draw w).2.pairs = s.pairs := rfl
@[simp] theorem State.draw_hbm {w : Nat} : (s.draw w).2.hbm = s.hbm := rfl
@[simp] theorem State.draw_pastures {w : Nat} : (s.draw w).2.pastures = s.pastures := rfl
@[simp] theorem State.draw_mregions {w : Nat} : (s.draw w).2.mregions = s.mregions := rfl
@[simp] theorem State.draw_mstatus {w : Nat} : (s.draw w).2.mstatus = s.mstatus := rfl
@[simp] theorem State.draw_flow {w : Nat} : (s.draw w).2.flow = s.flow := rfl
@[simp] theorem State.draw_acq {w : Nat} : (s.draw w).2.acq = s.acq := rfl
@[simp] theorem State.draw_snaps {w : Nat} : (s.draw w).2.snaps = s.snaps := rfl
@[simp] theorem State.draw_noc {w : Nat} : (s.draw w).2.noc = s.noc := rfl
@[simp] theorem State.draw_lanes {w : Nat} : (s.draw w).2.lanes = s.lanes := rfl
@[simp] theorem State.draw_ports {w : Nat} : (s.draw w).2.ports = s.ports := rfl
@[simp] theorem State.draw_time {w : Nat} : (s.draw w).2.time = s.time := rfl
@[simp] theorem State.draw_eth {w : Nat} : (s.draw w).2.eth = s.eth := rfl
@[simp] theorem State.draw_edge {w : Nat} : (s.draw w).2.edge = s.edge := rfl
@[simp] theorem State.draw_pwr {w : Nat} : (s.draw w).2.pwr = s.pwr := rfl
@[simp] theorem State.draw_trace {w : Nat} : (s.draw w).2.trace = s.trace := rfl
@[simp] theorem State.draw_pending {w : Nat} : (s.draw w).2.pending = s.pending := rfl
@[simp] theorem State.draw_freeCount {w : Nat} : (s.draw w).2.freeCount = s.freeCount + 1 := rfl

/-! ### A record after its update -/

theorem State.ring_modRing {k j : Nat} {f : CmdRing → CmdRing} : (s.modRing k f).ring j = if j = k then f (s.ring k) else s.ring j :=
  tget_tmod _ _ _ _ _
@[simp] theorem State.ring_modRing_self {k : Nat} {f : CmdRing → CmdRing} : (s.modRing k f).ring k = f (s.ring k) := by simp [State.ring_modRing]
theorem State.fold_modFold {k j : Nat} {f : Fold → Fold} : (s.modFold k f).fold j = if j = k then f (s.fold k) else s.fold j :=
  tget_tmod _ _ _ _ _
@[simp] theorem State.fold_modFold_self {k : Nat} {f : Fold → Fold} : (s.modFold k f).fold k = f (s.fold k) := by simp [State.fold_modFold]
theorem State.pair_modPair {k j : Nat} {f : Pair → Pair} : (s.modPair k f).pair j = if j = k then f (s.pair k) else s.pair j :=
  tget_tmod _ _ _ _ _
@[simp] theorem State.pair_modPair_self {k : Nat} {f : Pair → Pair} : (s.modPair k f).pair k = f (s.pair k) := by simp [State.pair_modPair]
theorem State.pas_modPas {k j : Nat} {f : Pasture → Pasture} : (s.modPas k f).pas j = if j = k then f (s.pas k) else s.pas j :=
  tget_tmod _ _ _ _ _
@[simp] theorem State.pas_modPas_self {k : Nat} {f : Pasture → Pasture} : (s.modPas k f).pas k = f (s.pas k) := by simp [State.pas_modPas]
theorem State.queue_modQueue {k j : Nat} {f : Queue → Queue} : (s.modQueue k f).queue j = if j = k then f (s.queue k) else s.queue j :=
  tget_tmod _ _ _ _ _
@[simp] theorem State.queue_modQueue_self {k : Nat} {f : Queue → Queue} : (s.modQueue k f).queue k = f (s.queue k) := by simp [State.queue_modQueue]
theorem State.task_modTask {k j : Nat} {f : Task → Task} : (s.modTask k f).task j = if j = k then f (s.task k) else s.task j :=
  tget_tmod _ _ _ _ _
@[simp] theorem State.task_modTask_self {k : Nat} {f : Task → Task} : (s.modTask k f).task k = f (s.task k) := by simp [State.task_modTask]
theorem State.engine_modEngine {k j : Nat} {f : Engine → Engine} : (s.modEngine k f).engine j = if j = k then f (s.engine k) else s.engine j :=
  tget_tmod _ _ _ _ _
@[simp] theorem State.engine_modEngine_self {k : Nat} {f : Engine → Engine} : (s.modEngine k f).engine k = f (s.engine k) := by simp [State.engine_modEngine]
theorem State.acqOf_modAcq {k j : Nat} {f : Acq → Acq} : (s.modAcq k f).acqOf j = if j = k then f (s.acqOf k) else s.acqOf j :=
  tget_tmod _ _ _ _ _
@[simp] theorem State.acqOf_modAcq_self {k : Nat} {f : Acq → Acq} : (s.modAcq k f).acqOf k = f (s.acqOf k) := by simp [State.acqOf_modAcq]
theorem State.snap_modSnap {k j : Nat} {f : Snap → Snap} : (s.modSnap k f).snap j = if j = k then f (s.snap k) else s.snap j :=
  tget_tmod _ _ _ _ _
@[simp] theorem State.snap_modSnap_self {k : Nat} {f : Snap → Snap} : (s.modSnap k f).snap k = f (s.snap k) := by simp [State.snap_modSnap]
theorem State.mstat_modMstat {k j : Nat} {f : MStatus → MStatus} : (s.modMstat k f).mstat j = if j = k then f (s.mstat k) else s.mstat j :=
  tget_tmod _ _ _ _ _
@[simp] theorem State.mstat_modMstat_self {k : Nat} {f : MStatus → MStatus} : (s.modMstat k f).mstat k = f (s.mstat k) := by simp [State.mstat_modMstat]
theorem State.router_modRouter {k j : Nat} {f : Router → Router} : (s.modRouter k f).router j = if j = k then f (s.router k) else s.router j :=
  tget_tmod _ _ _ _ _
@[simp] theorem State.router_modRouter_self {k : Nat} {f : Router → Router} : (s.modRouter k f).router k = f (s.router k) := by simp [State.router_modRouter]
theorem State.regulator_modRegulator {k j : Nat} {f : Regulator → Regulator} : (s.modRegulator k f).regulator j = if j = k then f (s.regulator k) else s.regulator j :=
  tget_tmod _ _ _ _ _
@[simp] theorem State.regulator_modRegulator_self {k : Nat} {f : Regulator → Regulator} : (s.modRegulator k f).regulator k = f (s.regulator k) := by simp [State.regulator_modRegulator]
theorem State.nocProbe_modNocProbe {k j : Nat} {f : NocProbe → NocProbe} : (s.modNocProbe k f).nocProbe j = if j = k then f (s.nocProbe k) else s.nocProbe j :=
  tget_tmod _ _ _ _ _
@[simp] theorem State.nocProbe_modNocProbe_self {k : Nat} {f : NocProbe → NocProbe} : (s.modNocProbe k f).nocProbe k = f (s.nocProbe k) := by simp [State.nocProbe_modNocProbe]
theorem State.lane_modLane {k j : Nat} {f : Lane → Lane} : (s.modLane k f).lane j = if j = k then f (s.lane k) else s.lane j :=
  tget_tmod _ _ _ _ _
@[simp] theorem State.lane_modLane_self {k : Nat} {f : Lane → Lane} : (s.modLane k f).lane k = f (s.lane k) := by simp [State.lane_modLane]
theorem State.port_modPort {k j : Nat} {f : LinkPort → LinkPort} : (s.modPort k f).port j = if j = k then f (s.port k) else s.port j :=
  tget_tmod _ _ _ _ _
@[simp] theorem State.port_modPort_self {k : Nat} {f : LinkPort → LinkPort} : (s.modPort k f).port k = f (s.port k) := by simp [State.port_modPort]
theorem State.ethPort_modEth {k j : Nat} {f : EthPort → EthPort} : (s.modEth k f).ethPort j = if j = k then f (s.ethPort k) else s.ethPort j :=
  tget_tmod _ _ _ _ _
@[simp] theorem State.ethPort_modEth_self {k : Nat} {f : EthPort → EthPort} : (s.modEth k f).ethPort k = f (s.ethPort k) := by simp [State.ethPort_modEth]
theorem State.region_modRegion {k j : Nat} {f : Region → Region} : (s.modRegion k f).region j = if j = k then f (s.region k) else s.region j :=
  tget_tmod _ _ _ _ _
@[simp] theorem State.region_modRegion_self {k : Nat} {f : Region → Region} : (s.modRegion k f).region k = f (s.region k) := by simp [State.region_modRegion]
theorem State.bank_modBank {k j : Nat} {f : Bank → Bank} : (s.modBank k f).bank j = if j = k then f (s.bank k) else s.bank j :=
  tget_tmod _ _ _ _ _
@[simp] theorem State.bank_modBank_self {k : Nat} {f : Bank → Bank} : (s.modBank k f).bank k = f (s.bank k) := by simp [State.bank_modBank]
theorem State.domain_modDomain {k j : Nat} {f : Domain → Domain} : (s.modDomain k f).domain j = if j = k then f (s.domain k) else s.domain j :=
  tget_tmod _ _ _ _ _
@[simp] theorem State.domain_modDomain_self {k : Nat} {f : Domain → Domain} : (s.modDomain k f).domain k = f (s.domain k) := by simp [State.domain_modDomain]
theorem State.dieClk_modDie {k j : Nat} {f : DieClk → DieClk} : (s.modDie k f).dieClk j = if j = k then f (s.dieClk k) else s.dieClk j :=
  tget_tmod _ _ _ _ _
@[simp] theorem State.dieClk_modDie_self {k : Nat} {f : DieClk → DieClk} : (s.modDie k f).dieClk k = f (s.dieClk k) := by simp [State.dieClk_modDie]
theorem State.encoder_modEncoder {k j : Nat} {f : Encoder → Encoder} : (s.modEncoder k f).encoder j = if j = k then f (s.encoder k) else s.encoder j :=
  tget_tmod _ _ _ _ _
@[simp] theorem State.encoder_modEncoder_self {k : Nat} {f : Encoder → Encoder} : (s.modEncoder k f).encoder k = f (s.encoder k) := by simp [State.encoder_modEncoder]

theorem State.pas_modStat {k j : Nat} {f : PStat → PStat} :
    (s.modStat k f).pas j = if j = k then { s.pas k with stat := f (s.pas k).stat } else s.pas j := State.pas_modPas
theorem State.pas_modRun {k j : Nat} {f : PRun → PRun} :
    (s.modRun k f).pas j = if j = k then { s.pas k with run := f (s.pas k).run } else s.pas j := State.pas_modPas
theorem State.pas_modExt {k j : Nat} {f : PExt → PExt} :
    (s.modExt k f).pas j = if j = k then { s.pas k with ext := f (s.pas k).ext } else s.pas j := State.pas_modPas
theorem State.pas_modCk {k j : Nat} {f : PRing → PRing} :
    (s.modCk k f).pas j = if j = k then { s.pas k with ck := f (s.pas k).ck } else s.pas j := State.pas_modPas
theorem State.pas_modPFlow {k j : Nat} {f : PFlow → PFlow} :
    (s.modPFlow k f).pas j = if j = k then { s.pas k with flow := f (s.pas k).flow } else s.pas j := State.pas_modPas
theorem State.pas_modWdog {k j : Nat} {f : PWdog → PWdog} :
    (s.modWdog k f).pas j = if j = k then { s.pas k with wdog := f (s.pas k).wdog } else s.pas j := State.pas_modPas
theorem State.pas_modSpan {k j : Nat} {f : PSpan → PSpan} :
    (s.modSpan k f).pas j = if j = k then { s.pas k with span := f (s.pas k).span } else s.pas j := State.pas_modPas
theorem State.pas_modChan {p c j : Nat} {f : Chan → Chan} :
    (s.modChan p c f).pas j = if j = p then { s.pas p with chans := (s.pas p).chans.modify c f } else s.pas j := State.pas_modPas
theorem State.fold_modSeq {k j : Nat} {f : FoldSeq → FoldSeq} :
    (s.modSeq k f).fold j = if j = k then { s.fold k with seq := f (s.fold k).seq } else s.fold j := State.fold_modFold

end Sys2Proof.Machine
end

