-- ==== Sys2Proof/Laws/Fold.lean ====
section
/-!
SUPPORT. A slot of a fold: what its preparation, one BP operation and the commit of its writes can do.
-/

namespace Sys2Proof.Machine
open Sys2Proof

/-- Preparing a slot delivers the words due in it, or leaves the state as it is where one is not there. -/
theorem State.prepare_eq (s : State) (f p : Nat) :
    ∃ d, s.prepare f p = s ∨ s.prepare f p = s.modSeq f (fun q => { q with delivered := d, prepared := true }) := by
  unfold State.prepare
  dsimp only
  split
  · exact ⟨[], .inl rfl⟩
  · exact ⟨_, .inr rfl⟩

theorem State.prepare_instrNow (s : State) (f p b : Nat) :
    ((s.prepare f p).fold f).instrNow b = (s.fold f).instrNow b := by
  obtain ⟨d, h | h⟩ := State.prepare_eq s f p <;> rw [h]
  simp [State.fold_modSeq]; rfl

/-- A BP operation that is ready executes in its prepared fold and touches nothing else. -/
theorem bpStep_ready {s : State} {f bp p op : Nat} (h : bpReady s f bp p op) :
    bpStep op f bp s = (s.prepare f p).modFold f (fun x => x.execBp bp) := by
  obtain ⟨a, b, c, d, e⟩ := h
  simp [bpStep, a, b, c, d, e]

/-- A BP operation does nothing, executes in its prepared fold, or notes why the prepared fold stalls. -/
theorem bpStep_cases (op f bp : Nat) (s : State) : bpStep op f bp s = s ∨ ∃ p, s.inSlot f = some p ∧
    (bpStep op f bp s = (s.prepare f p).modFold f (fun x => x.execBp bp) ∨
      ∃ c, bpStep op f bp s = (s.prepare f p).modSeq f (fun q => { q with cause := c })) := by
  unfold bpStep
  split
  · exact .inl rfl
  · rename_i p h
    split
    · refine .inr ⟨p, h, ?_⟩
      dsimp only
      split
      · exact .inl rfl
      · right; unfold State.noteCause; exact ⟨_, rfl⟩
    · exact .inl rfl

/-- A BP adds writes of its own entries to the slot's, the import last, and leaves cells, latch, store, port and the earlier writes. -/
theorem Fold.execBp_facts (x : Fold) (bp : Nat) :
    (x.execBp bp).nrf = x.nrf ∧ (x.execBp bp).latch = x.latch ∧ (x.execBp bp).seq.wr1 = x.seq.wr1 ∧
    (x.execBp bp).seq.busPrev = x.seq.busPrev ∧ (x.execBp bp).store = x.store ∧ (x.execBp bp).dm = x.dm ∧
    (x.execBp bp).seq.slot = x.seq.slot ∧
    ∃ l, (x.execBp bp).seq.wr0 = x.seq.wr0 ++ l ∧ (∀ w ∈ l, w.bp = bp) ∧
      ((x.instrNow bp).op ≠ opNop → l.getLast? = some
        { bp := bp, entry := 448 + (x.instrNow bp).xdst, val := bitOf x.seq.busPrev (x.instrNow bp).xsel }) := by
  unfold Fold.execBp
  dsimp only
  split
  · exact ⟨rfl, rfl, rfl, rfl, rfl, rfl, rfl, [], by simp, by simp, fun h => absurd ‹_› h⟩
  · refine ⟨rfl, rfl, rfl, rfl, rfl, rfl, rfl, _, List.append_assoc _ _ _, ?_, fun _ => by simp⟩
    intro w hw
    simp only [List.mem_append, List.mem_singleton] at hw
    rcases hw with hw | hw
    · split at hw <;> simp at hw; rw [hw]
    · rw [hw]

/-- After a list of writes an entry holds the last one's value, or what it held before. -/
theorem commit_read (ws : List NrfWrite) (t : Tab Bool) (b k : Nat) (hk : k < 512) (hw : ∀ w ∈ ws, w.entry < 512) :
    tget (ws.foldl (fun t w => tput t false (nrfKey w.bp w.entry) w.val) t) false (nrfKey b k) =
      ((ws.reverse.find? (fun w => w.bp == b && w.entry == k)).map NrfWrite.val).getD (tget t false (nrfKey b k)) := by
  induction ws generalizing t with
  | nil => rfl
  | cons w l ih =>
    rw [List.foldl_cons, ih _ (fun x hx => hw x (List.mem_cons_of_mem _ hx)), List.reverse_cons, List.find?_append]
    have hwe := hw w (List.mem_cons_self ..)
    cases h : l.reverse.find? (fun w => w.bp == b && w.entry == k) with
    | some v => simp
    | none =>
      simp only [Option.map_none, Option.getD_none, Option.none_or]
      by_cases hc : w.bp = b ∧ w.entry = k
      · obtain ⟨rfl, rfl⟩ := hc
        rw [tget_tput_self]; simp
      · have hn : nrfKey b k ≠ nrfKey w.bp w.entry := by unfold nrfKey; omega
        rw [tget_tput_ne _ _ _ hn]
        have hf : (w.bp == b && w.entry == k) = false := by simp; tauto
        simp [hf]

end Sys2Proof.Machine
end

