-- ==== Sys2Proof/Laws/KeptOps.lean ====
section
/-!
SUPPORT. `kept` gathers what no operation but two changes: the identity, the fuses and the waiting commands. One lemma per function,
here through the shared operations, the sequencers and memory.
-/

namespace Sys2Proof.Machine
open Sys2Proof

/-! ### Ops -/
/-- What no operation changes but the raise of SVN_MIN and the end of an ERASE. -/
def State.kept (s : State) : Ident × Fuses × List Instr := (s.ident, s.fuses, s.pending)
@[simp ↓] theorem foldl_kept {α : Type} (g : State → α → State) (h : ∀ s x, (g s x).kept = s.kept) (l : List α) (s : State) :
    (l.foldl g s).kept = s.kept := by
  induction l generalizing s with
  | nil => rfl
  | cons a l ih => simp [List.foldl_cons, ih, h]
theorem foldl_snd_kept {α β : Type} (g : β × State → α → β × State) (h : ∀ a x, (g a x).2.kept = a.2.kept) (l : List
    α) (a : β × State) :
    (l.foldl g a).2.kept = a.2.kept := by
  induction l generalizing a with
  | nil => rfl
  | cons x l ih => simp [List.foldl_cons, ih, h]
@[simp ↓] theorem ite_kept (c : Prop) [Decidable c] (a b : State) : (if c then a else b).kept = if c then a.kept else
    b.kept := by
  split <;> rfl
theorem ident_eq (s : State) : s.ident = s.kept.1 := rfl
theorem fuses_eq (s : State) : s.fuses = s.kept.2.1 := rfl
theorem pending_eq (s : State) : s.pending = s.kept.2.2 := rfl
@[simp] theorem kept_mk ident fuses a2 a3 a4 a5 a6 a7 a8 a9 a10 a11 a12 a13 a14 a15 a16 a17 a18 a19 a20 a21 a22 a23
    pending : State.kept (State.mk ident fuses a2 a3 a4 a5 a6 a7 a8 a9 a10 a11 a12 a13 a14 a15 a16 a17 a18 a19 a20 a21 a22
    a23 pending) = (ident, fuses, pending) := rfl
@[simp ↓] theorem State.draw_kept (s : State) (w : Nat) : (State.draw s w).2.kept = s.kept := by
  unfold State.draw
  simp [ident_eq, fuses_eq, pending_eq]
@[simp ↓] theorem State.drawBytes_kept (s : State) (a1 : Nat) : (State.drawBytes s a1).2.kept = s.kept := by
  induction a1 generalizing s with
  | zero => rfl
  | succ n ih => simp [State.drawBytes, ih]
@[simp ↓] theorem State.modDev_kept (s : State) (f : Dev → Dev) : (State.modDev s f).kept = s.kept := by
  unfold State.modDev
  simp [ident_eq, fuses_eq, pending_eq]
@[simp ↓] theorem State.modHost_kept (s : State) (f : HostSide → HostSide) : (State.modHost s f).kept = s.kept := by
  unfold State.modHost
  simp [ident_eq, fuses_eq, pending_eq]
@[simp ↓] theorem State.modNoc_kept (s : State) (f : Noc → Noc) : (State.modNoc s f).kept = s.kept := by
  unfold State.modNoc
  simp [ident_eq, fuses_eq, pending_eq]
@[simp ↓] theorem State.modTime_kept (s : State) (f : TimeBase → TimeBase) : (State.modTime s f).kept = s.kept := by
  unfold State.modTime
  simp [ident_eq, fuses_eq, pending_eq]
@[simp ↓] theorem State.modEdge_kept (s : State) (f : Edge → Edge) : (State.modEdge s f).kept = s.kept := by
  unfold State.modEdge
  simp [ident_eq, fuses_eq, pending_eq]
@[simp ↓] theorem State.modPwr_kept (s : State) (f : Pwr → Pwr) : (State.modPwr s f).kept = s.kept := by
  unfold State.modPwr
  simp [ident_eq, fuses_eq, pending_eq]
@[simp ↓] theorem State.modTrace_kept (s : State) (f : Trace → Trace) : (State.modTrace s f).kept = s.kept := by
  unfold State.modTrace
  simp [ident_eq, fuses_eq, pending_eq]
@[simp ↓] theorem State.modFlow_kept (s : State) (f : FlowSide → FlowSide) : (State.modFlow s f).kept = s.kept := by
  unfold State.modFlow
  simp [ident_eq, fuses_eq, pending_eq]
@[simp ↓] theorem State.modRing_kept (s : State) (n : Nat) (f : CmdRing → CmdRing) : (State.modRing s n f).kept =
    s.kept := by
  simp [State.modRing]
@[simp ↓] theorem State.modFold_kept (s : State) (n : Nat) (f : Fold → Fold) : (State.modFold s n f).kept = s.kept := by
  unfold State.modFold
  simp [ident_eq, fuses_eq, pending_eq]
@[simp ↓] theorem State.modSeq_kept (s : State) (n : Nat) (f : FoldSeq → FoldSeq) : (State.modSeq s n f).kept = s.kept := by
  simp [State.modSeq]
@[simp ↓] theorem State.modPair_kept (s : State) (n : Nat) (f : Pair → Pair) : (State.modPair s n f).kept = s.kept := by
  unfold State.modPair
  simp [ident_eq, fuses_eq, pending_eq]
@[simp ↓] theorem State.modPas_kept (s : State) (p : Nat) (f : Pasture → Pasture) : (State.modPas s p f).kept = s.kept := by
  unfold State.modPas
  simp [ident_eq, fuses_eq, pending_eq]
@[simp ↓] theorem State.modStat_kept (s : State) (p : Nat) (f : PStat → PStat) : (State.modStat s p f).kept = s.kept := by
  simp [State.modStat]
@[simp ↓] theorem State.modRun_kept (s : State) (p : Nat) (f : PRun → PRun) : (State.modRun s p f).kept = s.kept := by
  simp [State.modRun]
@[simp ↓] theorem State.modExt_kept (s : State) (p : Nat) (f : PExt → PExt) : (State.modExt s p f).kept = s.kept := by
  simp [State.modExt]
@[simp ↓] theorem State.modCk_kept (s : State) (p : Nat) (f : PRing → PRing) : (State.modCk s p f).kept = s.kept := by
  simp [State.modCk]
@[simp ↓] theorem State.modPFlow_kept (s : State) (p : Nat) (f : PFlow → PFlow) : (State.modPFlow s p f).kept = s.kept := by
  simp [State.modPFlow]
@[simp ↓] theorem State.modWdog_kept (s : State) (p : Nat) (f : PWdog → PWdog) : (State.modWdog s p f).kept = s.kept := by
  simp [State.modWdog]
@[simp ↓] theorem State.modSpan_kept (s : State) (p : Nat) (f : PSpan → PSpan) : (State.modSpan s p f).kept = s.kept := by
  simp [State.modSpan]
@[simp ↓] theorem State.modChan_kept (s : State) (p : Nat) (c : Nat) (f : Chan → Chan) : (State.modChan s p c f).kept
    = s.kept := by
  simp [State.modChan]
@[simp ↓] theorem State.modQueue_kept (s : State) (q : Nat) (f : Queue → Queue) : (State.modQueue s q f).kept = s.kept := by
  simp [State.modQueue]
@[simp ↓] theorem State.modTask_kept (s : State) (t : Nat) (f : Task → Task) : (State.modTask s t f).kept = s.kept := by
  simp [State.modTask]
@[simp ↓] theorem State.modEngine_kept (s : State) (e : Nat) (f : Engine → Engine) : (State.modEngine s e f).kept =
    s.kept := by
  simp [State.modEngine]
@[simp ↓] theorem State.modAcq_kept (s : State) (p : Nat) (f : Acq → Acq) : (State.modAcq s p f).kept = s.kept := by
  unfold State.modAcq
  simp [ident_eq, fuses_eq, pending_eq]
@[simp ↓] theorem State.modSnap_kept (s : State) (p : Nat) (f : Snap → Snap) : (State.modSnap s p f).kept = s.kept := by
  unfold State.modSnap
  simp [ident_eq, fuses_eq, pending_eq]
@[simp ↓] theorem State.modMstat_kept (s : State) (i : Nat) (f : MStatus → MStatus) : (State.modMstat s i f).kept =
    s.kept := by
  unfold State.modMstat
  simp [ident_eq, fuses_eq, pending_eq]
@[simp ↓] theorem State.modRouter_kept (s : State) (r : Nat) (f : Router → Router) : (State.modRouter s r f).kept =
    s.kept := by
  simp [State.modRouter]
@[simp ↓] theorem State.modRegulator_kept (s : State) (i : Nat) (f : Regulator → Regulator) : (State.modRegulator s i
    f).kept = s.kept := by
  simp [State.modRegulator]
@[simp ↓] theorem State.modNocProbe_kept (s : State) (i : Nat) (f : NocProbe → NocProbe) : (State.modNocProbe s i
    f).kept = s.kept := by
  simp [State.modNocProbe]
@[simp ↓] theorem State.modLane_kept (s : State) (l : Nat) (f : Lane → Lane) : (State.modLane s l f).kept = s.kept := by
  unfold State.modLane
  simp [ident_eq, fuses_eq, pending_eq]
@[simp ↓] theorem State.modPort_kept (s : State) (n : Nat) (f : LinkPort → LinkPort) : (State.modPort s n f).kept =
    s.kept := by
  unfold State.modPort
  simp [ident_eq, fuses_eq, pending_eq]
@[simp ↓] theorem State.modEth_kept (s : State) (k : Nat) (f : EthPort → EthPort) : (State.modEth s k f).kept = s.kept := by
  unfold State.modEth
  simp [ident_eq, fuses_eq, pending_eq]
@[simp ↓] theorem State.modRegion_kept (s : State) (r : Nat) (f : Region → Region) : (State.modRegion s r f).kept =
    s.kept := by
  simp [State.modRegion]
@[simp ↓] theorem State.modBank_kept (s : State) (b : Nat) (f : Bank → Bank) : (State.modBank s b f).kept = s.kept := by
  simp [State.modBank]
@[simp ↓] theorem State.modDomain_kept (s : State) (d : Nat) (f : Domain → Domain) : (State.modDomain s d f).kept =
    s.kept := by
  simp [State.modDomain]
@[simp ↓] theorem State.modDie_kept (s : State) (d : Nat) (f : DieClk → DieClk) : (State.modDie s d f).kept = s.kept := by
  simp [State.modDie]
@[simp ↓] theorem State.modEncoder_kept (s : State) (c : Nat) (f : Encoder → Encoder) : (State.modEncoder s c f).kept
    = s.kept := by
  simp [State.modEncoder]
@[simp ↓] theorem State.send_kept (s : State) (o : Output) : (State.send s o).kept = s.kept := by
  unfold State.send
  simp [ident_eq, fuses_eq, pending_eq]
@[simp ↓] theorem State.forAll_kept (s : State) (l : List Nat) (f : State → Nat → State) (hf : ∀ x0 x1, (f x0 x1).kept
    = x0.kept) : (State.forAll s l f).kept = s.kept := by
  unfold State.forAll; exact foldl_kept f hf l s

/-! ### TraceOps -/
@[simp ↓] theorem State.traceTo_kept (s : State) (st : TraceState) (src : Nat) : (State.traceTo s st src).kept = s.kept := by
  simp [State.traceTo]
@[simp ↓] theorem State.traceBegin_kept (s : State) (src : Nat) : (State.traceBegin s src).kept = s.kept := by
  simp [State.traceBegin]
@[simp ↓] theorem State.traceEvent_kept (s : State) (bit : Nat) : (State.traceEvent s bit).kept = s.kept := by
  unfold State.traceEvent
  (repeat' (split <;> (try simp)))
@[simp ↓] theorem State.logDecision_kept (s : State) (kind : String) (unit : Nat) (value : Nat) : (State.logDecision s
    kind unit value).kept = s.kept := by
  simp [State.logDecision]
@[simp ↓] theorem State.traceGap_kept (s : State) (c : Nat) (cause : Nat) : (State.traceGap s c cause).kept = s.kept := by
  simp [State.traceGap]
@[simp ↓] theorem State.traceWake_kept (s : State) (c : Nat) (addr : Nat) : (State.traceWake s c addr).kept = s.kept := by
  simp [State.traceWake]
@[simp ↓] theorem State.traceReset_kept (s : State) : (State.traceReset s).kept = s.kept := by
  unfold State.traceReset
  simp [ident_eq, fuses_eq, pending_eq]

/-! ### Flags -/
@[simp ↓] theorem State.modMsix_kept (s : State) (v : Nat) (f : Msix → Msix) : (State.modMsix s v f).kept = s.kept := by
  simp [State.modMsix]
@[simp ↓] theorem State.msiOut_kept (s : State) (v : Nat) : (State.msiOut s v).kept = s.kept := by
  unfold State.msiOut; simp
@[simp ↓] theorem State.raiseVector_kept (s : State) (v : Nat) : (State.raiseVector s v).kept = s.kept := by
  simp [State.raiseVector]
@[simp ↓] theorem State.flushVector_kept (s : State) (v : Nat) : (State.flushVector s v).kept = s.kept := by
  simp [State.flushVector]
@[simp ↓] theorem State.devEvent_kept (s : State) (bit : Nat) : (State.devEvent s bit).kept = s.kept := by
  simp [State.devEvent]
@[simp ↓] theorem State.setMode_kept (s : State) (m : Mode) : (State.setMode s m).kept = s.kept := by
  simp [State.setMode]
@[simp ↓] theorem State.settleMode_kept (s : State) : (State.settleMode s).kept = s.kept := by simp [State.settleMode]
@[simp ↓] theorem State.logUr_kept (s : State) : (State.logUr s).kept = s.kept := by
  first
    | (unfold State.logUr; simp; done)
    | (unfold State.logUr; simp [ident_eq, fuses_eq, pending_eq]; done)
    | (unfold State.logUr; (try simp); (repeat' (split <;> (try simp))); done)
@[simp ↓] theorem State.logAer_kept (s : State) : (State.logAer s).kept = s.kept := by
  unfold State.logAer; simp
@[simp ↓] theorem State.hostWrite_kept (s : State) (a : Nat) (bs : List Byte) : (State.hostWrite s a bs).kept = s.kept := by
  simp [State.hostWrite]
@[simp ↓] theorem State.quiesceRing_kept (s : State) (ring : Nat) : (State.quiesceRing s ring).kept = s.kept := by
  simp [State.quiesceRing]
@[simp ↓] theorem State.sweepSessions_kept (s : State) : (State.sweepSessions s).kept = s.kept := by
  simp [State.sweepSessions]
@[simp ↓] theorem State.putEntry_kept (s : State) (g : Prog) (status : Nat) (len : Nat) (detail : List Byte) (ctag :
    List Byte) : (State.putEntry s g status len detail ctag).kept = s.kept := by
  simp [State.putEntry]
@[simp ↓] theorem State.writeCpl_kept (s : State) (j : CplJob) : (State.writeCpl s j).kept = s.kept := by
  simp [State.writeCpl]
@[simp ↓] theorem State.dropProg_kept (s : State) (g : Prog) : (State.dropProg s g).kept = s.kept := by
  simp [State.dropProg]
@[simp ↓] theorem State.finish_kept (s : State) (j : CplJob) : (State.finish s j).kept = s.kept := by
  simp [State.finish]
@[simp ↓] theorem State.flushCpl_kept (s : State) : (State.flushCpl s).kept = s.kept := by
  unfold State.flushCpl; simp
@[simp ↓] theorem State.finishAll_kept (s : State) (opcode : Nat) (pasture : Nat) (status : Nat) : (State.finishAll s
    opcode pasture status).kept = s.kept := by
  simp [State.finishAll]
@[simp ↓] theorem State.pasEvent_kept (s : State) (p : Nat) (bit : Nat) : (State.pasEvent s p bit).kept = s.kept := by
  simp [State.pasEvent]
@[simp ↓] theorem State.clearDat_kept (s : State) : (State.clearDat s).kept = s.kept := by simp [State.clearDat]
@[simp ↓] theorem State.setPState_kept (s : State) (p : Nat) (st : PState) : (State.setPState s p st).kept = s.kept := by
  unfold State.setPState
  (try simp); (repeat' (split <;> (try simp)))
@[simp ↓] theorem State.setLastStatus_kept (s : State) (p : Nat) (status : Nat) : (State.setLastStatus s p
    status).kept = s.kept := by
  simp [State.setLastStatus]
@[simp ↓] theorem State.freezeAt_kept (s : State) (p : Nat) (cause : Nat) : (State.freezeAt s p cause).kept = s.kept := by
  simp [State.freezeAt]

/-! ### PasBase -/
@[simp ↓] theorem State.enqueue_kept (s : State) (link : Nat) (ctype : Nat) (body : Nat) (data : List (Nat × List
    (BitVec 16))) : (State.enqueue s link ctype body data).kept = s.kept := by
  simp [State.enqueue]
@[simp ↓] theorem State.linkTx_kept (s : State) (link : Nat) (ctype : Nat) (body : Nat) (data : List (Nat × List
    (BitVec 16))) : (State.linkTx s link ctype body data).kept = s.kept := by
  simp [State.linkTx]
@[simp ↓] theorem State.setReport_kept (s : State) (p : Nat) (r : PFault) : (State.setReport s p r).kept = s.kept := by
  simp [State.setReport]
@[simp ↓] theorem State.noteFault_kept (s : State) (p : Nat) (status : Nat) : (State.noteFault s p status).kept =
    s.kept := by
  simp [State.noteFault]
@[simp ↓] theorem State.faultPas_kept (s : State) (p : Nat) (status : Nat) (fromPort : Option Nat) : (State.faultPas s
    p status fromPort).kept = s.kept := by
  simp [State.faultPas]
@[simp ↓] theorem State.faultReported_kept (s : State) (p : Nat) (r : PFault) : (State.faultReported s p r).kept =
    s.kept := by
  simp [State.faultReported]
@[simp ↓] theorem State.undoPad_kept (s : State) (p : Nat) (pair : Nat) (key : Nat) (old : BitVec 16) : (State.undoPad
    s p pair key old).kept = s.kept := by
  simp [State.undoPad]
@[simp ↓] theorem State.undoHbm_kept (s : State) (p : Nat) (e : Nat) (addr : Nat) : (State.undoHbm s p e addr).kept = s.kept := by
  unfold State.undoHbm; simp
@[simp ↓] theorem State.writeDesign_kept (s : State) (p : Nat) (e : Nat) (addr : Nat) (bs : List Byte) : (State.writeDesign s p e addr bs).kept = s.kept := by
  unfold State.writeDesign; simp [ident_eq, fuses_eq, pending_eq]
@[simp ↓] theorem State.logIngress_kept (s : State) (p : Nat) (f : IngressBlock → IngressBlock) : (State.logIngress s
    p f).kept = s.kept := by
  simp [State.logIngress]

/-! ### Scratch -/
@[simp ↓] theorem State.grantPad_kept (s : State) (q : Nat) (k : Nat) (t : Nat) : (State.grantPad s q k t).kept =
    s.kept := by
  unfold State.grantPad
  (try simp); (repeat' (split <;> (try simp)))
@[simp ↓] theorem State.performPad_kept (s : State) (q : Nat) (k : Nat) : (State.performPad s q k).kept = s.kept := by
  unfold State.performPad
  (repeat' first
      | (with_reducible rfl)
      | (rw [State.linkWord_kept _ _ _ _ (by assumption)])
      | (rw [State.takeSource_kept _ _ _ _ (by assumption)])
      | (simp; done)
      | split
      | (refine (foldl_kept _ (fun _ _ => ?_) _ _).trans ?_)
      | (simp))

/-! ### Channels -/
@[simp ↓] theorem State.logWord_kept (s : State) (p : Nat) (e : Nat) (w : BitVec 16) : (State.logWord s p e w).kept =
    s.kept := by
  simp [State.logWord]
theorem State.takeIngress_kept (s : State) (p : Nat) (c : Nat) : ∀ t, (State.takeIngress s p c) = some t → t.2.kept =
    s.kept := by
  intro t h; unfold State.takeIngress at h; (try dsimp only at h)
  (repeat' (split at h)) <;> (first | (simp at h; done) | (cases h; simp; done) | (exact State.takeLinkWord_kept _ _ _ _ h))
@[simp ↓] theorem State.returnCredit_kept (s : State) (low : Nat) (key : Nat) : (State.returnCredit s low key).kept = s.kept := by
  unfold State.returnCredit; simp
theorem State.takeLinkWord_kept (s : State) (p : Nat) (c : Nat) : ∀ t, (State.takeLinkWord s p c) = some t → t.2.kept
    = s.kept := by
  intro t h; unfold State.takeLinkWord at h; (try dsimp only at h)
  (repeat' (split at h)) <;> (first | (simp at h; done) | (cases h; simp; done) | (exact State.takeIngress_kept _ _ _ _ h))
theorem State.takeSource_kept (s : State) (p : Nat) (c : Nat) : ∀ t, (State.takeSource s p c) = some t → t.2.kept =
    s.kept := by
  intro t h; unfold State.takeSource at h; (try dsimp only at h)
  (repeat' (split at h)) <;> (first | exact State.takeIngress_kept _ _ _ _ h | exact State.takeLinkWord_kept _ _ _ _ h | (simp at h; done) | (cases h; simp; done))
@[simp ↓] theorem State.pathTake_kept (s : State) (p : Nat) (c : Nat) : (State.pathTake s p c).kept = s.kept := by
  unfold State.pathTake; dsimp only
  split
  · split
    · rename_i h; simp [State.takeSource_kept _ _ _ _ h]
    · rfl
  · rfl
@[simp ↓] theorem State.noteSend_kept (s : State) (p : Nat) (c : Nat) : (State.noteSend s p c).kept = s.kept := by
  unfold State.noteSend; simp
@[simp ↓] theorem State.settleSends_kept (s : State) (p : Nat) : (State.settleSends s p).kept = s.kept := by
  unfold State.settleSends; simp
@[simp ↓] theorem State.takeForBlock_kept (s : State) (p low c : Nat) (n : Nat) : (State.takeForBlock s p low c n).2.kept = s.kept := by
  induction n generalizing s with
  | zero => rfl
  | succ n ih =>
    unfold State.takeForBlock; dsimp only; split
    · split
      · dsimp only; rw [ih]; simp
      · rfl
    · rfl
@[simp ↓] theorem State.buildBlocks_kept (s : State) (p low : Nat) (n : Nat) : (State.buildBlocks s p low n).2.kept = s.kept := by
  induction n generalizing s with
  | zero => rfl
  | succ n ih =>
    unfold State.buildBlocks; split
    · rfl
    · dsimp only; rw [ih]; simp
@[simp ↓] theorem State.sendGroup_kept (s : State) (p : Nat) (low : Nat) : (State.sendGroup s p low).kept = s.kept := by
  unfold State.sendGroup; simp
@[simp ↓] theorem State.sendWords_kept (s : State) (p : Nat) : (State.sendWords s p).kept = s.kept := by
  unfold State.sendWords; simp
@[simp ↓] theorem State.linkArrives_kept (s : State) (p c : Nat) : (State.linkArrives s p c).kept = s.kept := by
  unfold State.linkArrives; dsimp only; split
  · split
    · rename_i h; simp [State.takeLinkWord_kept _ _ _ _ h]
    · rfl
  · rfl
@[simp ↓] theorem State.wordArrives_kept (s : State) (p : Nat) (c : Nat) : (State.wordArrives s p c).kept = s.kept := by
  unfold State.wordArrives
  dsimp only
  split
  · simp
  · split
    · simp
    · have h0 : (if ((s.pas p).chan c).path.isEmpty then s.pathTake p c else s).kept = s.kept := by simp
      rw [← h0]
      generalize (if ((s.pas p).chan c).path.isEmpty then s.pathTake p c else s) = u
      split
      · rfl
      · (repeat' (split <;> (try simp)))
@[simp ↓] theorem State.chanStep_kept (s : State) (p : Nat) (c : Nat) (had : Bool) : (State.chanStep s p c had).kept =
    s.kept := by
  unfold State.chanStep
  (try simp); (repeat' (split <;> (try simp)))
theorem execChannelWordArrival_kept (pasture : Nat) (chan : Nat) (s : State) : ∀ t, (execChannelWordArrival pasture
    chan s) = .next t → t.kept = s.kept := by
  intro t h; unfold execChannelWordArrival at h
  rw [← Host.Outcome.next.inj h]
  simp

/-! ### DeepMem -/
@[simp ↓] theorem State.dmIssue_kept (s : State) (f : Nat) (p : Nat) : (State.dmIssue s f p).kept = s.kept := by
  unfold State.dmIssue
  (try simp); (repeat' (split <;> (try simp)))
@[simp ↓] theorem State.dmWrite_kept (s : State) (p : Nat) (r : DmReq) : (State.dmWrite s p r).kept = s.kept := by
  unfold State.dmWrite
  simp [ident_eq, fuses_eq, pending_eq]
@[simp ↓] theorem State.dmReturn_kept (s : State) (f : Nat) (p : Nat) (i : Nat) : (State.dmReturn s f p i).kept =
    s.kept := by
  unfold State.dmReturn
  (try simp); (repeat' (split <;> (try simp)))
@[simp ↓] theorem State.dmPerform_kept (s : State) (f : Nat) (p : Nat) (a1 : Nat) : (State.dmPerform s f p a1).kept = s.kept := by
  induction a1 generalizing s f p with
  | zero => simp [State.dmPerform]
  | succ n ih => unfold State.dmPerform; (try simp [ih]); (repeat' (split <;> (try simp [ih])))
@[simp ↓] theorem State.dmSettle_kept (s : State) (p : Nat) : (State.dmSettle s p).kept = s.kept := by
  unfold State.dmSettle; simp
theorem execDmWordReturn_kept (fold : Nat) (entry : Nat) (s : State) : ∀ t, (execDmWordReturn fold entry s) = .next t
    → t.kept = s.kept := by
  intro t h; unfold execDmWordReturn at h
  rw [← Host.Outcome.next.inj h]
  (try simp); (repeat' (split <;> (try simp)))
theorem execDmWriteAccept_kept (fold : Nat) (s : State) : ∀ t, (execDmWriteAccept fold s) = .next t → t.kept = s.kept := by
  intro t h; unfold execDmWriteAccept at h; (try dsimp only at h)
  rw [← Host.Outcome.next.inj h]
  (try simp); (repeat' (split <;> (try simp)))
@[simp ↓] theorem State.dmFlush_kept (s : State) (p : Nat) : (State.dmFlush s p).kept = s.kept := by
  unfold State.dmFlush
  (repeat' first
      | (with_reducible rfl)
      | (rw [State.linkWord_kept _ _ _ _ (by assumption)])
      | (rw [State.takeSource_kept _ _ _ _ (by assumption)])
      | (simp; done)
      | split
      | (refine (foldl_kept _ (fun _ _ => ?_) _ _).trans ?_)
      | (simp [ident_eq, fuses_eq, pending_eq]))

/-! ### Sequencer -/
@[simp ↓] theorem State.prepare_kept (s : State) (f : Nat) (p : Nat) : (State.prepare s f p).kept = s.kept := by
  simp [State.prepare]
@[simp ↓] theorem State.evaluate_kept (s : State) (f : Nat) (p : Nat) : (State.evaluate s f p).kept = s.kept := by
  simp [State.evaluate]
@[simp ↓] theorem State.noteCause_kept (s : State) (f : Nat) (p : Nat) : (State.noteCause s f p).kept = s.kept := by
  simp [State.noteCause]
@[simp ↓] theorem State.markIssued_kept (s : State) (f : Nat) (i : Nat) : (State.markIssued s f i).kept = s.kept := by
  simp [State.markIssued]
@[simp ↓] theorem State.issueRcv_kept (s : State) (f : Nat) (p : Nat) (k : Bool) : (State.issueRcv s f p k).kept =
    s.kept := by
  unfold State.issueRcv
  (try simp); (repeat' (split <;> (try simp)))
@[simp ↓] theorem State.issueSnd_kept (s : State) (f : Nat) (p : Nat) (k : Bool) : (State.issueSnd s f p k).kept =
    s.kept := by
  unfold State.issueSnd
  (try simp); (repeat' (split <;> (try simp)))
@[simp ↓] theorem State.issueDm_kept (s : State) (f : Nat) (p : Nat) : (State.issueDm s f p).kept = s.kept := by
  simp [State.issueDm]
@[simp ↓] theorem State.latchProbes_kept (s : State) (f : Nat) : (State.latchProbes s f).kept = s.kept := by
  simp [State.latchProbes]
@[simp ↓] theorem State.issueProbe_kept (s : State) (f : Nat) : (State.issueProbe s f).kept = s.kept := by
  simp [State.issueProbe]
@[simp ↓] theorem State.issueStallCheck_kept (s : State) (f : Nat) : (State.issueStallCheck s f).kept = s.kept := by
  simp [State.issueStallCheck]
@[simp ↓] theorem State.issueRing_kept (s : State) (f : Nat) : (State.issueRing s f).kept = s.kept := by
  simp [State.issueRing]
@[simp ↓] theorem State.leaveSlot_kept (s : State) (f : Nat) (p : Nat) : (State.leaveSlot s f p).kept = s.kept := by
  unfold State.leaveSlot; simp
@[simp ↓] theorem State.execSlot_kept (s : State) (f : Nat) (p : Nat) : (State.execSlot s f p).kept = s.kept := by
  simp [State.execSlot]
@[simp ↓] theorem bpStep_kept (op : Nat) (fold : Nat) (bp : Nat) (s : State) : (bpStep op fold bp s).kept = s.kept := by
  unfold bpStep
  (try simp); (repeat' (split <;> (try simp)))
theorem execNop_kept (fold : Nat) (bp : Nat) (s : State) : ∀ t, (execNop fold bp s) = .next t → t.kept = s.kept := by
  intro t h; unfold execNop at h
  rw [← Host.Outcome.next.inj h]
  simp
theorem execEval_kept (fold : Nat) (bp : Nat) (s : State) : ∀ t, (execEval fold bp s) = .next t → t.kept = s.kept := by
  intro t h; unfold execEval at h
  rw [← Host.Outcome.next.inj h]
  simp
theorem execEvals_kept (fold : Nat) (bp : Nat) (s : State) : ∀ t, (execEvals fold bp s) = .next t → t.kept = s.kept := by
  intro t h; unfold execEvals at h
  rw [← Host.Outcome.next.inj h]
  simp
theorem execEvale_kept (fold : Nat) (bp : Nat) (s : State) : ∀ t, (execEvale fold bp s) = .next t → t.kept = s.kept := by
  intro t h; unfold execEvale at h
  rw [← Host.Outcome.next.inj h]
  simp
theorem execCheck_kept (fold : Nat) (bp : Nat) (s : State) : ∀ t, (execCheck fold bp s) = .next t → t.kept = s.kept := by
  intro t h; unfold execCheck at h
  rw [← Host.Outcome.next.inj h]
  simp
theorem execCopy_kept (fold : Nat) (bp : Nat) (s : State) : ∀ t, (execCopy fold bp s) = .next t → t.kept = s.kept := by
  intro t h; unfold execCopy at h
  rw [← Host.Outcome.next.inj h]
  simp
theorem execXonly_kept (fold : Nat) (bp : Nat) (s : State) : ∀ t, (execXonly fold bp s) = .next t → t.kept = s.kept := by
  intro t h; unfold execXonly at h
  rw [← Host.Outcome.next.inj h]
  simp
@[simp ↓] theorem spStep_kept (op : SpOp) (fold : Nat) (b : Bool) (s : State) : (spStep op fold b s).kept = s.kept := by
  unfold spStep
  (try simp); (repeat' (split <;> (try simp)))
theorem execScratchpadRd_kept (fold : Nat) (b : Bool) (s : State) : ∀ t, (execScratchpadRd fold b s) = .next t →
    t.kept = s.kept := by
  intro t h; unfold execScratchpadRd at h
  rw [← Host.Outcome.next.inj h]
  simp
theorem execScratchpadWr_kept (fold : Nat) (b : Bool) (s : State) : ∀ t, (execScratchpadWr fold b s) = .next t →
    t.kept = s.kept := by
  intro t h; unfold execScratchpadWr at h
  rw [← Host.Outcome.next.inj h]
  simp
theorem execScratchpadSet_kept (fold : Nat) (b : Bool) (s : State) : ∀ t, (execScratchpadSet fold b s) = .next t →
    t.kept = s.kept := by
  intro t h; unfold execScratchpadSet at h
  rw [← Host.Outcome.next.inj h]
  simp
theorem execScratchpadClr_kept (fold : Nat) (b : Bool) (s : State) : ∀ t, (execScratchpadClr fold b s) = .next t →
    t.kept = s.kept := by
  intro t h; unfold execScratchpadClr at h
  rw [← Host.Outcome.next.inj h]
  simp
theorem execScratchpadWide_kept (fold : Nat) (b : Bool) (s : State) : ∀ t, (execScratchpadWide fold b s) = .next t →
    t.kept = s.kept := by
  intro t h; unfold execScratchpadWide at h
  rw [← Host.Outcome.next.inj h]
  simp
theorem execScratchpadAccess_kept (pair : Nat) (pad : Nat) (s : State) : ∀ t, (execScratchpadAccess pair pad s) =
    .next t → t.kept = s.kept := by
  intro t h; unfold execScratchpadAccess at h
  rw [← Host.Outcome.next.inj h]
  simp
@[simp ↓] theorem issueStep_kept (f : Nat) (has : Fold → Bool) (act : State → Nat → State) (s : State) (hact : ∀ x0
    x1, (act x0 x1).kept = x0.kept) : (issueStep f has act s).kept = s.kept := by
  unfold issueStep
  (try simp); (repeat' (split <;> (try simp [hact])))
theorem execChannelSend_kept (fold : Nat) (k : Bool) (s : State) : ∀ t, (execChannelSend fold k s) = .next t → t.kept
    = s.kept := by
  intro t h; unfold execChannelSend at h
  rw [← Host.Outcome.next.inj h]
  simp
theorem execChannelReceive_kept (fold : Nat) (k : Bool) (s : State) : ∀ t, (execChannelReceive fold k s) = .next t →
    t.kept = s.kept := by
  intro t h; unfold execChannelReceive at h
  rw [← Host.Outcome.next.inj h]
  simp
theorem execDmRd_kept (fold : Nat) (s : State) : ∀ t, (execDmRd fold s) = .next t → t.kept = s.kept := by
  intro t h; unfold execDmRd at h
  rw [← Host.Outcome.next.inj h]
  simp
theorem execDmWr_kept (fold : Nat) (s : State) : ∀ t, (execDmWr fold s) = .next t → t.kept = s.kept := by
  intro t h; unfold execDmWr at h
  rw [← Host.Outcome.next.inj h]
  simp
theorem execDmWrm_kept (fold : Nat) (s : State) : ∀ t, (execDmWrm fold s) = .next t → t.kept = s.kept := by
  intro t h; unfold execDmWrm at h
  rw [← Host.Outcome.next.inj h]
  simp
theorem execStateFinal_kept (fold : Nat) (s : State) : ∀ t, (execStateFinal fold s) = .next t → t.kept = s.kept := by
  intro t h; unfold execStateFinal at h
  rw [← Host.Outcome.next.inj h]
  simp
@[simp ↓] theorem State.barrierProbe_kept (s : State) (f : Nat) : (State.barrierProbe s f).kept = s.kept := by
  simp [State.barrierProbe]
theorem execProbeLatch_kept (fold : Nat) (s : State) : ∀ t, (execProbeLatch fold s) = .next t → t.kept = s.kept := by
  intro t h; unfold execProbeLatch at h
  rw [← Host.Outcome.next.inj h]
  (repeat' (split <;> (try simp)))
theorem execStallCheck_kept (fold : Nat) (s : State) : ∀ t, (execStallCheck fold s) = .next t → t.kept = s.kept := by
  intro t h; unfold execStallCheck at h
  rw [← Host.Outcome.next.inj h]
  simp
@[simp ↓] theorem State.foldStep_kept (s : State) (f : Nat) : (State.foldStep s f).kept = s.kept := by
  unfold State.foldStep
  (try simp); (repeat' (split <;> (try simp)))
@[simp ↓] theorem State.grantStep_kept (s : State) (q : Nat) : (State.grantStep s q).kept = s.kept := by
  unfold State.grantStep
  (repeat' first
      | (with_reducible rfl)
      | (rw [State.linkWord_kept _ _ _ _ (by assumption)])
      | (rw [State.takeSource_kept _ _ _ _ (by assumption)])
      | (simp; done)
      | split
      | (refine (foldl_kept _ (fun _ _ => ?_) _ _).trans ?_)
      | (simp))
@[simp ↓] theorem State.pairStep_kept (s : State) (q : Nat) : (State.pairStep s q).kept = s.kept := by
  simp [State.pairStep]

end Sys2Proof.Machine
end

