-- ==== Sys2Proof/Laws/KeptRun.lean ====
section
/-!
SUPPORT. `kept`, the identity, the fuses and the waiting commands, through flows, acquisition, barriers, reset, power, edge blocks and completions.
-/

namespace Sys2Proof.Machine
open Sys2Proof

/-! ### Flows -/
@[simp ↓] theorem State.pushEntry_kept (s : State) (q : Nat) (bs : List Byte) : (State.pushEntry s q bs).kept = s.kept := by
  unfold State.pushEntry
  simp [ident_eq, fuses_eq, pending_eq]
@[simp ↓] theorem State.popEntry_kept (s : State) (q : Nat) : (State.popEntry s q).2.kept = s.kept := by
  simp [State.popEntry]
@[simp ↓] theorem State.makeReady_kept (s : State) (t : Nat) : (State.makeReady s t).kept = s.kept := by
  unfold State.makeReady
  (try simp); (repeat' (split <;> (try simp)))
@[simp ↓] theorem State.setEarlySat_kept (s : State) (p : Nat) : (State.setEarlySat s p).kept = s.kept := by
  simp [State.setEarlySat]
@[simp ↓] theorem State.setHostErr_kept (s : State) (p : Nat) : (State.setHostErr s p).kept = s.kept := by
  simp [State.setHostErr]
@[simp ↓] theorem State.taskDec_kept (s : State) (t : Nat) : (State.taskDec s t).kept = s.kept := by
  unfold State.taskDec
  (try simp); (repeat' (split <;> (try simp)))
@[simp ↓] theorem State.queueEvent_kept (s : State) (q : Nat) : (State.queueEvent s q).kept = s.kept := by
  simp [State.queueEvent]
@[simp ↓] theorem State.rearm_kept (s : State) (t : Nat) : (State.rearm s t).kept = s.kept := by simp [State.rearm]
@[simp ↓] theorem State.tallyRun_kept (s : State) (t : Nat) (moved : Nat) (ns : Nat) (engine : Nat) : (State.tallyRun
    s t moved ns engine).kept = s.kept := by
  simp [State.tallyRun]
@[simp ↓] theorem State.unpark_kept (s : State) (t : Nat) : (State.unpark s t).kept = s.kept := by simp [State.unpark]
@[simp ↓] theorem State.headAdvanced_kept (s : State) (q : Nat) : (State.headAdvanced s q).kept = s.kept := by
  simp [State.headAdvanced]
@[simp ↓] theorem State.doorbell_kept (s : State) (queue : Nat) (size : Nat) (value : Nat) : (State.doorbell s queue
    size value).kept = s.kept := by
  simp [State.doorbell]
@[simp ↓] theorem State.modFlowPort_kept (s : State) (p : Nat) (f : FlowPort) (g : FlowPort → FlowPort) :
    (State.modFlowPort s p f g).kept = s.kept := by
  simp [State.modFlowPort]
@[simp ↓] theorem State.portFault_kept (s : State) (p : Nat) (f : FlowPort) (take : Bool) : (State.portFault s p f
    take).kept = s.kept := by
  simp [State.portFault]
@[simp ↓] theorem State.takeMsgs_kept (s : State) (p : Nat) (f : FlowPort) (win : Nat) (m : Nat) (a5 : Nat) :
    (State.takeMsgs s p f win m a5).1.kept = s.kept := by
  induction a5 generalizing s m with
  | zero => rfl
  | succ n ih => unfold State.takeMsgs; dsimp only; (repeat' split) <;> simp [ih]
@[simp ↓] theorem State.takePort_kept (s : State) (p : Nat) (f : FlowPort) : (State.takePort s p f).1.kept = s.kept := by
  unfold State.takePort; dsimp only
  split
  · rfl
  · split
    · simp
    · split <;> simp [ite_kept]
@[simp ↓] theorem State.takePorts_kept (s : State) (p : Nat) (a2 : List FlowPort) : (State.takePorts s p a2).1.kept =
    s.kept := by
  induction a2 generalizing s with
  | nil => rfl
  | cons f r ih => unfold State.takePorts; dsimp only; rw [ih]; simp
@[simp ↓] theorem State.flowTake_kept (s : State) (p : Nat) : (State.flowTake s p).kept = s.kept := by
  simp [State.flowTake]
theorem execFlowTake_kept (pasture : Nat) (s : State) : ∀ t, (execFlowTake pasture s) = .next t → t.kept = s.kept := by
  intro t h; unfold execFlowTake at h
  rw [← Host.Outcome.next.inj h]
  simp
@[simp ↓] theorem State.admitEntry_kept (s : State) (p : Nat) (f : FlowPort) (win : Nat) (m : Nat) (bs : List Byte) :
    (State.admitEntry s p f win m bs).kept = s.kept := by
  simp [State.admitEntry]
@[simp ↓] theorem State.admitLive_kept (s : State) (p : Nat) (f : FlowPort) (win : Nat) (admitted : Nat) (taken : Nat)
    (a6 : Nat) : (State.admitLive s p f win admitted taken a6).1.kept = s.kept := by
  induction a6 generalizing s admitted with
  | zero => rfl
  | succ n ih =>
    unfold State.admitLive; dsimp only
    split
    · rfl
    · simp [ih]
@[simp ↓] theorem State.admitLogged_kept (s : State) (p : Nat) (f : FlowPort) (win : Nat) (admitted : Nat) (es : List
    (List Byte)) : (State.admitLogged s p f win admitted es).kept = s.kept := by
  simp [State.admitLogged]
@[simp ↓] theorem State.admitPort_kept (s : State) (p : Nat) (f : FlowPort) : (State.admitPort s p f).kept = s.kept := by
  unfold State.admitPort
  (try simp); (repeat' (split <;> (try simp)))
@[simp ↓] theorem State.flowAdmit_kept (s : State) (p : Nat) : (State.flowAdmit s p).kept = s.kept := by
  simp [State.flowAdmit]
theorem execTaskDispatch_kept (engine : Nat) (s : State) : ∀ t, (execTaskDispatch engine s) = .next t → t.kept = s.kept := by
  intro t h; unfold execTaskDispatch at h; (try dsimp only at h)
  rw [← Host.Outcome.next.inj h]
  (try simp); (repeat' (split <;> (try simp)))
@[simp ↓] theorem State.moveEntry_kept (s : State) (x : Task) (p : Nat) (i : Nat) : (State.moveEntry s x p i).kept =
    s.kept := by
  simp [State.moveEntry]
@[simp ↓] theorem State.advanceHead_kept (s : State) (q : Nat) (n : Nat) : (State.advanceHead s q n).kept = s.kept := by
  simp [State.advanceHead]
@[simp ↓] theorem State.resumeTake_kept (s : State) (p : Nat) (q : Nat) : (State.resumeTake s p q).kept = s.kept := by
  simp [State.resumeTake]
@[simp ↓] theorem State.runEffects_kept (s : State) (p : Nat) (t : Nat) (n : Nat) (ns : Nat) (engine : Nat) (failed :
    Bool) : (State.runEffects s p t n ns engine failed).kept = s.kept := by
  simp [State.runEffects]
@[simp ↓] theorem State.drainRun_kept (s : State) (p : Nat) (t : Nat) (n : Nat) (engine : Nat) (ns : Nat) : (State.drainRun s p t n engine ns).kept = s.kept := by
  unfold State.drainRun; simp
theorem execTaskRunComplete_kept (engine : Nat) (hostErrorAt : Option Nat) (ns : Nat) (s : State) : ∀ t,
    (execTaskRunComplete engine hostErrorAt ns s) = .next t → t.kept = s.kept := by
  intro t h; unfold execTaskRunComplete at h; (try dsimp only at h)
  rw [← Host.Outcome.next.inj h]
  (try simp); (repeat' (split <;> (try simp)))

/-! ### Acq -/
@[simp ↓] theorem State.putRecord_kept (s : State) (p : Nat) (bs : List Byte) : (State.putRecord s p bs).kept = s.kept := by
  unfold State.putRecord
  simp [ident_eq, fuses_eq, pending_eq]
@[simp ↓] theorem State.putSample_kept (s : State) (p : Nat) (h : HeldRec) (blaze : Bool) (post : Bool) (forced :
    Bool) : (State.putSample s p h blaze post forced).kept = s.kept := by
  simp [State.putSample]
@[simp ↓] theorem State.putMarker_kept (s : State) (p : Nat) (c : Capture) : (State.putMarker s p c).kept = s.kept := by
  simp [State.putMarker]
@[simp ↓] theorem State.acqVector_kept (s : State) (p : Nat) : (State.acqVector s p).kept = s.kept := by
  simp [State.acqVector]
@[simp ↓] theorem State.acqDone_kept (s : State) (p : Nat) : (State.acqDone s p).kept = s.kept := by
  simp [State.acqDone]
@[simp ↓] theorem State.acqArm_kept (s : State) (p : Nat) : (State.acqArm s p).kept = s.kept := by simp [State.acqArm]
@[simp ↓] theorem State.segmentComplete_kept (s : State) (p : Nat) : (State.segmentComplete s p).kept = s.kept := by
  simp [State.segmentComplete]
@[simp ↓] theorem State.landSample_kept (s : State) (p : Nat) (h : HeldRec) (fires : Bool) (forced : Bool) :
    (State.landSample s p h fires forced).kept = s.kept := by
  unfold State.landSample
  (try simp); (repeat' (split <;> (try simp)))
@[simp ↓] theorem State.landHeld_kept (s : State) (p : Nat) : (State.landHeld s p).kept = s.kept := by
  unfold State.landHeld; simp
@[simp ↓] theorem State.acqOne_kept (s : State) (p : Nat) : (State.acqOne s p).kept = s.kept := by
  unfold State.acqOne
  (try simp); (repeat' (split <;> (try simp)))
@[simp ↓] theorem State.acqDrain_kept (s : State) (p : Nat) : (State.acqDrain s p).kept = s.kept := by
  simp [State.acqDrain]
@[simp ↓] theorem State.acqRelease_kept (s : State) (p : Nat) (e : Nat) (t : Option Nat) : (State.acqRelease s p e
    t).kept = s.kept := by
  simp [State.acqRelease]
theorem execAcqCapture_kept (pasture : Nat) (s : State) : ∀ t, (execAcqCapture pasture s) = .next t → t.kept = s.kept := by
  intro t h; unfold execAcqCapture at h
  rw [← Host.Outcome.next.inj h]
  simp
@[simp ↓] theorem State.acqWrap_kept (s : State) (p : Nat) : (State.acqWrap s p).kept = s.kept := by
  simp [State.acqWrap]
@[simp ↓] theorem State.snapTruncate_kept (s : State) (p : Nat) : (State.snapTruncate s p).kept = s.kept := by
  simp [State.snapTruncate]
@[simp ↓] theorem State.snapStart_kept (s : State) (p : Nat) (r : Nat) : (State.snapStart s p r).kept = s.kept := by
  simp [State.snapStart]
theorem execSnapshotComplete_kept (pasture : Nat) (s : State) : ∀ t, (execSnapshotComplete pasture s) = .next t →
    t.kept = s.kept := by
  intro t h; unfold execSnapshotComplete at h; (try dsimp only at h)
  rw [← Host.Outcome.next.inj h]
  simp [ident_eq, fuses_eq, pending_eq]
@[simp ↓] theorem State.snapClose_kept (s : State) (p : Nat) : (State.snapClose s p).kept = s.kept := by
  unfold State.snapClose
  simp [ident_eq, fuses_eq, pending_eq]
@[simp ↓] theorem State.snapLog_kept (s : State) (p : Nat) (b : IngressBlock) : (State.snapLog s p b).kept = s.kept := by
  unfold State.snapLog
  simp [ident_eq, fuses_eq, pending_eq]
@[simp ↓] theorem State.snapAbandon_kept (s : State) (p : Nat) (r : Nat) : (State.snapAbandon s p r).kept = s.kept := by
  unfold State.snapAbandon; simp

/-! ### Barrier -/
@[simp ↓] theorem State.handover_kept (s : State) (p : Nat) (e : Nat) : (State.handover s p e).kept = s.kept := by
  unfold State.handover
  (try simp); (repeat' (split <;> (try simp)))
@[simp ↓] theorem State.assertStop_kept (s : State) (p : Nat) : (State.assertStop s p).kept = s.kept := by
  simp [State.assertStop]
@[simp ↓] theorem State.judgeStops_kept (s : State) (p : Nat) : (State.judgeStops s p).kept = s.kept := by
  unfold State.judgeStops
  (try simp); (repeat' (split <;> (try simp)))
@[simp ↓] theorem State.stopNow_kept (s : State) (p : Nat) : (State.stopNow s p).kept = s.kept := by
  simp [State.stopNow]
@[simp ↓] theorem State.openRing_kept (s : State) (p : Nat) (b : Nat) : (State.openRing s p b).kept = s.kept := by
  simp [State.openRing]
@[simp ↓] theorem State.trimLog_kept (s : State) (p : Nat) (r : Nat) : (State.trimLog s p r).kept = s.kept := by
  unfold State.trimLog; simp
@[simp ↓] theorem State.openBlock_kept (s : State) (p : Nat) (b : Nat) (ring : Bool) : (State.openBlock s p b
    ring).kept = s.kept := by
  simp [State.openBlock]
@[simp ↓] theorem State.capture_kept (s : State) (p : Nat) (e : Nat) (asserts : Nat) (stallMax : Nat) : (State.capture
    s p e asserts stallMax).kept = s.kept := by
  simp [State.capture]
@[simp ↓] theorem State.promote_kept (s : State) (p : Nat) : (State.promote s p).kept = s.kept := by
  simp [State.promote]
@[simp ↓] theorem State.countRing_kept (s : State) (p : Nat) (cause : Nat) : (State.countRing s p cause).kept = s.kept := by
  simp [State.countRing]
@[simp ↓] theorem State.releaseBarrier_kept (s : State) (p : Nat) (ring : Bool) (kAnnounced : Bool) (trig : Bool) :
    (State.releaseBarrier s p ring kAnnounced trig).kept = s.kept := by
  unfold State.releaseBarrier
  (try simp); (repeat' (split <;> (try simp)))
@[simp ↓] theorem State.releaseDown_kept (s : State) (p : Nat) (body : Nat) : (State.releaseDown s p body).kept = s.kept := by
  unfold State.releaseDown; simp
@[simp ↓] theorem State.rootRelease_kept (s : State) (p : Nat) : (State.rootRelease s p).kept = s.kept := by
  unfold State.rootRelease
  (try simp); (repeat' (split <;> (try simp)))
@[simp ↓] theorem State.memberRelease_kept (s : State) (p : Nat) : (State.memberRelease s p).kept = s.kept := by
  unfold State.memberRelease; (try simp); (repeat' (split <;> (try simp)))
@[simp ↓] theorem State.tryRelease_kept (s : State) (p : Nat) : (State.tryRelease s p).kept = s.kept := by
  simp [State.tryRelease]
@[simp ↓] theorem State.barrierStep_kept (s : State) (p : Nat) : (State.barrierStep s p).kept = s.kept := by
  unfold State.barrierStep
  (try simp); (repeat' (split <;> (try simp)))
@[simp ↓] theorem State.crossStep_kept (s : State) (p : Nat) : (State.crossStep s p).kept = s.kept := by
  unfold State.crossStep; (try simp); (repeat' (split <;> (try simp)))
theorem execBarrierRelease_kept (pasture : Nat) (s : State) : ∀ t, (execBarrierRelease pasture s) = .next t → t.kept =
    s.kept := by
  intro t h; unfold execBarrierRelease at h
  rw [← Host.Outcome.next.inj h]
  simp
@[simp ↓] theorem State.sendArrive_kept (s : State) (p : Nat) : (State.sendArrive s p).kept = s.kept := by
  unfold State.sendArrive
  (try simp); (repeat' (split <;> (try simp)))
@[simp ↓] theorem State.barrierReached_kept (s : State) (p : Nat) : (State.barrierReached s p).kept = s.kept := by
  simp [State.barrierReached]
@[simp ↓] theorem State.closeEcycle_kept (s : State) (p : Nat) : (State.closeEcycle s p).kept = s.kept := by
  simp [State.closeEcycle]
@[simp ↓] theorem State.arrive_kept (s : State) (f : Nat) (p : Nat) : (State.arrive s f p).kept = s.kept := by
  simp [State.arrive]
theorem execBarrierArrival_kept (fold : Nat) (s : State) : ∀ t, (execBarrierArrival fold s) = .next t → t.kept = s.kept := by
  intro t h; unfold execBarrierArrival at h; (try dsimp only at h)
  rw [← Host.Outcome.next.inj h]
  (try simp); (repeat' (split <;> (try simp)))
@[simp ↓] theorem State.applyUndo_kept (s : State) (a1 : Undo) : (State.applyUndo s a1).kept = s.kept := by
  unfold State.applyUndo
  (try simp [ident_eq, fuses_eq, pending_eq]); (repeat' (split <;> (try simp)))
@[simp ↓] theorem State.returnEvent_kept (s : State) (p : Nat) : (State.returnEvent s p).kept = s.kept := by
  unfold State.returnEvent; simp
@[simp ↓] theorem State.rollback_kept (s : State) (p : Nat) (useK : Bool) : (State.rollback s p useK).kept = s.kept := by
  unfold State.rollback; simp
@[simp ↓] theorem State.quiesce_kept (s : State) (p : Nat) : (State.quiesce s p).kept = s.kept := by
  simp [State.quiesce]
@[simp ↓] theorem State.resend_kept (s : State) (p : Nat) (r : Nat) : (State.resend s p r).kept = s.kept := by
  simp [State.resend]
@[simp ↓] theorem State.replayFrom_kept (s : State) (p : Nat) (r : Nat) : (State.replayFrom s p r).kept = s.kept := by
  simp [State.replayFrom]
@[simp ↓] theorem State.recordStops_kept (s : State) (p : Nat) : (State.recordStops s p).kept = s.kept := by
  simp [State.recordStops]
@[simp ↓] theorem State.rewriteStores_kept (s : State) (p : Nat) : (State.rewriteStores s p).kept = s.kept := by
  simp [State.rewriteStores]
@[simp ↓] theorem State.restoreRing_kept (s : State) (p : Nat) (useK : Bool) : (State.restoreRing s p useK).kept = s.kept := by
  unfold State.restoreRing; simp
@[simp ↓] theorem State.chooseStep_kept (s : State) (p : Nat) : (State.chooseStep s p).kept = s.kept := by
  unfold State.chooseStep; (try simp); (repeat' (split <;> (try simp)))
@[simp ↓] theorem State.reportIn_kept (s : State) (p : Nat) (child : Nat) (body : Nat) : (State.reportIn s p child body).kept = s.kept := by
  unfold State.reportIn; simp
@[simp ↓] theorem State.choiceIn_kept (s : State) (p : Nat) (body : Nat) : (State.choiceIn s p body).kept = s.kept := by
  unfold State.choiceIn; simp
@[simp ↓] theorem State.stopPasture_kept (s : State) (p : Nat) (status : Nat) (faults : Nat) : (State.stopPasture s p status faults).kept = s.kept := by
  unfold State.stopPasture; (try simp); (repeat' (split <;> (try simp)))
@[simp ↓] theorem State.holdStop_kept (s : State) (p : Nat) : (State.holdStop s p).kept = s.kept := by
  unfold State.holdStop; simp
@[simp ↓] theorem State.beginRecovery_kept (s : State) (p : Nat) (status : Nat) (faults : Nat) : (State.beginRecovery s p status faults).kept = s.kept := by
  unfold State.beginRecovery; simp
@[simp ↓] theorem State.sendFault_kept (s : State) (p : Nat) (status : Nat) (fromPort : Option Nat) : (State.sendFault
    s p status fromPort).kept = s.kept := by
  simp [State.sendFault]
@[simp ↓] theorem State.controlFault_kept (s : State) (p : Nat) (status : Nat) (fromPort : Option Nat) :
    (State.controlFault s p status fromPort).kept = s.kept := by
  unfold State.controlFault
  (try simp); (repeat' (split <;> (try simp)))
@[simp ↓] theorem State.dipFault_kept (s : State) (p : Nat) (status : Nat) (fromPort : Option Nat) : (State.dipFault s p status fromPort).kept = s.kept := by
  unfold State.dipFault; (try simp); (repeat' (split <;> (try simp)))
@[simp ↓] theorem State.markSupply_kept (s : State) (p : Nat) : (State.markSupply s p).kept = s.kept := by
  simp [State.markSupply]
@[simp ↓] theorem State.settleFaults_kept (s : State) : (State.settleFaults s).kept = s.kept := by
  simp [State.settleFaults]
@[simp ↓] theorem State.leaveRecover_kept (s : State) : (State.leaveRecover s).kept = s.kept := by
  simp [State.leaveRecover]
@[simp ↓] theorem State.endRecovery_kept (s : State) (p : Nat) (ns : Nat) (r : Recovery) : (State.endRecovery s p ns
    r).kept = s.kept := by
  simp [State.endRecovery]
theorem execRecoveryComplete_kept (pasture : Nat) (durationNs : Nat) (s : State) : ∀ t, (execRecoveryComplete pasture
    durationNs s) = .next t → t.kept = s.kept := by
  intro t h; unfold execRecoveryComplete at h
  rw [← Host.Outcome.next.inj h]
  (repeat' (split <;> (try simp)))
@[simp ↓] theorem State.imageCopyFault_kept (s : State) (f : Nat) (slot : Nat) : (State.imageCopyFault s f slot).kept
    = s.kept := by
  unfold State.imageCopyFault
  (try simp); (repeat' (split <;> (try simp)))
@[simp ↓] theorem State.storeDbe_kept (s : State) (f : Nat) (slot : Nat) (bp : Option Nat) (byScrub : Bool) :
    (State.storeDbe s f slot bp byScrub).kept = s.kept := by
  unfold State.storeDbe
  (try simp); (repeat' (split <;> (try simp)))
@[simp ↓] theorem State.storeSbe_kept (s : State) (f : Nat) (slot : Nat) (bp : Option Nat) : (State.storeSbe s f slot
    bp).kept = s.kept := by
  simp [State.storeSbe]
theorem execControlFault_kept (src : FaultSource) (s : State) : ∀ t, (execControlFault src s) = .next t → t.kept =
    s.kept := by
  intro t h; unfold execControlFault at h
  rw [← Host.Outcome.next.inj h]
  (repeat' (split <;> (try simp)))
@[simp ↓] theorem State.hostRing_kept (s : State) (p : Nat) : (State.hostRing s p).kept = s.kept := by
  simp [State.hostRing]
@[simp ↓] theorem State.hostWrote_kept (s : State) (p : Nat) : (State.hostWrote s p).kept = s.kept := by
  unfold State.hostWrote; (try simp); (repeat' (split <;> (try simp)))
@[simp ↓] theorem State.ringComplete_kept (s : State) (p : Nat) : (State.ringComplete s p).kept = s.kept := by
  simp [State.ringComplete]
theorem execRingComplete_kept (pasture : Nat) (s : State) : ∀ t, (execRingComplete pasture s) = .next t → t.kept =
    s.kept := by
  intro t h; unfold execRingComplete at h
  rw [← Host.Outcome.next.inj h]
  simp
@[simp ↓] theorem State.overrun_kept (s : State) (p : Nat) : (State.overrun s p).kept = s.kept := by
  simp [State.overrun]
@[simp ↓] theorem State.cycStart_kept (s : State) (p : Nat) : (State.cycStart s p).kept = s.kept := by
  unfold State.cycStart
  (try simp); (repeat' (split <;> (try simp)))
@[simp ↓] theorem State.cycEdge_kept (s : State) (port : Nat) : (State.cycEdge s port).kept = s.kept := by
  unfold State.cycEdge; simp
theorem execCycStart_kept (port : Nat) (s : State) : ∀ t, (execCycStart port s) = .next t → t.kept = s.kept := by
  intro t h; unfold execCycStart at h; (try dsimp only at h)
  rw [← Host.Outcome.next.inj h]
  simp
@[simp ↓] theorem State.deadlockReport_kept (s : State) (p : Nat) (f : Nat) (w : Option Wait) : (State.deadlockReport
    s p f w).kept = s.kept := by
  simp [State.deadlockReport]
@[simp ↓] theorem State.ownReport_kept (s : State) (p : Nat) : (State.ownReport s p).kept = s.kept := by
  unfold State.ownReport; (try simp); (repeat' (split <;> (try simp)))
@[simp ↓] theorem State.watchdogExpire_kept (s : State) (p : Nat) : (State.watchdogExpire s p).kept = s.kept := by
  unfold State.watchdogExpire
  (try simp); (repeat' (split <;> (try simp)))
theorem execWatchdogExpiry_kept (pasture : Nat) (s : State) : ∀ t, (execWatchdogExpiry pasture s) = .next t → t.kept =
    s.kept := by
  intro t h; unfold execWatchdogExpiry at h; (try dsimp only at h)
  rw [← Host.Outcome.next.inj h]
  simp
@[simp ↓] theorem State.watchdogTick_kept (s : State) (p : Nat) : (State.watchdogTick s p).kept = s.kept := by
  simp [State.watchdogTick]
theorem execScrubRead_kept (fold : Nat) (found : List StoreErr) (s : State) : ∀ t, (execScrubRead fold found s) = .next t → t.kept = s.kept := by
  intro t h; unfold execScrubRead at h; (try dsimp only at h)
  rw [← Host.Outcome.next.inj h]
  (try simp); (repeat' (split <;> (try simp)))
theorem execScrubRewrite_kept (fold : Nat) (copyGood : Bool) (s : State) : ∀ t, (execScrubRewrite fold copyGood s) =
    .next t → t.kept = s.kept := by
  intro t h; unfold execScrubRewrite at h; (try dsimp only at h)
  rw [← Host.Outcome.next.inj h]
  (try simp); (repeat' (split <;> (try simp)))
@[simp ↓] theorem State.clearAssert_kept (s : State) (p : Nat) : (State.clearAssert s p).kept = s.kept := by
  simp [State.clearAssert]

/-! ### Reset -/
@[simp ↓] theorem State.wipeUnits_kept (s : State) : (State.wipeUnits s).kept = s.kept := by
  unfold State.wipeUnits
  simp [ident_eq, fuses_eq, pending_eq]
@[simp ↓] theorem State.endSessions_kept (s : State) : (State.endSessions s).kept = s.kept := by
  simp [State.endSessions]
@[simp ↓] theorem State.resetUnits_kept (s : State) : (State.resetUnits s).kept = s.kept := by
  unfold State.resetUnits
  simp [ident_eq, fuses_eq, pending_eq]
@[simp ↓] theorem State.deviceReset_kept (s : State) (src : Nat) (failure : Option (Nat × Nat)) : (State.deviceReset s
    src failure).kept = s.kept := by
  unfold State.deviceReset
  simp [ident_eq, fuses_eq, pending_eq]
@[simp ↓] theorem State.powerOn_kept (s : State) : (State.powerOn s).kept = s.kept := by
  unfold State.powerOn
  simp [ident_eq, fuses_eq, pending_eq]
theorem execPor_kept (s : State) : ∀ t, (execPor s) = .next t → t.kept = s.kept := by
  intro t h; unfold execPor at h
  rw [← Host.Outcome.next.inj h]
  simp
theorem execBod_kept (rail : Rail) (s : State) : ∀ t, (execBod rail s) = .next t → t.kept = s.kept := by
  intro t h; unfold execBod at h
  rw [← Host.Outcome.next.inj h]
  simp
theorem execResetN_kept (lowNs : Nat) (s : State) : ∀ t, (execResetN lowNs s) = .next t → t.kept = s.kept := by
  intro t h; unfold execResetN at h; (try dsimp only at h)
  rw [← Host.Outcome.next.inj h]
  simp
theorem execDbgreq_kept (s : State) : ∀ t, (execDbgreq s) = .next t → t.kept = s.kept := by
  intro t h; unfold execDbgreq at h
  rw [← Host.Outcome.next.inj h]
  simp
theorem execClkfail_kept (island : Nat) (s : State) : ∀ t, (execClkfail island s) = .next t → t.kept = s.kept := by
  intro t h; unfold execClkfail at h; (try dsimp only at h)
  rw [← Host.Outcome.next.inj h]
  simp
theorem execBootWatchdog_kept (s : State) : ∀ t, (execBootWatchdog s) = .next t → t.kept = s.kept := by
  intro t h; unfold execBootWatchdog at h
  rw [← Host.Outcome.next.inj h]
  simp

/-! ### Power -/
@[simp ↓] theorem State.commitUnit_kept (s : State) (d : Nat) (target : PowerState) : (State.commitUnit s d
    target).kept = s.kept := by
  unfold State.commitUnit
  (try simp); (repeat' (split <;> (try simp)))
@[simp ↓] theorem State.commitEntry_kept (s : State) (d : Nat) (target : PowerState) (wakeAfter : Bool) :
    (State.commitEntry s d target wakeAfter).kept = s.kept := by
  simp [State.commitEntry]
@[simp ↓] theorem State.beginEntry_kept (s : State) (d : Nat) (target : PowerState) : (State.beginEntry s d
    target).kept = s.kept := by
  unfold State.beginEntry
  (try simp); (repeat' (split <;> (try simp)))
@[simp ↓] theorem State.demandWake_kept (s : State) (d : Nat) : (State.demandWake s d).kept = s.kept := by
  unfold State.demandWake
  (try simp); (repeat' (split <;> (try simp)))
@[simp ↓] theorem State.demandWakes_kept (s : State) (l : List Nat) : (State.demandWakes s l).kept = s.kept := by
  simp [State.demandWakes]
@[simp ↓] theorem State.refuseEntries_kept (s : State) (code : Nat) : (State.refuseEntries s code).kept = s.kept := by
  simp [State.refuseEntries]
theorem execDomainDecision_kept (domain : Nat) (tNextUs : Nat) (s : State) : ∀ t, (execDomainDecision domain tNextUs
    s) = .next t → t.kept = s.kept := by
  intro t h; unfold execDomainDecision at h; (try dsimp only at h)
  rw [← Host.Outcome.next.inj h]
  (try simp); (repeat' (split <;> (try simp)))
theorem execDrainComplete_kept (domain : Nat) (s : State) : ∀ t, (execDrainComplete domain s) = .next t → t.kept =
    s.kept := by
  intro t h; unfold execDrainComplete at h
  rw [← Host.Outcome.next.inj h]
  (repeat' (split <;> (try simp)))
theorem execDrainTimeout_kept (domain : Nat) (init : Nat) (s : State) : ∀ t, (execDrainTimeout domain init s) = .next
    t → t.kept = s.kept := by
  intro t h; unfold execDrainTimeout at h
  rw [← Host.Outcome.next.inj h]
  (repeat' (split <;> (try simp)))
@[simp ↓] theorem State.loseFold_kept (s : State) (p : Nat) : (State.loseFold s p).kept = s.kept := by
  unfold State.loseFold
  (try simp); (repeat' (split <;> (try simp)))
@[simp ↓] theorem State.retentionLost_kept (s : State) (d : Nat) : (State.retentionLost s d).kept = s.kept := by
  unfold State.retentionLost
  (try simp); (repeat' (split <;> (try simp)))
theorem execWakeComplete_kept (domain : Nat) (s : State) : ∀ t, (execWakeComplete domain s) = .next t → t.kept = s.kept := by
  intro t h; unfold execWakeComplete at h; (try dsimp only at h)
  rw [← Host.Outcome.next.inj h]
  simp
theorem execRetLost_kept (domain : Nat) (s : State) : ∀ t, (execRetLost domain s) = .next t → t.kept = s.kept := by
  intro t h; unfold execRetLost at h
  rw [← Host.Outcome.next.inj h]
  simp
@[simp ↓] theorem State.settleDie_kept (s : State) (d : Nat) : (State.settleDie s d).kept = s.kept := by
  simp [State.settleDie]
@[simp ↓] theorem State.settleClocks_kept (s : State) : (State.settleClocks s).kept = s.kept := by
  simp [State.settleClocks]
theorem execVoltageSettle_kept (die : Nat) (acked : Bool) (s : State) : ∀ t, (execVoltageSettle die acked s) = .next t
    → t.kept = s.kept := by
  intro t h; unfold execVoltageSettle at h; (try dsimp only at h)
  rw [← Host.Outcome.next.inj h]
  (try simp); (repeat' (split <;> (try simp)))
@[simp ↓] theorem State.stopCores_kept (s : State) (cause : Nat) : (State.stopCores s cause).kept = s.kept := by
  simp [State.stopCores]
@[simp ↓] theorem State.wakeCores_kept (s : State) : (State.wakeCores s).kept = s.kept := by simp [State.wakeCores]
@[simp ↓] theorem State.ladderToRun_kept (s : State) : (State.ladderToRun s).kept = s.kept := by
  simp [State.ladderToRun]
@[simp ↓] theorem State.ladderEvent_kept (s : State) (e : LadderEvent) : (State.ladderEvent s e).kept = s.kept := by
  simp [State.ladderEvent]
theorem execLadderLeave_kept (e : LadderEvent) (s : State) : ∀ t, (execLadderLeave e s) = .next t → t.kept = s.kept := by
  intro t h; unfold execLadderLeave at h
  rw [← Host.Outcome.next.inj h]
  simp
@[simp ↓] theorem State.enterLadder_kept (s : State) (step : Nat) : (State.enterLadder s step).kept = s.kept := by
  unfold State.enterLadder
  (repeat' first
      | (with_reducible rfl)
      | (rw [State.linkWord_kept _ _ _ _ (by assumption)])
      | (rw [State.takeSource_kept _ _ _ _ (by assumption)])
      | (simp; done)
      | split
      | (refine (foldl_kept _ (fun _ _ => ?_) _ _).trans ?_)
      | (simp [ident_eq, fuses_eq, pending_eq]))
@[simp ↓] theorem State.ladderOff_kept (s : State) : (State.ladderOff s).kept = s.kept := by
  unfold State.ladderOff
  simp [ident_eq, fuses_eq, pending_eq]
@[simp ↓] theorem State.countOverride_kept (s : State) (die : Nat) (before : Nat) : (State.countOverride s die
    before).kept = s.kept := by
  simp [State.countOverride]
@[simp ↓] theorem State.throttled_kept (s : State) : (State.throttled s).kept = s.kept := by simp [State.throttled]
@[simp ↓] theorem State.setTj_kept (s : State) (die : Nat) (tj : Nat) : (State.setTj s die tj).kept = s.kept := by
  simp [State.setTj]
theorem execThermalStep_kept (die : Nat) (tj : Nat) (s : State) : ∀ t, (execThermalStep die tj s) = .next t → t.kept =
    s.kept := by
  intro t h; unfold execThermalStep at h; (try dsimp only at h)
  rw [← Host.Outcome.next.inj h]
  simp
theorem execJunctionLimit_kept (die : Nat) (tj : Nat) (s : State) : ∀ t, (execJunctionLimit die tj s) = .next t →
    t.kept = s.kept := by
  intro t h; unfold execJunctionLimit at h; (try dsimp only at h)
  rw [← Host.Outcome.next.inj h]
  simp
theorem execThermTimeout_kept (die : Nat) (tj : Nat) (s : State) : ∀ t, (execThermTimeout die tj s) = .next t → t.kept
    = s.kept := by
  intro t h; unfold execThermTimeout at h; (try dsimp only at h)
  rw [← Host.Outcome.next.inj h]
  simp
theorem execPowerCapStep_kept (watts : Nat) (die : Nat) (s : State) : ∀ t, (execPowerCapStep watts die s) = .next t →
    t.kept = s.kept := by
  intro t h; unfold execPowerCapStep at h; (try dsimp only at h)
  rw [← Host.Outcome.next.inj h]
  simp
theorem execPmbAlert_kept (die : Nat) (statusWord : Nat) (s : State) : ∀ t, (execPmbAlert die statusWord s) = .next t
    → t.kept = s.kept := by
  intro t h; unfold execPmbAlert at h
  rw [← Host.Outcome.next.inj h]
  simp

/-! ### Edge -/
theorem execVccoLoss_kept (bank : Nat) (mv : Nat) (s : State) : ∀ t, (execVccoLoss bank mv s) = .next t → t.kept =
    s.kept := by
  intro t h; unfold execVccoLoss at h; (try dsimp only at h)
  rw [← Host.Outcome.next.inj h]
  simp
theorem execVccoGood_kept (bank : Nat) (mv : Nat) (s : State) : ∀ t, (execVccoGood bank mv s) = .next t → t.kept =
    s.kept := by
  intro t h; unfold execVccoGood at h
  rw [← Host.Outcome.next.inj h]
  simp
@[simp ↓] theorem State.configureRegion_kept (s : State) (r : Nat) (p : Nat) (sec : List Byte) :
    (State.configureRegion s r p sec).kept = s.kept := by
  simp [State.configureRegion]
@[simp ↓] theorem State.claimRegion_kept (s : State) (r : Nat) (p : Nat) (h : List Byte) : (State.claimRegion s r p
    h).kept = s.kept := by
  simp [State.claimRegion]
@[simp ↓] theorem State.wipeRegion_kept (s : State) (r : Nat) : (State.wipeRegion s r).kept = s.kept := by
  simp [State.wipeRegion]
@[simp ↓] theorem State.releaseRegion_kept (s : State) (r : Nat) : (State.releaseRegion s r).kept = s.kept := by
  simp [State.releaseRegion]
@[simp ↓] theorem State.lineStart_kept (s : State) (src : Nat) (g : Nat) : (State.lineStart s src g).kept = s.kept := by
  simp [State.lineStart]
theorem execGlobalLineStart_kept (region : Nat) (line : Nat) (s : State) : ∀ t, (execGlobalLineStart region line s) =
    .next t → t.kept = s.kept := by
  intro t h; unfold execGlobalLineStart at h
  rw [← Host.Outcome.next.inj h]
  simp
theorem execEpFclkStart_kept (port : Nat) (s : State) : ∀ t, (execEpFclkStart port s) = .next t → t.kept = s.kept := by
  intro t h; unfold execEpFclkStart at h; (try dsimp only at h)
  rw [← Host.Outcome.next.inj h]
  simp
theorem execEdgePortWordIn_kept (port : Nat) (chan : Nat) (word : BitVec 16) (s : State) : ∀ t, (execEdgePortWordIn
    port chan word s) = .next t → t.kept = s.kept := by
  intro t h; unfold execEdgePortWordIn at h
  rw [← Host.Outcome.next.inj h]
  (repeat' (split <;> (try simp)))
theorem execEdgePortWordOut_kept (port : Nat) (chan : Nat) (s : State) : ∀ t, (execEdgePortWordOut port chan s) =
    .next t → t.kept = s.kept := by
  intro t h; unfold execEdgePortWordOut at h
  rw [← Host.Outcome.next.inj h]
  (repeat' (split <;> (try simp)))
@[simp ↓] theorem State.tapSelect_kept (s : State) (code : Nat) : (State.tapSelect s code).kept = s.kept := by
  simp [State.tapSelect]
@[simp ↓] theorem State.tapBypass_kept (s : State) (code : Nat) : (State.tapBypass s code).kept = s.kept := by
  simp [State.tapBypass]
theorem execExtest_kept (pins : List Nat) (s : State) : ∀ t, (execExtest pins s) = .next t → t.kept = s.kept := by
  intro t h; unfold execExtest at h; (try dsimp only at h)
  rw [← Host.Outcome.next.inj h]
  simp
theorem execIdcode_kept (s : State) : ∀ t, (execIdcode s) = .next t → t.kept = s.kept := by
  intro t h; unfold execIdcode at h
  rw [← Host.Outcome.next.inj h]
  simp
theorem execSamplePreload_kept (cells : List Nat) (s : State) : ∀ t, (execSamplePreload cells s) = .next t → t.kept =
    s.kept := by
  intro t h; unfold execSamplePreload at h
  rw [← Host.Outcome.next.inj h]
  simp
theorem execClamp_kept (s : State) : ∀ t, (execClamp s) = .next t → t.kept = s.kept := by
  intro t h; unfold execClamp at h
  rw [← Host.Outcome.next.inj h]
  simp
theorem execHighz_kept (s : State) : ∀ t, (execHighz s) = .next t → t.kept = s.kept := by
  intro t h; unfold execHighz at h
  rw [← Host.Outcome.next.inj h]
  simp
theorem execBypass_kept (code : Nat) (s : State) : ∀ t, (execBypass code s) = .next t → t.kept = s.kept := by
  intro t h; unfold execBypass at h
  rw [← Host.Outcome.next.inj h]
  simp

/-! ### Command -/
@[simp ↓] theorem State.complete_kept (s : State) (g : Prog) (status : Nat) (detail : List Byte) : (State.complete s g
    status detail).kept = s.kept := by
  simp [State.complete]
@[simp ↓] theorem State.completeResult_kept (s : State) (g : Prog) (c : Cmd) (detail : List Byte) (result : List Byte)
    (sealResult : Bool) : (State.completeResult s g c detail result sealResult).kept = s.kept := by
  simp [State.completeResult]
@[simp ↓] theorem State.refuse_kept (s : State) (g : Prog) (status : Nat) (offset : Nat) : (State.refuse s g status
    offset).kept = s.kept := by
  simp [State.refuse]
@[simp ↓] theorem State.checked_kept (s : State) (g : Prog) (l : List Check) (f : State → State) (hf : ∀ x0, (f
    x0).kept = x0.kept) : (State.checked s g l f).kept = s.kept := by
  unfold State.checked; split
  · simp
  · exact hf s
@[simp ↓] theorem State.begin__kept (s : State) (c : Cmd) (opcode : Nat) (auth : Bool) : (State.begin_ s c opcode
    auth).2.kept = s.kept := by
  simp [State.begin_]
@[simp ↓] theorem State.runCard_kept (s : State) (card : Card) (c : Cmd) (h : ∀ c g s, (card.run c g s).kept = s.kept) :
    (s.runCard card c).kept = s.kept := by
  unfold State.runCard; dsimp only
  split
  · rfl
  · split
    · simp
    · simp [h]

/-! ### Unload -/
@[simp ↓] theorem State.wipePasture_kept (s : State) (p : Nat) : (State.wipePasture s p).kept = s.kept := by
  unfold State.wipePasture
  simp [ident_eq, fuses_eq, pending_eq]
@[simp ↓] theorem State.emptyPasture_kept (s : State) (p : Nat) : (State.emptyPasture s p).kept = s.kept := by
  simp [State.emptyPasture]
@[simp ↓] theorem State.beginUnload_kept (s : State) (p : Nat) (fromPort : Option Nat) : (State.beginUnload s p
    fromPort).kept = s.kept := by
  simp [State.beginUnload]
theorem execUnloadWipeComplete_kept (pasture : Nat) (s : State) : ∀ t, (execUnloadWipeComplete pasture s) = .next t →
    t.kept = s.kept := by
  intro t h; unfold execUnloadWipeComplete at h; (try dsimp only at h)
  rw [← Host.Outcome.next.inj h]
  simp
theorem execUnload_kept (c : Cmd) (s : State) : ∀ t, (execUnload c s) = .next t → t.kept = s.kept := by
  intro t h; unfold execUnload at h
  rw [← Host.Outcome.next.inj h]
  simp [unloadCard]

end Sys2Proof.Machine
end

