-- ==== Sys2Proof/Laws/KeptLink.lean ====
section
/-!
SUPPORT. `kept`, the identity, the fuses and the waiting commands, through links, spans, time, the service network and the device.
-/

namespace Sys2Proof.Machine
open Sys2Proof

/-! ### Stream -/
@[simp ↓] theorem State.putLane_kept (s : State) (l : Nat) (header : Nat) (payload : Nat) : (State.putLane s l header payload).kept = s.kept := by
  unfold State.putLane; simp
@[simp ↓] theorem State.putBlock_kept (s : State) (link : Nat) (header : Nat) (payload : Nat) : (State.putBlock s link header payload).kept = s.kept := by
  unfold State.putBlock; simp
@[simp ↓] theorem State.putHeld_kept (s : State) (link : Nat) : (State.putHeld s link).kept = s.kept := by
  unfold State.putHeld; (try simp); (repeat' (split <;> (try simp)))
@[simp ↓] theorem State.assignSeq_kept (s : State) (link : Nat) (i : Nat) : (State.assignSeq s link i).kept = s.kept := by
  unfold State.assignSeq; (try simp); (repeat' (split <;> (try simp)))
theorem State.idleCredit_kept (s : State) (link : Nat) : ∀ t, (State.idleCredit s link) = some t → t.kept = s.kept := by
  intro t hh; unfold State.idleCredit at hh; (try dsimp only at hh)
  (repeat' (split at hh)) <;> first | (cases hh; done) | (cases hh; simp; done)
@[simp ↓] theorem State.idleCredit_getD_kept (s : State) (link : Nat) : ((State.idleCredit s link).getD s).kept = s.kept := by
  cases h : State.idleCredit s link with
  | none => rfl
  | some t => exact State.idleCredit_kept s link t h
@[simp ↓] theorem State.putWaiting_kept (s : State) (link : Nat) : (State.putWaiting s link).kept = s.kept := by
  unfold State.putWaiting; (try simp); (repeat' (split <;> (try simp)))
@[simp ↓] theorem State.putNext_kept (s : State) (link : Nat) : (State.putNext s link).kept = s.kept := by
  unfold State.putNext; (try simp); (repeat' (split <;> (try simp)))
@[simp ↓] theorem State.putSkip_kept (s : State) (link : Nat) (lanes : List Nat) : (State.putSkip s link lanes).kept = s.kept := by
  unfold State.putSkip; simp
@[simp ↓] theorem State.streamTime_kept (s : State) (link : Nat) : (State.streamTime s link).kept = s.kept := by
  unfold State.streamTime; simp
@[simp ↓] theorem State.putPrbs_kept (s : State) (l : Nat) : (State.putPrbs s l).kept = s.kept := by
  unfold State.putPrbs; simp
@[simp ↓] theorem State.laneTime_kept (s : State) (t : Nat) (l : Nat) : (State.laneTime s t l).kept = s.kept := by
  unfold State.laneTime; (try simp); (repeat' (split <;> (try simp)))
@[simp ↓] theorem State.blockTime_kept (s : State) (t : Nat) : (State.blockTime s t).kept = s.kept := by
  unfold State.blockTime; simp
@[simp ↓] theorem State.lineTick_kept (s : State) (t : Nat) : (State.lineTick s t).kept = s.kept := by
  unfold State.lineTick; simp

/-! ### Link -/
@[simp ↓] theorem State.setLane_kept (s : State) (l : Nat) (f : Lane → Lane) : (State.setLane s l f).kept = s.kept := by
  unfold State.setLane; simp
@[simp ↓] theorem State.setLanes_kept (s : State) (t : Nat) (f : Lane → Lane) : (State.setLanes s t f).kept = s.kept := by
  unfold State.setLanes; simp
@[simp ↓] theorem State.idlePort_kept (s : State) (t : Nat) (st : LaneState) : (State.idlePort s t st).kept = s.kept := by
  simp [State.idlePort]
@[simp ↓] theorem State.retrainPort_kept (s : State) (t : Nat) : (State.retrainPort s t).kept = s.kept := by
  simp [State.retrainPort]
@[simp ↓] theorem State.retrainPorts_kept (s : State) (link : Nat) : (State.retrainPorts s link).kept = s.kept := by
  simp [State.retrainPorts]
@[simp ↓] theorem State.leaveActive_kept (s : State) (link : Nat) (f : State → State) (hf : ∀ x0, (f x0).kept =
    x0.kept) : (State.leaveActive s link f).kept = s.kept := by
  simp [State.leaveActive, hf]
@[simp ↓] theorem State.retrainLink_kept (s : State) (link : Nat) : (State.retrainLink s link).kept = s.kept := by
  simp [State.retrainLink]
@[simp ↓] theorem State.activate_kept (s : State) (low : Nat) (log2 : Nat) : (State.activate s low log2).kept = s.kept := by
  simp [State.activate]
@[simp ↓] theorem State.formBond_kept (s : State) (t : Nat) : (State.formBond s t).kept = s.kept := by
  simp [State.formBond]
@[simp ↓] theorem State.formBonds_kept (s : State) (t : Nat) : (State.formBonds s t).kept = s.kept := by
  simp [State.formBonds]
@[simp ↓] theorem State.refusePort_kept (s : State) (t : Nat) : (State.refusePort s t).kept = s.kept := by
  simp [State.refusePort]
@[simp ↓] theorem State.enterCap_kept (s : State) (t : Nat) : (State.enterCap s t).kept = s.kept := by
  simp [State.enterCap]
@[simp ↓] theorem State.capRecord_kept (s : State) (t : Nat) (body : Nat) : (State.capRecord s t body).kept = s.kept := by
  unfold State.capRecord; dsimp only; (repeat' split) <;> simp
theorem execDetectPoll_kept (lane : Nat) (seen : Bool) (s : State) : ∀ t, (execDetectPoll lane seen s) = .next t →
    t.kept = s.kept := by
  intro t h; unfold execDetectPoll at h; (try dsimp only at h)
  rw [← Host.Outcome.next.inj h]
  simp
@[simp ↓] theorem State.lockLanes_kept (s : State) (t : Nat) : (State.lockLanes s t).kept = s.kept := by
  simp [State.lockLanes]
theorem execTrainScanComplete_kept (lane : Nat) (coarse : List (Nat × Nat)) (hMargin vMargin : Nat) (s : State) :
    ∀ t, (execTrainScanComplete lane coarse hMargin vMargin s) = .next t → t.kept = s.kept := by
  intro t h; unfold execTrainScanComplete at h; (try dsimp only at h)
  rw [← Host.Outcome.next.inj h]
  (try simp); (repeat' (split <;> (try simp)))
theorem execTrainMark_kept (port : Nat) (ready : Bool) (s : State) : ∀ t, (execTrainMark port ready s) = .next t →
    t.kept = s.kept := by
  intro t h; unfold execTrainMark at h
  rw [← Host.Outcome.next.inj h]
  simp
@[simp ↓] theorem State.lockDone_kept (s : State) (t : Nat) : (State.lockDone s t).kept = s.kept := by
  unfold State.lockDone; simp
theorem execBlockLock_kept (lane : Nat) (s : State) : ∀ t, (execBlockLock lane s) = .next t → t.kept = s.kept := by
  intro t h; unfold execBlockLock at h; (try dsimp only at h)
  rw [← Host.Outcome.next.inj h]
  simp
theorem execTrainBoundExpiry_kept (port : Nat) (s : State) : ∀ t, (execTrainBoundExpiry port s) = .next t → t.kept =
    s.kept := by
  intro t h; unfold execTrainBoundExpiry at h
  rw [← Host.Outcome.next.inj h]
  simp
theorem execMarginCheck_kept (lane : Nat) (hMargin : Nat) (vMargin : Nat) (s : State) : ∀ t, (execMarginCheck lane
    hMargin vMargin s) = .next t → t.kept = s.kept := by
  intro t h; unfold execMarginCheck at h; (try dsimp only at h)
  rw [← Host.Outcome.next.inj h]
  simp
@[simp ↓] theorem State.retrainDue_kept (s : State) (link : Nat) : (State.retrainDue s link).kept = s.kept := by
  simp [State.retrainDue]
theorem execLinkLostTimeout_kept (link : Nat) (s : State) : ∀ t, (execLinkLostTimeout link s) = .next t → t.kept =
    s.kept := by
  intro t h; unfold execLinkLostTimeout at h; (try dsimp only at h)
  rw [← Host.Outcome.next.inj h]
  simp
@[simp ↓] theorem State.rxHeader_kept (s : State) (link : Nat) (bad : Bool) : (State.rxHeader s link bad).kept = s.kept := by
  unfold State.rxHeader; simp
@[simp ↓] theorem State.echo_kept (s : State) (t : Nat) (header : Nat) (payload : Nat) : (State.echo s t header payload).kept = s.kept := by
  unfold State.echo; simp
@[simp ↓] theorem State.rxControl_kept (s : State) (link : Nat) (ctype : Nat) (cseq : Nat) (body : Nat) (act : State → State) (hact : ∀ x0, (act x0).kept = x0.kept) : (State.rxControl s link ctype cseq body act).kept = s.kept := by
  unfold State.rxControl; simp [hact]
@[simp ↓] theorem State.sendNak_kept (s : State) (link : Nat) : (State.sendNak s link).kept = s.kept := by
  simp [State.sendNak]
@[simp ↓] theorem State.takeSequenced_kept (s : State) (link : Nat) (cseq : Nat) (act : State → State) (hact : ∀ x0, (act x0).kept = x0.kept) : (State.takeSequenced s link cseq act).kept = s.kept := by
  unfold State.takeSequenced; simp [hact]
@[simp ↓] theorem State.accept_kept (s : State) (link : Nat) (ctype : Nat) (cseq : Nat) (body : Nat) (act : State → State) (hact : ∀ x0, (act x0).kept = x0.kept) : (State.accept s link ctype cseq body act).kept = s.kept := by
  unfold State.accept; simp [hact]
@[simp ↓] theorem State.takePlain_kept (s : State) (link : Nat) (act : State → State) (hact : ∀ x0, (act x0).kept = x0.kept) : (State.takePlain s link act).kept = s.kept := by
  unfold State.takePlain; simp [hact]
@[simp ↓] theorem State.plain_kept (s : State) (link : Nat) (ctype : Nat) (body : Nat) (act : State → State) (hact : ∀ x0, (act x0).kept = x0.kept) : (State.plain s link ctype body act).kept = s.kept := by
  unfold State.plain; simp [hact]
@[simp ↓] theorem State.ackTo_kept (s : State) (link : Nat) (cseq : Nat) : (State.ackTo s link cseq).kept = s.kept := by
  unfold State.ackTo
  (try simp); (repeat' (split <;> (try simp)))
@[simp ↓] theorem State.resendFrom_kept (s : State) (link : Nat) (cseq : Nat) : (State.resendFrom s link cseq).kept =
    s.kept := by
  unfold State.resendFrom
  (try simp); (repeat' (split <;> (try simp)))
theorem execLinkAck_kept (link : Nat) (cseq : Nat) (s : State) : ∀ t, (execLinkAck link cseq s) = .next t → t.kept =
    s.kept := by
  intro t h; unfold execLinkAck at h
  rw [← Host.Outcome.next.inj h]
  simp
theorem execLinkNak_kept (link : Nat) (cseq : Nat) (s : State) : ∀ t, (execLinkNak link cseq s) = .next t → t.kept =
    s.kept := by
  intro t h; unfold execLinkNak at h
  rw [← Host.Outcome.next.inj h]
  simp
theorem execReplayTimeout_kept (link : Nat) (s : State) : ∀ t, (execReplayTimeout link s) = .next t → t.kept = s.kept := by
  intro t h; unfold execReplayTimeout at h
  rw [← Host.Outcome.next.inj h]
  (repeat' (split <;> (try simp)))
@[simp ↓] theorem State.badControl_kept (s : State) (link : Nat) (badHeader : Bool) : (State.badControl s link
    badHeader).kept = s.kept := by
  simp [State.badControl]
theorem execCrcFailure_kept (link : Nat) (badHeader : Bool) (s : State) : ∀ t, (execCrcFailure link badHeader s) =
    .next t → t.kept = s.kept := by
  intro t h; unfold execCrcFailure at h
  rw [← Host.Outcome.next.inj h]
  simp
theorem execProtocolError_kept (link : Nat) (s : State) : ∀ t, (execProtocolError link s) = .next t → t.kept = s.kept := by
  intro t h; unfold execProtocolError at h
  rw [← Host.Outcome.next.inj h]
  simp
theorem execSkip_kept (_link : Nat) (_repeated : Bool) (s : State) : ∀ t, (execSkip _link _repeated s) = .next t →
    t.kept = s.kept := by
  intro t h; unfold execSkip at h
  rw [← Host.Outcome.next.inj h]
theorem execCap_kept (link : Nat) (cseq : Nat) (body : BitVec 32) (s : State) : ∀ t, (execCap link cseq body s) =
    .next t → t.kept = s.kept := by
  intro t h; unfold execCap at h
  rw [← Host.Outcome.next.inj h]
  simp
@[simp ↓] theorem State.creditBack_kept (s : State) (link : Nat) (body : Nat) : (State.creditBack s link body).kept =
    s.kept := by
  simp [State.creditBack]
theorem execCredit_kept (link : Nat) (cseq : Nat) (body : BitVec 32) (s : State) : ∀ t, (execCredit link cseq body s)
    = .next t → t.kept = s.kept := by
  intro t h; unfold execCredit at h
  rw [← Host.Outcome.next.inj h]
  simp
@[simp ↓] theorem State.tagGroup_kept (s : State) (link : Nat) (n : Nat) (body : Nat) : (State.tagGroup s link n
    body).kept = s.kept := by
  simp [State.tagGroup]
theorem execTag_kept (link : Nat) (cseq : Nat) (n : Nat) (body : BitVec 32) (s : State) : ∀ t, (execTag link cseq n
    body s) = .next t → t.kept = s.kept := by
  intro t h; unfold execTag at h
  rw [← Host.Outcome.next.inj h]
  simp
@[simp ↓] theorem State.deliverBlock_kept (s : State) (link : Nat) (payload : Nat) : (State.deliverBlock s link
    payload).kept = s.kept := by
  simp [State.deliverBlock]
@[simp ↓] theorem State.bringUp_kept (s : State) (p : Nat) : (State.bringUp s p).kept = s.kept := by
  simp [State.bringUp]
@[simp ↓] theorem State.autoAlign_kept (s : State) (ports : List Nat) : (State.autoAlign s ports).kept = s.kept := by
  unfold State.autoAlign; simp
@[simp ↓] theorem State.retrainCmd_kept (s : State) (p : Nat) : (State.retrainCmd s p).kept = s.kept := by
  simp [State.retrainCmd]
@[simp ↓] theorem State.portOut_kept (s : State) (st : LaneState) (t : Nat) : (State.portOut s st t).kept = s.kept := by
  simp [State.portOut]
@[simp ↓] theorem State.takeDown_kept (s : State) (p : Nat) : (State.takeDown s p).kept = s.kept := by
  simp [State.takeDown]
theorem execLaneBringup_kept (c : Cmd) (s : State) : ∀ t, (execLaneBringup c s) = .next t → t.kept = s.kept := by
  intro t h; unfold execLaneBringup at h
  rw [← Host.Outcome.next.inj h]
  simp [bringupCard]
theorem execLaneRetrain_kept (c : Cmd) (s : State) : ∀ t, (execLaneRetrain c s) = .next t → t.kept = s.kept := by
  intro t h; unfold execLaneRetrain at h
  rw [← Host.Outcome.next.inj h]
  simp [bringupCard]
theorem execLaneTakeDown_kept (c : Cmd) (s : State) : ∀ t, (execLaneTakeDown c s) = .next t → t.kept = s.kept := by
  intro t h; unfold execLaneTakeDown at h
  rw [← Host.Outcome.next.inj h]
  simp [bringupCard]
theorem execLaneEq_kept (c : Cmd) (s : State) : ∀ t, (execLaneEq c s) = .next t → t.kept = s.kept := by
  intro t h; unfold execLaneEq at h
  rw [← Host.Outcome.next.inj h]
  simp [laneEqCard]
@[simp ↓] theorem State.bitslip_kept (s : State) (l : Nat) (n : Nat) : (State.bitslip s l n).kept = s.kept := by
  simp [State.bitslip]
theorem execLaneBitslip_kept (c : Cmd) (s : State) : ∀ t, (execLaneBitslip c s) = .next t → t.kept = s.kept := by
  intro t h; unfold execLaneBitslip at h
  rw [← Host.Outcome.next.inj h]
  simp [laneBitslipCard]
@[simp ↓] theorem State.loopback_kept (s : State) (t : Nat) (m : Nat) : (State.loopback s t m).kept = s.kept := by
  simp [State.loopback]
theorem execLaneLoopback_kept (c : Cmd) (s : State) : ∀ t, (execLaneLoopback c s) = .next t → t.kept = s.kept := by
  intro t h; unfold execLaneLoopback at h
  rw [← Host.Outcome.next.inj h]
  simp [laneLoopbackCard]
theorem execLaneStatus_kept (c : Cmd) (s : State) : ∀ t, (execLaneStatus c s) = .next t → t.kept = s.kept := by
  intro t h; unfold execLaneStatus at h
  rw [← Host.Outcome.next.inj h]
  simp [laneStatusCard]

/-! ### Span -/
@[simp ↓] theorem State.sendJoin_kept (s : State) (p : Nat) (up : Nat) (member : Nat) (bs : List Byte) :
    (State.sendJoin s p up member bs).kept = s.kept := by
  simp [State.sendJoin]
@[simp ↓] theorem State.joinOutcome_kept (s : State) (p : Nat) (status : Nat) : (State.joinOutcome s p status).kept =
    s.kept := by
  simp [State.joinOutcome]
@[simp ↓] theorem State.joinTake_kept (s : State) (link : Nat) (body : Nat) : (State.joinTake s link body).kept = s.kept := by
  unfold State.joinTake; (try simp); (repeat' (split <;> (try simp)))
@[simp ↓] theorem State.joinIdle_kept (s : State) (p : Nat) (link : Nat) : (State.joinIdle s p link).kept = s.kept := by
  unfold State.joinIdle; (try simp); (repeat' (split <;> (try simp)))
@[simp ↓] theorem State.joinEarly_kept (s : State) (p : Nat) : (State.joinEarly s p).kept = s.kept := by
  unfold State.joinEarly; simp
@[simp ↓] theorem State.joinStep_kept (s : State) (p : Nat) : (State.joinStep s p).kept = s.kept := by
  unfold State.joinStep
  (try simp); (repeat' (split <;> (try simp)))
@[simp ↓] theorem State.joinIn_kept (s : State) (link : Nat) (body : Nat) : (State.joinIn s link body).kept = s.kept := by
  unfold State.joinIn
  (try simp); (repeat' (split <;> (try simp)))
@[simp ↓] theorem State.chancountIn_kept (s : State) (link : Nat) (body : Nat) : (State.chancountIn s link body).kept
    = s.kept := by
  simp [State.chancountIn]
theorem execJoin_kept (link : Nat) (cseq : Nat) (body : BitVec 32) (s : State) : ∀ t, (execJoin link cseq body s) =
    .next t → t.kept = s.kept := by
  intro t h; unfold execJoin at h
  rw [← Host.Outcome.next.inj h]
  simp
theorem execChancount_kept (link : Nat) (cseq : Nat) (body : BitVec 32) (s : State) : ∀ t, (execChancount link cseq
    body s) = .next t → t.kept = s.kept := by
  intro t h; unfold execChancount at h
  rw [← Host.Outcome.next.inj h]
  simp
@[simp ↓] theorem State.idleIn_kept (s : State) (link : Nat) : (State.idleIn s link).kept = s.kept := by
  simp [State.idleIn]
theorem execLinkIdle_kept (link : Nat) (s : State) : ∀ t, (execLinkIdle link s) = .next t → t.kept = s.kept := by
  intro t h; unfold execLinkIdle at h
  rw [← Host.Outcome.next.inj h]
  simp
@[simp ↓] theorem State.arriveIn_kept (s : State) (link : Nat) (body : Nat) : (State.arriveIn s link body).kept =
    s.kept := by
  unfold State.arriveIn
  (try simp); (repeat' (split <;> (try simp)))
theorem execArrive_kept (link : Nat) (cseq : Nat) (body : BitVec 32) (s : State) : ∀ t, (execArrive link cseq body s)
    = .next t → t.kept = s.kept := by
  intro t h; unfold execArrive at h
  rw [← Host.Outcome.next.inj h]
  simp
@[simp ↓] theorem State.assertCountIn_kept (s : State) (link : Nat) (body : Nat) : (State.assertCountIn s link
    body).kept = s.kept := by
  simp [State.assertCountIn]
theorem execAssertCount_kept (link : Nat) (cseq : Nat) (body : BitVec 32) (s : State) : ∀ t, (execAssertCount link
    cseq body s) = .next t → t.kept = s.kept := by
  intro t h; unfold execAssertCount at h
  rw [← Host.Outcome.next.inj h]
  simp
@[simp ↓] theorem State.releaseIn_kept (s : State) (link : Nat) (body : Nat) : (State.releaseIn s link body).kept =
    s.kept := by
  simp [State.releaseIn]
theorem execLinkRelease_kept (link : Nat) (cseq : Nat) (body : BitVec 32) (s : State) : ∀ t, (execLinkRelease link
    cseq body s) = .next t → t.kept = s.kept := by
  intro t h; unfold execLinkRelease at h
  rw [← Host.Outcome.next.inj h]
  simp
@[simp ↓] theorem State.faultIn_kept (s : State) (link : Nat) (body : Nat) : (State.faultIn s link body).kept = s.kept := by
  simp [State.faultIn]
theorem execLinkFault_kept (link : Nat) (cseq : Nat) (body : BitVec 32) (s : State) : ∀ t, (execLinkFault link cseq
    body s) = .next t → t.kept = s.kept := by
  intro t h; unfold execLinkFault at h
  rw [← Host.Outcome.next.inj h]
  simp
@[simp ↓] theorem State.unloadIn_kept (s : State) (link : Nat) (body : Nat) : (State.unloadIn s link body).kept =
    s.kept := by
  simp [State.unloadIn]
@[simp ↓] theorem State.unloadDue_kept (s : State) (p : Nat) : (State.unloadDue s p).kept = s.kept := by
  unfold State.unloadDue
  (repeat' (split <;> (try simp)))
theorem execLinkUnload_kept (link : Nat) (cseq : Nat) (body : BitVec 32) (s : State) : ∀ t, (execLinkUnload link cseq
    body s) = .next t → t.kept = s.kept := by
  intro t h; unfold execLinkUnload at h
  rw [← Host.Outcome.next.inj h]
  simp
theorem State.sequenced_kept (s : State) (link : Nat) (ctype : Nat) (body : Nat) : ∀ t, (State.sequenced s link ctype
    body) = some t → t.kept = s.kept := by
  intro t h; unfold State.sequenced at h
  (repeat' (split at h)) <;> (first | (simp at h; done) | (cases h; simp; done) | (exact State.takeIngress_kept _ _ _ _ h)| (exact State.takeLinkWord_kept _ _ _ _ h))
@[simp ↓] theorem State.sequenced_getD_kept (s : State) (link : Nat) (ctype : Nat) (body : Nat) : ((State.sequenced s link ctype body).getD s).kept = s.kept := by
  cases h : State.sequenced s link ctype body with
  | none => rfl
  | some t => exact State.sequenced_kept s link ctype body t h
@[simp ↓] theorem State.controlBlock_kept (s : State) (link : Nat) (w : Nat) : (State.controlBlock s link w).kept =
    s.kept := by
  unfold State.controlBlock
  (try simp); (repeat' (split <;> (try simp)))
@[simp ↓] theorem State.streamBlock_kept (s : State) (link : Nat) (header : Nat) (w : Nat) : (State.streamBlock s link header w).kept = s.kept := by
  unfold State.streamBlock; (try simp); (repeat' (split <;> (try simp)))
@[simp ↓] theorem State.portBlock_kept (s : State) (t : Nat) (header : Nat) (w : Nat) : (State.portBlock s t header w).kept = s.kept := by
  unfold State.portBlock; (try simp); (repeat' (split <;> (try simp)))
theorem execDataBlock_kept (link : Nat) (syncHeader : Nat) (payload : BitVec 64) (s : State) : ∀ t, (execDataBlock
    link syncHeader payload s) = .next t → t.kept = s.kept := by
  intro t h; unfold execDataBlock at h; (try dsimp only at h)
  rw [← Host.Outcome.next.inj h]
  (try simp); (repeat' (split <;> (try simp)))

/-! ### Time -/
@[simp ↓] theorem State.wrapEffects_kept (s : State) : (State.wrapEffects s).kept = s.kept := by
  simp [State.wrapEffects]
@[simp ↓] theorem State.timeTick_kept (s : State) : (State.timeTick s).kept = s.kept := by simp [State.timeTick]
theorem execTimeBaseWrap_kept (s : State) : ∀ t, (execTimeBaseWrap s) = .next t → t.kept = s.kept := by
  intro t h; unfold execTimeBaseWrap at h
  rw [← Host.Outcome.next.inj h]
  simp
@[simp ↓] theorem State.setJump_kept (s : State) : (State.setJump s).kept = s.kept := by simp [State.setJump]
@[simp ↓] theorem State.setGmChanged_kept (s : State) : (State.setGmChanged s).kept = s.kept := by
  simp [State.setGmChanged]
@[simp ↓] theorem State.setServo_kept (s : State) (v : ServoState) : (State.setServo s v).kept = s.kept := by
  simp [State.setServo]
@[simp ↓] theorem State.slew_kept (s : State) (offset : Int) : (State.slew s offset).kept = s.kept := by
  unfold State.slew; simp
@[simp ↓] theorem State.timeStep_kept (s : State) (offset : Int) : (State.timeStep s offset).kept = s.kept := by
  unfold State.timeStep; simp
@[simp ↓] theorem State.acceptSample_kept (s : State) (offset : Int) : (State.acceptSample s offset).kept = s.kept := by
  unfold State.acceptSample; (try simp); (repeat' (split <;> (try simp)))
@[simp ↓] theorem State.sample_kept (s : State) (offset : Int) (delay : Int) : (State.sample s offset delay).kept = s.kept := by
  unfold State.sample; simp
@[simp ↓] theorem State.ethSeen_kept (s : State) (port : Nat) : (State.ethSeen s port).kept = s.kept := by
  simp [State.ethSeen]
@[simp ↓] theorem State.followBest_kept (s : State) : (State.followBest s).kept = s.kept := by
  unfold State.followBest
  (repeat' (split <;> (try simp)))
theorem execAnnounce_kept (port : Nat) (a : Announce) (s : State) : ∀ t, (execAnnounce port a s) = .next t → t.kept =
    s.kept := by
  intro t h; unfold execAnnounce at h; (try dsimp only at h)
  rw [← Host.Outcome.next.inj h]
  simp
@[simp ↓] theorem State.ethTick_kept (s : State) : (State.ethTick s).kept = s.kept := by
  unfold State.ethTick; dsimp only; (repeat' split) <;> simp
theorem execSync_kept (port : Nat) (lane : Nat) (twoStep : Bool) (t1 : Nat) (corr : Int) (s : State) : ∀ t, (execSync port lane twoStep t1 corr s) = .next t → t.kept = s.kept := by
  intro t h; unfold execSync at h; (try dsimp only at h)
  rw [← Host.Outcome.next.inj h]
  (try simp); (repeat' (split <;> (try simp)))
theorem execFollowUp_kept (port : Nat) (t1 : Nat) (corr : Int) (s : State) : ∀ t, (execFollowUp port t1 corr s) = .next t → t.kept = s.kept := by
  intro t h; unfold execFollowUp at h; (try dsimp only at h)
  rw [← Host.Outcome.next.inj h]
  (try simp); (repeat' (split <;> (try simp)))
theorem execDelayReq_kept (port : Nat) (lane : Nat) (s : State) : ∀ t, (execDelayReq port lane s) = .next t → t.kept =
    s.kept := by
  intro t h; unfold execDelayReq at h; (try dsimp only at h)
  rw [← Host.Outcome.next.inj h]
  simp
@[simp ↓] theorem State.halve_kept (s : State) (x : Int) : (State.halve s x).2.kept = s.kept := by
  unfold State.halve; (try simp); (repeat' (split <;> (try simp)))
theorem execDelayResp_kept (port : Nat) (t4 : Nat) (corr : Int) (s : State) : ∀ t, (execDelayResp port t4 corr s) = .next t → t.kept = s.kept := by
  intro t h; unfold execDelayResp at h; (try dsimp only at h)
  rw [← Host.Outcome.next.inj h]
  (repeat' split) <;> simp
theorem execHoldoverTimeout_kept (s : State) : ∀ t, (execHoldoverTimeout s) = .next t → t.kept = s.kept := by
  intro t h; unfold execHoldoverTimeout at h
  rw [← Host.Outcome.next.inj h]
  simp
theorem execStatusDatagramRequest_kept (port : Nat) (src : Nat) (payload : List Byte) (s : State) : ∀ t,
    (execStatusDatagramRequest port src payload s) = .next t → t.kept = s.kept := by
  intro t h; unfold execStatusDatagramRequest at h; (try dsimp only at h)
  rw [← Host.Outcome.next.inj h]
  (try simp); (repeat' (split <;> (try simp)))
theorem execEthFrameDropped_kept (port : Nat) (badFcs : Bool) (s : State) : ∀ t, (execEthFrameDropped port badFcs s) =
    .next t → t.kept = s.kept := by
  intro t h; unfold execEthFrameDropped at h
  rw [← Host.Outcome.next.inj h]
  simp
theorem execTimeAccept_kept (c : Cmd) (s : State) : ∀ t, (execTimeAccept c s) = .next t → t.kept = s.kept := by
  intro t h; unfold execTimeAccept at h
  rw [← Host.Outcome.next.inj h]
  simp [timeAcceptCard]
theorem execTimeConfig_kept (c : Cmd) (s : State) : ∀ t, (execTimeConfig c s) = .next t → t.kept = s.kept := by
  intro t h; unfold execTimeConfig at h
  rw [← Host.Outcome.next.inj h]
  simp [timeConfigCard]
@[simp ↓] theorem State.stopHostRun_kept (s : State) (engine : Nat) : (State.stopHostRun s engine).kept = s.kept := by
  unfold State.stopHostRun
  (try simp); (repeat' (split <;> (try simp)))
@[simp ↓] theorem State.functionReset_kept (s : State) : (State.functionReset s).kept = s.kept := by
  simp [State.functionReset]
theorem execPcieFunctionReset_kept (_k : FnReset) (s : State) : ∀ t, (execPcieFunctionReset _k s) = .next t → t.kept =
    s.kept := by
  intro t h; unfold execPcieFunctionReset at h
  rw [← Host.Outcome.next.inj h]
  simp
theorem execD3hotEntry_kept (s : State) : ∀ t, (execD3hotEntry s) = .next t → t.kept = s.kept := by
  intro t h; unfold execD3hotEntry at h
  rw [← Host.Outcome.next.inj h]
  simp
@[simp ↓] theorem State.resumeHost_kept (s : State) : (State.resumeHost s).kept = s.kept := by simp [State.resumeHost]
theorem execD0Return_kept (s : State) : ∀ t, (execD0Return s) = .next t → t.kept = s.kept := by
  intro t h; unfold execD0Return at h
  rw [← Host.Outcome.next.inj h]
  simp
theorem execMsixVectorUnmask_kept (vector : Nat) (s : State) : ∀ t, (execMsixVectorUnmask vector s) = .next t → t.kept
    = s.kept := by
  intro t h; unfold execMsixVectorUnmask at h
  rw [← Host.Outcome.next.inj h]
  simp

/-! ### View -/
@[simp ↓] theorem State.hbmPut_kept (s : State) (a : Nat) (bs : List Byte) : (State.hbmPut s a bs).kept = s.kept := by
  unfold State.hbmPut; simp [ident_eq, fuses_eq, pending_eq]

/-! ### Noc -/
@[simp ↓] theorem State.probeSee_kept (s : State) (p : NocPacket) : (State.probeSee s p).kept = s.kept := by
  simp [State.probeSee]
@[simp ↓] theorem State.datSee_kept (s : State) (p : NocPacket) : (State.datSee s p).kept = s.kept := by
  unfold State.datSee
  simp [ident_eq, fuses_eq, pending_eq]
@[simp ↓] theorem State.parityDiscard_kept (s : State) (p : NocPacket) (opc : Nat) : (State.parityDiscard s p opc).kept = s.kept := by
  unfold State.parityDiscard; simp
@[simp ↓] theorem State.respond_kept (s : State) (w : Nat) (opc : Nat) (len : Nat) (word1 : Nat) (data : List Byte) : (State.respond s w opc len word1 data).kept = s.kept := by
  unfold State.respond; simp
@[simp ↓] theorem State.nocErr_kept (s : State) (w : Nat) (code : Nat) : (State.nocErr s w code).kept = s.kept := by
  unfold State.nocErr; simp
@[simp ↓] theorem State.nocAcked_kept (s : State) (w : Nat) : (State.nocAcked s w).kept = s.kept := by
  simp [State.nocAcked]
@[simp ↓] theorem State.proxied_kept (s : State) (w : Nat) : (State.proxied s w).kept = s.kept := by
  simp [State.proxied]
@[simp ↓] theorem State.denied_kept (s : State) (w : Nat) (write : Bool) : (State.denied s w write).kept = s.kept := by
  unfold State.denied
  (repeat' (split <;> (try simp)))
@[simp ↓] theorem State.serviceRead_kept (s : State) (a : Nat) (n : Nat) : (State.serviceRead s a n).2.kept = s.kept := by
  unfold State.serviceRead; (try simp); (repeat' (split <;> (try simp)))
@[simp ↓] theorem State.serviceWrite_kept (s : State) (a : Nat) (kind : Nat) (bs : List Byte) : (State.serviceWrite s
    a kind bs).kept = s.kept := by
  unfold State.serviceWrite
  (try simp [ident_eq, fuses_eq, pending_eq]); (repeat' (split <;> (try simp)))
@[simp ↓] theorem State.padTake_kept (s : State) (q : Nat) (k : Nat) : (State.padTake s q k).kept = s.kept := by
  unfold State.padTake; simp
@[simp ↓] theorem State.padQueue_kept (s : State) (w : PadWait) : (State.padQueue s w).kept = s.kept := by
  unfold State.padQueue; simp
@[simp ↓] theorem State.openTxn_kept (s : State) (p : NocPacket) : (State.openTxn s p).kept = s.kept := by
  simp [State.openTxn]
@[simp ↓] theorem State.closeTxn_kept (s : State) (w : Nat) : (State.closeTxn s w).kept = s.kept := by
  simp [State.closeTxn]
@[simp ↓] theorem State.cacheRead_kept (s : State) (w : Nat) (a : Nat) (n : Nat) : (State.cacheRead s w a n).kept =
    s.kept := by
  simp [State.cacheRead]
@[simp ↓] theorem State.sendInv_kept (s : State) (w : Nat) (h : Nat) (l : Nat) : (State.sendInv s w h l).kept = s.kept := by
  unfold State.sendInv; simp
@[simp ↓] theorem State.ackWrite_kept (s : State) (w : Nat) (a : Nat) (n : Nat) : (State.ackWrite s w a n).kept =
    s.kept := by
  simp [State.ackWrite]
@[simp ↓] theorem State.service_kept (s : State) (p : NocPacket) (n : Nat) (write : Bool) (alias_ : Bool) (act : State
    → State) (hact : ∀ x0, (act x0).kept = x0.kept) : (State.service s p n write alias_ act).kept = s.kept := by
  unfold State.service
  (try simp [hact]); (repeat' (split <;> (try simp)))
@[simp ↓] theorem State.doRead_kept (s : State) (p : NocPacket) : (State.doRead s p).kept = s.kept := by
  unfold State.doRead; simp
@[simp ↓] theorem State.wroteFor_kept (s : State) (p : NocPacket) (n : Nat) : (State.wroteFor s p n).kept = s.kept := by
  unfold State.wroteFor; (try simp); (repeat' (split <;> (try simp)))
@[simp ↓] theorem State.doWrite_kept (s : State) (p : NocPacket) (kind : Nat) (n : Nat) : (State.doWrite s p kind n).kept = s.kept := by
  unfold State.doWrite; simp
@[simp ↓] theorem State.perform_kept (s : State) (p : NocPacket) : (State.perform s p).kept = s.kept := by
  unfold State.perform; simp
@[simp ↓] theorem State.access_kept (s : State) (p : NocPacket) (act : State → State) (hact : ∀ x0, (act x0).kept = x0.kept) : (State.access s p act).kept = s.kept := by
  unfold State.access; simp [hact]
@[simp ↓] theorem State.atPort_kept (s : State) (p : NocPacket) : (State.atPort s p).kept = s.kept := by
  unfold State.atPort; (try simp); (repeat' (split <;> (try simp)))
@[simp ↓] theorem State.bulkRead_kept (s : State) (p : NocPacket) : (State.bulkRead s p).kept = s.kept := by
  unfold State.bulkRead; simp
@[simp ↓] theorem State.bulkWrite_kept (s : State) (p : NocPacket) : (State.bulkWrite s p).kept = s.kept := by
  unfold State.bulkWrite; simp
@[simp ↓] theorem State.holdBegins_kept (s : State) (r : Nat) : (State.holdBegins s r).kept = s.kept := by
  unfold State.holdBegins; simp
@[simp ↓] theorem State.holdRouter_kept (s : State) (r : Nat) (nets : Nat) : (State.holdRouter s r nets).kept = s.kept := by
  unfold State.holdRouter; simp
@[simp ↓] theorem State.setProbe_kept (s : State) (i : Nat) (n : NocProbe) : (State.setProbe s i n).kept = s.kept := by
  simp [State.setProbe]
@[simp ↓] theorem State.setRegulator_kept (s : State) (i : Nat) (rate : Nat) (burst : Nat) : (State.setRegulator s i rate burst).kept = s.kept := by
  unfold State.setRegulator; simp
@[simp ↓] theorem State.writeReg_kept (s : State) (reg : Nat) (i : Nat) (v : Nat) : (State.writeReg s reg i v).kept = s.kept := by
  unfold State.writeReg; (try simp); (repeat' (split <;> (try simp)))
@[simp ↓] theorem State.atReg_kept (s : State) (p : NocPacket) (act : State → Nat → Nat → State) (hact : ∀ x0 x1 x2, (act x0 x1 x2).kept = x0.kept) : (State.atReg s p act).kept = s.kept := by
  unfold State.atReg; (try simp [hact]); (repeat' (split <;> (try simp [hact])))
@[simp ↓] theorem State.atTarget_kept (s : State) (p : NocPacket) : (State.atTarget s p).kept = s.kept := by
  unfold State.atTarget; simp
@[simp ↓] theorem State.request_kept (s : State) (p : NocPacket) : (State.request s p).kept = s.kept := by
  unfold State.request; (try simp); (repeat' (split <;> (try simp)))
@[simp ↓] theorem State.response_kept (s : State) (p : NocPacket) : (State.response s p).kept = s.kept := by
  unfold State.response; simp
@[simp ↓] theorem State.invalidate_kept (s : State) (p : NocPacket) : (State.invalidate s p).kept = s.kept := by
  unfold State.invalidate; simp
@[simp ↓] theorem State.snpAcked_kept (s : State) (p : NocPacket) : (State.snpAcked s p).kept = s.kept := by
  unfold State.snpAcked; (try simp); (repeat' (split <;> (try simp)))
@[simp ↓] theorem State.ejected_kept (s : State) (p : NocPacket) : (State.ejected s p).kept = s.kept := by
  unfold State.ejected; simp
@[simp ↓] theorem State.nocPass_kept (s : State) (x : NocWait) : (State.nocPass s x).kept = s.kept := by
  unfold State.nocPass; simp
@[simp ↓] theorem State.nocDelay_kept (s : State) (x : NocWait) : (State.nocDelay s x).kept = s.kept := by
  unfold State.nocDelay; simp
@[simp ↓] theorem State.nocAttempt_kept (s : State) (x : NocWait) : (State.nocAttempt s x).kept = s.kept := by
  unfold State.nocAttempt; simp
@[simp ↓] theorem State.nocEnter_kept (s : State) (p : NocPacket) (opc : Nat) : (State.nocEnter s p opc).kept = s.kept := by
  unfold State.nocEnter; simp
theorem execNocRd_kept (p : NocPacket) (s : State) : ∀ t, (execNocRd p s) = .next t → t.kept = s.kept := by
  intro t h; unfold execNocRd at h
  rw [← Host.Outcome.next.inj h]
  simp
theorem execNocWr_kept (p : NocPacket) (s : State) : ∀ t, (execNocWr p s) = .next t → t.kept = s.kept := by
  intro t h; unfold execNocWr at h
  rw [← Host.Outcome.next.inj h]
  simp
theorem execSetw_kept (p : NocPacket) (s : State) : ∀ t, (execSetw p s) = .next t → t.kept = s.kept := by
  intro t h; unfold execSetw at h
  rw [← Host.Outcome.next.inj h]
  simp
theorem execClrw_kept (p : NocPacket) (s : State) : ∀ t, (execClrw p s) = .next t → t.kept = s.kept := by
  intro t h; unfold execClrw at h
  rw [← Host.Outcome.next.inj h]
  simp
theorem execBulkRd_kept (p : NocPacket) (s : State) : ∀ t, (execBulkRd p s) = .next t → t.kept = s.kept := by
  intro t h; unfold execBulkRd at h; (try dsimp only at h)
  rw [← Host.Outcome.next.inj h]
  simp
theorem execBulkWr_kept (p : NocPacket) (s : State) : ∀ t, (execBulkWr p s) = .next t → t.kept = s.kept := by
  intro t h; unfold execBulkWr at h; (try dsimp only at h)
  rw [← Host.Outcome.next.inj h]
  simp
theorem execRegRd_kept (p : NocPacket) (s : State) : ∀ t, (execRegRd p s) = .next t → t.kept = s.kept := by
  intro t h; unfold execRegRd at h; (try dsimp only at h)
  rw [← Host.Outcome.next.inj h]
  simp
theorem execRegWr_kept (p : NocPacket) (s : State) : ∀ t, (execRegWr p s) = .next t → t.kept = s.kept := by
  intro t h; unfold execRegWr at h
  rw [← Host.Outcome.next.inj h]
  simp
theorem execCtl_kept (p : NocPacket) (s : State) : ∀ t, (execCtl p s) = .next t → t.kept = s.kept := by
  intro t h; unfold execCtl at h
  rw [← Host.Outcome.next.inj h]
  simp
theorem execNocAck_kept (p : NocPacket) (s : State) : ∀ t, (execNocAck p s) = .next t → t.kept = s.kept := by
  intro t h; unfold execNocAck at h
  rw [← Host.Outcome.next.inj h]
  simp
theorem execRdData_kept (p : NocPacket) (s : State) : ∀ t, (execRdData p s) = .next t → t.kept = s.kept := by
  intro t h; unfold execRdData at h
  rw [← Host.Outcome.next.inj h]
  simp
theorem execErr_kept (p : NocPacket) (s : State) : ∀ t, (execErr p s) = .next t → t.kept = s.kept := by
  intro t h; unfold execErr at h
  rw [← Host.Outcome.next.inj h]
  simp
theorem execBulkData_kept (p : NocPacket) (s : State) : ∀ t, (execBulkData p s) = .next t → t.kept = s.kept := by
  intro t h; unfold execBulkData at h
  rw [← Host.Outcome.next.inj h]
  simp
theorem execInv_kept (p : NocPacket) (s : State) : ∀ t, (execInv p s) = .next t → t.kept = s.kept := by
  intro t h; unfold execInv at h; (try dsimp only at h)
  rw [← Host.Outcome.next.inj h]
  simp
theorem execSnpAck_kept (p : NocPacket) (s : State) : ∀ t, (execSnpAck p s) = .next t → t.kept = s.kept := by
  intro t h; unfold execSnpAck at h; (try dsimp only at h)
  rw [← Host.Outcome.next.inj h]
  (try simp); (repeat' (split <;> (try simp)))
@[simp ↓] theorem State.expireCommand_kept (s : State) (init : Nat) : (State.expireCommand s init).kept = s.kept := by
  unfold State.expireCommand; (try simp); (repeat' (split <;> (try simp)))
@[simp ↓] theorem State.reissue_kept (s : State) (t : Txn) : (State.reissue s t).kept = s.kept := by
  unfold State.reissue; simp
theorem execServiceTimeout_kept (init : Nat) (txn : Nat) (s : State) : ∀ t, (execServiceTimeout init txn s) = .next t
    → t.kept = s.kept := by
  intro t h; unfold execServiceTimeout at h; (try dsimp only at h)
  rw [← Host.Outcome.next.inj h]
  (repeat' (split <;> (try simp)))
theorem execRouterReconfigure_kept (router : Nat) (nets : Nat) (weights : Nat) (s : State) : ∀ t,
    (execRouterReconfigure router nets weights s) = .next t → t.kept = s.kept := by
  intro t h; unfold execRouterReconfigure at h
  rw [← Host.Outcome.next.inj h]
  simp
theorem execRegulatorChange_kept (point : Nat) (net : Nat) (rate : Nat) (burst : Nat) (s : State) : ∀ t,
    (execRegulatorChange point net rate burst s) = .next t → t.kept = s.kept := by
  intro t h; unfold execRegulatorChange at h
  rw [← Host.Outcome.next.inj h]
  simp
@[simp ↓] theorem State.holdStep_kept (s : State) (d : Nat) : (State.holdStep s d).kept = s.kept := by
  unfold State.holdStep; (try simp); (repeat' (split <;> (try simp)))
@[simp ↓] theorem State.nocTick_kept (s : State) : (State.nocTick s).kept = s.kept := by
  unfold State.nocTick; simp

/-! ### Device -/
theorem execDeviceInfo_kept (c : Cmd) (s : State) : ∀ t, (execDeviceInfo c s) = .next t → t.kept = s.kept := by
  intro t h; unfold execDeviceInfo at h
  rw [← Host.Outcome.next.inj h]
  simp [deviceInfoCard]
theorem execEcho_kept (c : Cmd) (s : State) : ∀ t, (execEcho c s) = .next t → t.kept = s.kept := by
  intro t h; unfold execEcho at h
  rw [← Host.Outcome.next.inj h]
  simp [echoCard]
@[simp ↓] theorem State.stageWrite_kept (s : State) (offset : Nat) (total : Nat) (data : List Byte) :
    (State.stageWrite s offset total data).kept = s.kept := by
  unfold State.stageWrite
  simp [ident_eq, fuses_eq, pending_eq]
@[simp ↓] theorem State.stageJudge_kept (s : State) (g : Prog) : (State.stageJudge s g).kept = s.kept := by
  unfold State.stageJudge
  simp [ident_eq, fuses_eq, pending_eq]
theorem execFwStage_kept (c : Cmd) (s : State) : ∀ t, (execFwStage c s) = .next t → t.kept = s.kept := by
  intro t h; unfold execFwStage at h
  rw [← Host.Outcome.next.inj h]
  simp [fwStageCard]
@[simp ↓] theorem State.beginRestart_kept (s : State) (cause : Nat) : (State.beginRestart s cause).kept = s.kept := by
  simp [State.beginRestart]
@[simp ↓] theorem State.activateFw_kept (s : State) : (State.activateFw s).kept = s.kept := by
  unfold State.activateFw
  simp [ident_eq, fuses_eq, pending_eq]
theorem execFwActivate_kept (c : Cmd) (s : State) : ∀ t, (execFwActivate c s) = .next t → t.kept = s.kept := by
  intro t h; unfold execFwActivate at h
  rw [← Host.Outcome.next.inj h]
  simp [fwActivateCard]
@[simp ↓] theorem State.enterErase_kept (s : State) (k : EraseKind) : (State.enterErase s k).kept = s.kept := by
  simp [State.enterErase]
theorem execWipe_kept (c : Cmd) (s : State) : ∀ t, (execWipe c s) = .next t → t.kept = s.kept := by
  intro t h; unfold execWipe at h
  rw [← Host.Outcome.next.inj h]
  simp [wipeCard]
theorem execFabricRelease_kept (c : Cmd) (s : State) : ∀ t, (execFabricRelease c s) = .next t → t.kept = s.kept := by
  intro t h; unfold execFabricRelease at h
  rw [← Host.Outcome.next.inj h]
  simp [fabricReleaseCard]
theorem execPowerCap_kept (c : Cmd) (s : State) : ∀ t, (execPowerCap c s) = .next t → t.kept = s.kept := by
  intro t h; unfold execPowerCap at h
  rw [← Host.Outcome.next.inj h]
  (repeat' first
      | (with_reducible rfl)
      | (simp [powerCapCard]; done)
      | split
      | (dsimp only [powerCapCard])
      | (refine State.runCard_kept _ _ _ (fun _ _ _ => ?_))
      | (simp [ident_eq, fuses_eq, pending_eq, powerCapCard]))
theorem execClockFloor_kept (c : Cmd) (s : State) : ∀ t, (execClockFloor c s) = .next t → t.kept = s.kept := by
  intro t h; unfold execClockFloor at h
  rw [← Host.Outcome.next.inj h]
  simp [clockFloorCard]
@[simp ↓] theorem State.selectLadder_kept (s : State) (step : Nat) : (State.selectLadder s step).kept = s.kept := by
  simp [State.selectLadder]
theorem execLadderSelect_kept (c : Cmd) (s : State) : ∀ t, (execLadderSelect c s) = .next t → t.kept = s.kept := by
  intro t h; unfold execLadderSelect at h
  rw [← Host.Outcome.next.inj h]
  simp [ladderSelectCard]
theorem execPadRelease_kept (c : Cmd) (s : State) : ∀ t, (execPadRelease c s) = .next t → t.kept = s.kept := by
  intro t h; unfold execPadRelease at h
  rw [← Host.Outcome.next.inj h]
  simp [padReleaseCard]
@[simp ↓] theorem State.armTrace_kept (s : State) (k : TraceCfg) : (State.armTrace s k).kept = s.kept := by
  simp [State.armTrace]
theorem execTraceArm_kept (c : Cmd) (s : State) : ∀ t, (execTraceArm c s) = .next t → t.kept = s.kept := by
  intro t h; unfold execTraceArm at h
  rw [← Host.Outcome.next.inj h]
  simp [traceCard]
theorem execTraceDisable_kept (c : Cmd) (s : State) : ∀ t, (execTraceDisable c s) = .next t → t.kept = s.kept := by
  intro t h; unfold execTraceDisable at h
  rw [← Host.Outcome.next.inj h]
  simp [traceCard]
theorem execTraceStop_kept (c : Cmd) (s : State) : ∀ t, (execTraceStop c s) = .next t → t.kept = s.kept := by
  intro t h; unfold execTraceStop at h
  rw [← Host.Outcome.next.inj h]
  simp [traceCard]
theorem execProbeConfig_kept (c : Cmd) (s : State) : ∀ t, (execProbeConfig c s) = .next t → t.kept = s.kept := by
  intro t h; unfold execProbeConfig at h
  rw [← Host.Outcome.next.inj h]
  simp [traceCard]
theorem execTraceRead_kept (c : Cmd) (s : State) : ∀ t, (execTraceRead c s) = .next t → t.kept = s.kept := by
  intro t h; unfold execTraceRead at h
  rw [← Host.Outcome.next.inj h]
  simp [traceReadCard]

end Sys2Proof.Machine
end

