-- ==== Sys2Proof/Laws/KeptCards.lean ====
section
/-!
SUPPORT. `kept`, the identity, the fuses and the waiting commands, through the command cards.
-/

namespace Sys2Proof.Machine
open Sys2Proof

/-! ### Security -/
theorem execAttest_kept (c : Cmd) (s : State) : ∀ t, (execAttest c s) = .next t → t.kept = s.kept := by
  intro t h; unfold execAttest at h
  rw [← Host.Outcome.next.inj h]
  simp [attestCard]
@[simp ↓] theorem State.newSid_kept (s : State) : (State.newSid s).2.kept = s.kept := by simp [State.newSid]
@[simp ↓] theorem State.bindRing_kept (s : State) (ring : Nat) (sid : Nat) (rebind : Nat) : (State.bindRing s ring sid
    rebind).kept = s.kept := by
  simp [State.bindRing]
@[simp ↓] theorem State.openSession_kept (s : State) (g : Prog) (c : Cmd) : (State.openSession s g c).kept = s.kept := by
  simp [State.openSession]
theorem execSessionOpen_kept (c : Cmd) (s : State) : ∀ t, (execSessionOpen c s) = .next t → t.kept = s.kept := by
  intro t h; unfold execSessionOpen at h
  rw [← Host.Outcome.next.inj h]
  simp [ident_eq, sessionOpenCard]
theorem execSessionRebind_kept (c : Cmd) (s : State) : ∀ t, (execSessionRebind c s) = .next t → t.kept = s.kept := by
  intro t h; unfold execSessionRebind at h
  rw [← Host.Outcome.next.inj h]
  simp [sessionRebindCard]
@[simp ↓] theorem State.closeSession_kept (s : State) (sid : Nat) : (State.closeSession s sid).kept = s.kept := by
  simp [State.closeSession]
theorem execSessionClose_kept (c : Cmd) (s : State) : ∀ t, (execSessionClose c s) = .next t → t.kept = s.kept := by
  intro t h; unfold execSessionClose at h
  rw [← Host.Outcome.next.inj h]
  simp [sessionCloseCard]
theorem execLcTransition_kept (c : Cmd) (s : State) : ∀ t, (execLcTransition c s) = .next t → t.kept = s.kept := by
  intro t h; unfold execLcTransition at h
  rw [← Host.Outcome.next.inj h]
  simp [fuses_eq, lcTransitionCard]

/-! ### Boot -/
theorem execBootStart_kept (s : State) : ∀ t, (execBootStart s) = .next t → t.kept = s.kept := by
  intro t h; unfold execBootStart at h
  rw [← Host.Outcome.next.inj h]
  simp
@[simp ↓] theorem State.toStage_kept (s : State) (n : Nat) : (State.toStage s n).kept = s.kept := by
  simp [State.toStage]
@[simp ↓] theorem State.startFails_kept (s : State) (code : Nat) (detail : Nat) : (State.startFails s code
    detail).kept = s.kept := by
  simp [State.startFails]
@[simp ↓] theorem State.startSlot_kept (s : State) (wantB : Bool) (b : Bool) : (State.startSlot s wantB b).kept =
    s.kept := by
  unfold State.startSlot
  simp [ident_eq, fuses_eq, pending_eq]
@[simp ↓] theorem State.enterMinimal_kept (s : State) : (State.enterMinimal s).kept = s.kept := by
  simp [State.enterMinimal]
@[simp ↓] theorem State.bootRegulators_kept (s : State) : (State.bootRegulators s).kept = s.kept := by
  simp [State.bootRegulators]
@[simp ↓] theorem State.enterService_kept (s : State) : (State.enterService s).kept = s.kept := by
  simp [State.enterService]
@[simp ↓] theorem State.stagePasses_kept (s : State) : (State.stagePasses s).kept = s.kept := by
  unfold State.stagePasses
  (try simp); (repeat' (split <;> (try simp)))
theorem execBootStageComplete_kept (r : StageResult) (s : State) : ∀ t, (execBootStageComplete r s) = .next t → t.kept
    = s.kept := by
  intro t h; unfold execBootStageComplete at h; (try dsimp only at h)
  rw [← Host.Outcome.next.inj h]
  (try simp); (repeat' (split <;> (try simp)))
theorem execWake_kept (pulseNs : Nat) (s : State) : ∀ t, (execWake pulseNs s) = .next t → t.kept = s.kept := by
  intro t h; unfold execWake at h; (try dsimp only at h)
  rw [← Host.Outcome.next.inj h]
  simp [ident_eq, fuses_eq, pending_eq]
@[simp ↓] theorem State.completeOpcode_kept (s : State) (opcode : Nat) (status : Nat) : (State.completeOpcode s opcode
    status).kept = s.kept := by
  simp [State.completeOpcode]
@[simp ↓] theorem State.coreFails_kept (s : State) (src : Nat) (code : Nat) (detail : Nat) (cause : Nat) (within10s :
    Bool) : (State.coreFails s src code detail cause within10s).kept = s.kept := by
  simp [State.coreFails]
theorem execCcWatchdog_kept (core : Nat) (within10s : Bool) (s : State) : ∀ t, (execCcWatchdog core within10s s) =
    .next t → t.kept = s.kept := by
  intro t h; unfold execCcWatchdog at h
  rw [← Host.Outcome.next.inj h]
  simp
theorem execCcLockup_kept (core : Nat) (within10s : Bool) (s : State) : ∀ t, (execCcLockup core within10s s) = .next t
    → t.kept = s.kept := by
  intro t h; unfold execCcLockup at h
  rw [← Host.Outcome.next.inj h]
  simp
@[simp ↓] theorem State.endRestart_kept (s : State) : (State.endRestart s).kept = s.kept := by simp [State.endRestart]
theorem execCcRestartComplete_kept (s : State) : ∀ t, (execCcRestartComplete s) = .next t → t.kept = s.kept := by
  intro t h; unfold execCcRestartComplete at h
  rw [← Host.Outcome.next.inj h]
  (try simp); (repeat' (split <;> (try simp)))
theorem execCcRestartTimeout_kept (s : State) : ∀ t, (execCcRestartTimeout s) = .next t → t.kept = s.kept := by
  intro t h; unfold execCcRestartTimeout at h
  rw [← Host.Outcome.next.inj h]
  simp
theorem execSupplyWarning_kept (die : Nat) (s : State) : ∀ t, (execSupplyWarning die s) = .next t → t.kept = s.kept := by
  intro t h; unfold execSupplyWarning at h; (try dsimp only at h)
  rw [← Host.Outcome.next.inj h]
  simp
@[simp ↓] theorem State.resumePasture_kept (s : State) (p : Nat) : (State.resumePasture s p).kept = s.kept := by
  unfold State.resumePasture
  (try simp); (repeat' (split <;> (try simp)))
theorem execSupplyReturn_kept (s : State) : ∀ t, (execSupplyReturn s) = .next t → t.kept = s.kept := by
  intro t h; unfold execSupplyReturn at h; (try dsimp only at h)
  rw [← Host.Outcome.next.inj h]
  simp
theorem execHoldTimeout_kept (s : State) : ∀ t, (execHoldTimeout s) = .next t → t.kept = s.kept := by
  intro t h; unfold execHoldTimeout at h
  rw [← Host.Outcome.next.inj h]
  simp

/-! ### AcqCards -/
theorem execAcqArm_kept (c : Cmd) (s : State) : ∀ t, (execAcqArm c s) = .next t → t.kept = s.kept := by
  intro t h; unfold execAcqArm at h
  rw [← Host.Outcome.next.inj h]
  simp [acqCard]
theorem execAcqDisarm_kept (c : Cmd) (s : State) : ∀ t, (execAcqDisarm c s) = .next t → t.kept = s.kept := by
  intro t h; unfold execAcqDisarm at h
  rw [← Host.Outcome.next.inj h]
  simp [acqCard]
theorem execAcqForce_kept (c : Cmd) (s : State) : ∀ t, (execAcqForce c s) = .next t → t.kept = s.kept := by
  intro t h; unfold execAcqForce at h
  rw [← Host.Outcome.next.inj h]
  simp [acqCard]
@[simp ↓] theorem State.takeReadNo_kept (s : State) (p : Nat) : (State.takeReadNo s p).kept = s.kept := by
  simp [State.takeReadNo]
@[simp ↓] theorem State.acqReadBack_kept (s : State) (c : Cmd) (g : Prog) : (State.acqReadBack s c g).kept = s.kept := by
  simp [State.acqReadBack]
theorem execAcqRead_kept (c : Cmd) (s : State) : ∀ t, (execAcqRead c s) = .next t → t.kept = s.kept := by
  intro t h; unfold execAcqRead at h
  rw [← Host.Outcome.next.inj h]
  simp [acqReadCard]
theorem execAcqProgram_kept (c : Cmd) (s : State) : ∀ t, (execAcqProgram c s) = .next t → t.kept = s.kept := by
  intro t h; unfold execAcqProgram at h
  rw [← Host.Outcome.next.inj h]
  simp [acqProgramCard]

/-! ### CoreTrace -/
theorem execTraceStartEvent_kept (bit : Nat) (s : State) : ∀ t, (execTraceStartEvent bit s) = .next t → t.kept = s.kept := by
  intro t h; unfold execTraceStartEvent at h
  rw [← Host.Outcome.next.inj h]
  simp
theorem execTraceStopEvent_kept (bit : Nat) (s : State) : ∀ t, (execTraceStopEvent bit s) = .next t → t.kept = s.kept := by
  intro t h; unfold execTraceStopEvent at h
  rw [← Host.Outcome.next.inj h]
  simp
theorem execTraceStoppingComplete_kept (s : State) : ∀ t, (execTraceStoppingComplete s) = .next t → t.kept = s.kept := by
  intro t h; unfold execTraceStoppingComplete at h; (try dsimp only at h)
  rw [← Host.Outcome.next.inj h]
  simp
theorem execTraceTimeTimer_kept (core : Nat) (s : State) : ∀ t, (execTraceTimeTimer core s) = .next t → t.kept = s.kept := by
  intro t h; unfold execTraceTimeTimer at h
  rw [← Host.Outcome.next.inj h]
  simp
theorem execTraceOverflow_kept (core : Nat) (s : State) : ∀ t, (execTraceOverflow core s) = .next t → t.kept = s.kept := by
  intro t h; unfold execTraceOverflow at h; (try dsimp only at h)
  rw [← Host.Outcome.next.inj h]
  simp
@[simp ↓] theorem State.traceCompare_kept (s : State) (data : Bool) (core : Nat) (addr : Nat) : (State.traceCompare s
    data core addr).kept = s.kept := by
  simp [State.traceCompare]
@[simp ↓] theorem State.traceAccess_kept (s : State) (core : Nat) (addr : Nat) (size : Nat) (store : Bool) (value :
    Nat) : (State.traceAccess s core addr size store value).kept = s.kept := by
  simp [State.traceAccess]
@[simp ↓] theorem State.traceRetire_kept (s : State) (core : Nat) (next : Nat) (branch : Bool) (traced : Bool) :
    (State.traceRetire s core next branch traced).kept = s.kept := by
  simp [State.traceRetire]
@[simp ↓] theorem droverStep_kept (core : Nat) (pc : Nat) (k : DcKind) (s : State) : (droverStep core pc k s).kept =
    s.kept := by
  unfold droverStep
  (try simp); (repeat' (split <;> (try simp)))
theorem execDroverCoreInstruction_kept (core : Nat) (pc : Nat) (k : DcKind) (s : State) : ∀ t,
    (execDroverCoreInstruction core pc k s) = .next t → t.kept = s.kept := by
  intro t h; unfold execDroverCoreInstruction at h
  rw [← Host.Outcome.next.inj h]
  simp

/-! ### DiagCards -/
theorem execDiagRegRead_kept (c : Cmd) (s : State) : ∀ t, (execDiagRegRead c s) = .next t → t.kept = s.kept := by
  intro t h; unfold execDiagRegRead at h
  rw [← Host.Outcome.next.inj h]
  simp [diagRegReadCard]
@[simp ↓] theorem State.diagDenied_kept (s : State) (p : Nat) (ok : Bool) (write : Bool) : (State.diagDenied s p ok
    write).kept = s.kept := by
  simp [State.diagDenied]
@[simp ↓] theorem State.diagBytes_kept (s : State) (a n : Nat) : (State.diagBytes s a n).2.kept = s.kept := by
  unfold State.diagBytes
  exact foldl_snd_kept _ (fun _ _ => by simp) _ _
@[simp ↓] theorem State.diagFinishRead_kept (s : State) (j : DiagJob) (bs : List Byte) : (State.diagFinishRead s j bs).kept = s.kept := by
  unfold State.diagFinishRead; simp
@[simp ↓] theorem State.diagStore_kept (s : State) (p : Nat) (a : Nat) (bs : List Byte) : (State.diagStore s p a bs).kept = s.kept := by
  unfold State.diagStore; simp
@[simp ↓] theorem State.diagRest_kept (s : State) (j : DiagJob) : (State.diagRest s j).kept = s.kept := by
  unfold State.diagRest; simp
@[simp ↓] theorem State.diagWait_kept (s : State) (j : DiagJob) : (State.diagWait s j).kept = s.kept := by
  unfold State.diagWait; simp
@[simp ↓] theorem State.diagGo_kept (s : State) (j : DiagJob) : (State.diagGo s j).kept = s.kept := by
  unfold State.diagGo; simp
@[simp ↓] theorem State.diagTurn_kept (s : State) (j : DiagJob) : (State.diagTurn s j).kept = s.kept := by
  unfold State.diagTurn; simp
@[simp ↓] theorem State.diagTick_kept (s : State) : (State.diagTick s).kept = s.kept := by
  unfold State.diagTick; dsimp only
  split
  · rfl
  · refine foldl_kept _ (fun s w => ?_) _ _
    split
    · split
      · simp
      · split <;> simp
    · rfl
@[simp ↓] theorem State.padStep_kept (s : State) (q k : Nat) : (State.padStep s q k).kept = s.kept := by
  unfold State.padStep; dsimp only
  (repeat' (split <;> (try simp)))
@[simp ↓] theorem State.serviceStep_kept (s : State) (q : Nat) : (State.serviceStep s q).kept = s.kept := by
  unfold State.serviceStep; simp
theorem execDiagMemRead_kept (c : Cmd) (s : State) : ∀ t, (execDiagMemRead c s) = .next t → t.kept = s.kept := by
  intro t h; unfold execDiagMemRead at h
  rw [← Host.Outcome.next.inj h]
  simp [diagMemReadCard]
theorem execDiagMemWrite_kept (c : Cmd) (s : State) : ∀ t, (execDiagMemWrite c s) = .next t → t.kept = s.kept := by
  intro t h; unfold execDiagMemWrite at h
  rw [← Host.Outcome.next.inj h]
  simp [diagMemWriteCard]

/-! ### FlowCards -/
theorem execFlowHoldings_kept (c : Cmd) (s : State) : ∀ t, (execFlowHoldings c s) = .next t → t.kept = s.kept := by
  intro t h; unfold execFlowHoldings at h
  rw [← Host.Outcome.next.inj h]
  simp [flowHoldingsCard]
@[simp ↓] theorem State.kick_kept (s : State) (t : Nat) : (State.kick s t).kept = s.kept := by simp [State.kick]
theorem execTaskKick_kept (c : Cmd) (s : State) : ∀ t, (execTaskKick c s) = .next t → t.kept = s.kept := by
  intro t h; unfold execTaskKick at h
  rw [← Host.Outcome.next.inj h]
  simp [taskKickCard]
@[simp ↓] theorem State.tallies_kept (s : State) (c : Cmd) : (State.tallies s c).2.kept = s.kept := by
  unfold State.tallies; dsimp only
  refine (foldl_snd_kept _ (fun a i => ?_) _ _).trans ?_ <;> simp
theorem execFlowTallies_kept (c : Cmd) (s : State) : ∀ t, (execFlowTallies c s) = .next t → t.kept = s.kept := by
  intro t h; unfold execFlowTallies at h
  rw [← Host.Outcome.next.inj h]
  simp [flowTalliesCard]

/-! ### Load -/
@[simp ↓] theorem State.addRegion_kept (s : State) (r : ServiceRec) : (State.addRegion s r).kept = s.kept := by
  unfold State.addRegion
  (try simp [ident_eq, fuses_eq, pending_eq]); (repeat' (split <;> (try simp)))
@[simp ↓] theorem State.claimImage_kept (s : State) (p : Nat) (m : Image) : (State.claimImage s p m).kept = s.kept := by
  simp [State.claimImage]
@[simp ↓] theorem State.writeFolds_kept (s : State) (p : Nat) (m : Image) : (State.writeFolds s p m).kept = s.kept := by
  unfold State.writeFolds
  simp [ident_eq, fuses_eq, pending_eq]
@[simp ↓] theorem State.writeHbmInit_kept (s : State) (m : Image) : (State.writeHbmInit s m).kept = s.kept := by
  unfold State.writeHbmInit
  simp [ident_eq, fuses_eq, pending_eq]
@[simp ↓] theorem State.zeroWindows_kept (s : State) (p : Nat) : (State.zeroWindows s p).kept = s.kept := by
  unfold State.zeroWindows; simp [ident_eq, fuses_eq, pending_eq]
@[simp ↓] theorem State.finishLoad_kept (s : State) (p : Nat) (l : PLoad) : (State.finishLoad s p l).kept = s.kept := by
  unfold State.finishLoad
  simp [ident_eq, fuses_eq, pending_eq]
@[simp ↓] theorem State.settleLoad_kept (s : State) (p : Nat) : (State.settleLoad s p).kept = s.kept := by
  unfold State.settleLoad
  (try simp); (repeat' (split <;> (try simp)))
@[simp ↓] theorem State.refuseLoad_kept (s : State) (g : Prog) (p : Nat) (x : LoadFail) : (State.refuseLoad s g p
    x).kept = s.kept := by
  simp [State.refuseLoad]
@[simp ↓] theorem State.refuseHeader_kept (s : State) (g : Prog) (p : Nat) (x : LoadFail) : (State.refuseHeader s g p
    x).kept = s.kept := by
  simp [State.refuseHeader]
@[simp ↓] theorem State.beginLoad_kept (s : State) (p : Nat) (ring : Nat) (h : List Byte) : (State.beginLoad s p ring
    h).kept = s.kept := by
  simp [State.beginLoad]
@[simp ↓] theorem State.takeChunk_kept (s : State) (g : Prog) (p : Nat) (l : PLoad) (i : Nat) (body : List Byte) :
    (State.takeChunk s g p l i body).kept = s.kept := by
  unfold State.takeChunk
  (try simp [ident_eq, fuses_eq, pending_eq]); (repeat' (split <;> (try simp)))
@[simp ↓] theorem loadRun_kept (c : Cmd) (g : Prog) (s : State) : (loadRun c g s).kept = s.kept := by
  unfold loadRun
  (repeat' first
      | (with_reducible rfl)
      | (rw [State.linkWord_kept _ _ _ _ (by assumption)])
      | (rw [State.takeSource_kept _ _ _ _ (by assumption)])
      | (simp; done)
      | split
      | (refine State.checked_kept _ _ _ _ (fun _ => ?_))
      | (refine (foldl_kept _ (fun _ _ => ?_) _ _).trans ?_)
      | (simp))
theorem execLoadHeader_kept (c : Cmd) (s : State) : ∀ t, (execLoadHeader c s) = .next t → t.kept = s.kept := by
  intro t h; unfold execLoadHeader at h
  rw [← Host.Outcome.next.inj h]
  simp [loadCard]
theorem execLoadChunk_kept (c : Cmd) (s : State) : ∀ t, (execLoadChunk c s) = .next t → t.kept = s.kept := by
  intro t h; unfold execLoadChunk at h
  rw [← Host.Outcome.next.inj h]
  simp [loadCard]
theorem execLoadAbort_kept (c : Cmd) (s : State) : ∀ t, (execLoadAbort c s) = .next t → t.kept = s.kept := by
  intro t h; unfold execLoadAbort at h
  rw [← Host.Outcome.next.inj h]
  simp [loadAbortCard]

/-! ### RunControl -/
@[simp ↓] theorem State.startLive_kept (s : State) (p : Nat) : (State.startLive s p).kept = s.kept := by
  simp [State.startLive]
@[simp ↓] theorem State.startReplay_kept (s : State) (p : Nat) (region : Nat) (log : List IngressBlock) :
    (State.startReplay s p region log).kept = s.kept := by
  simp [State.startReplay]
@[simp ↓] theorem State.startRun_kept (s : State) (c : Cmd) : (State.startRun s c).kept = s.kept := by
  simp [State.startRun]
theorem execRun_kept (c : Cmd) (s : State) : ∀ t, (execRun c s) = .next t → t.kept = s.kept := by
  intro t h; unfold execRun at h
  rw [← Host.Outcome.next.inj h]
  simp [runCard_]
@[simp ↓] theorem State.freeze_kept (s : State) (p : Nat) : (State.freeze s p).kept = s.kept := by simp [State.freeze]
theorem execFreeze_kept (c : Cmd) (s : State) : ∀ t, (execFreeze c s) = .next t → t.kept = s.kept := by
  intro t h; unfold execFreeze at h
  rw [← Host.Outcome.next.inj h]
  simp [freezeCard]
theorem execSetWdog_kept (c : Cmd) (s : State) : ∀ t, (execSetWdog c s) = .next t → t.kept = s.kept := by
  intro t h; unfold execSetWdog at h
  rw [← Host.Outcome.next.inj h]
  simp [setWdogCard]

/-! ### RingCards -/
theorem execRingInfo_kept (c : Cmd) (s : State) : ∀ t, (execRingInfo c s) = .next t → t.kept = s.kept := by
  intro t h; unfold execRingInfo at h
  rw [← Host.Outcome.next.inj h]
  simp [ringInfoCard]
@[simp ↓] theorem State.resetOutputs_kept (s : State) (p : Nat) : (State.resetOutputs s p).kept = s.kept := by
  simp [State.resetOutputs]
@[simp ↓] theorem State.ringRollback_kept (s : State) (p : Nat) : (State.ringRollback s p).kept = s.kept := by
  simp [State.ringRollback]
theorem execRingRollback_kept (c : Cmd) (s : State) : ∀ t, (execRingRollback c s) = .next t → t.kept = s.kept := by
  intro t h; unfold execRingRollback at h
  rw [← Host.Outcome.next.inj h]
  simp [ringRollbackCard]

end Sys2Proof.Machine
end

