-- ==== Sys2Proof/Laws/KeptStep.lean ====
section
/-!
SUPPORT. `kept`, the identity, the fuses and the waiting commands, through packet intake, window W0 and the tick.
-/

namespace Sys2Proof.Machine
open Sys2Proof

/-! ### Intake -/
theorem after_kept (o : Host.Outcome State Fault Refusal) (s : State) (h : ∀ t, o = .next t → t.kept = s.kept) :
    (after o s).kept = s.kept := by
  unfold after; split
  · exact h _ rfl
  · rfl
theorem foldl_kept_mem {α : Type} (g : State → α → State) (l : List α) (h : ∀ s, ∀ x ∈ l, (g s x).kept = s.kept) (s :
    State) :
    (l.foldl g s).kept = s.kept := by
  induction l generalizing s with
  | nil => rfl
  | cons a l ih =>
    rw [List.foldl_cons, ih (fun s x hx => h s x (List.mem_cons_of_mem _ hx)), h s a (List.mem_cons_self ..)]
theorem meaningsOf_kept (op : Nat) : ∀ f ∈ meaningsOf op, ∀ c s t, f c s = .next t → t.kept = s.kept := by
  intro f hf c s t
  unfold meaningsOf at hf
  split at hf <;> simp only [List.mem_cons, List.not_mem_nil, or_false] at hf
  · subst hf; exact execDeviceInfo_kept _ _ _
  · subst hf; exact execEcho_kept _ _ _
  · subst hf; exact execFwStage_kept _ _ _
  · subst hf; exact execFwActivate_kept _ _ _
  · subst hf; exact execWipe_kept _ _ _
  · rcases hf with rfl | rfl | rfl
    exacts [execLaneBringup_kept _ _ _, execLaneRetrain_kept _ _ _, execLaneTakeDown_kept _ _ _]
  · subst hf; exact execLaneEq_kept _ _ _
  · subst hf; exact execLaneBitslip_kept _ _ _
  · subst hf; exact execLaneLoopback_kept _ _ _
  · subst hf; exact execLaneStatus_kept _ _ _
  · subst hf; exact execFabricRelease_kept _ _ _
  · subst hf; exact execPowerCap_kept _ _ _
  · subst hf; exact execClockFloor_kept _ _ _
  · subst hf; exact execLadderSelect_kept _ _ _
  · subst hf; exact execPadRelease_kept _ _ _
  · subst hf; exact execTimeAccept_kept _ _ _
  · subst hf; exact execTimeConfig_kept _ _ _
  · subst hf; exact execAttest_kept _ _ _
  · rcases hf with rfl | rfl
    exacts [execSessionOpen_kept _ _ _, execSessionRebind_kept _ _ _]
  · subst hf; exact execSessionClose_kept _ _ _
  · subst hf; exact execLcTransition_kept _ _ _
  · rcases hf with rfl | rfl | rfl | rfl
    exacts [execTraceArm_kept _ _ _, execTraceDisable_kept _ _ _, execTraceStop_kept _ _ _, execProbeConfig_kept _ _ _]
  · subst hf; exact execTraceRead_kept _ _ _
  · subst hf; exact execUnload_kept _ _ _
  · rcases hf with rfl | rfl
    exacts [execLoadHeader_kept _ _ _, execLoadChunk_kept _ _ _]
  · subst hf; exact execLoadAbort_kept _ _ _
  · subst hf; exact execRun_kept _ _ _
  · subst hf; exact execFreeze_kept _ _ _
  · subst hf; exact execSetWdog_kept _ _ _
  · subst hf; exact execFlowHoldings_kept _ _ _
  · subst hf; exact execTaskKick_kept _ _ _
  · subst hf; exact execFlowTallies_kept _ _ _
  · subst hf; exact execAcqArm_kept _ _ _
  · subst hf; exact execAcqDisarm_kept _ _ _
  · subst hf; exact execAcqForce_kept _ _ _
  · subst hf; exact execAcqRead_kept _ _ _
  · subst hf; exact execAcqProgram_kept _ _ _
  · subst hf; exact execRingInfo_kept _ _ _
  · subst hf; exact execRingRollback_kept _ _ _
  · subst hf; exact execDiagRegRead_kept _ _ _
  · subst hf; exact execDiagMemRead_kept _ _ _
  · subst hf; exact execDiagMemWrite_kept _ _ _
@[simp ↓] theorem State.runOpcode_kept (s : State) (op : Nat) (c : Cmd) : (State.runOpcode s op c).kept = s.kept := by
  unfold State.runOpcode
  exact foldl_kept_mem _ _ (fun s f hf => after_kept _ _ (meaningsOf_kept op f hf c s)) s
@[simp ↓] theorem State.halt_kept (s : State) (n : Nat) (opcode : Nat) (tag : Nat) (pasture : Nat) (status : Nat)
    (noIrq : Bool) : (State.halt s n opcode tag pasture status noIrq).kept = s.kept := by
  simp [State.halt]
@[simp ↓] theorem State.haltAt_kept (s : State) (n : Nat) (h : List Byte) (status : Nat) : (State.haltAt s n h
    status).kept = s.kept := by
  simp [State.haltAt]
@[simp ↓] theorem State.haltUnread_kept (s : State) (n : Nat) : (State.haltUnread s n).kept = s.kept := by
  simp [State.haltUnread]
@[simp ↓] theorem State.advanceRing_kept (s : State) (n : Nat) (len : Nat) : (State.advanceRing s n len).kept = s.kept := by
  simp [State.advanceRing]
@[simp ↓] theorem State.refusePacket_kept (s : State) (n : Nat) (len : Nat) (op : Nat) (c : Cmd) (status : Nat) :
    (State.refusePacket s n len op c status).kept = s.kept := by
  simp [State.refusePacket]
theorem State.judgePacket_kept (s : State) (n : Nat) (len : Nat) (h : List Byte) (body : List Byte) : ∀ t,
    (State.judgePacket s n len h body) = some t → t.kept = s.kept := by
  intro t hh; unfold State.judgePacket at hh; dsimp only at hh
  (repeat' (split at hh)) <;> first | (cases hh; done) | (cases hh; simp; done)
theorem State.intakeOne_kept (s : State) (n : Nat) : ∀ t, (State.intakeOne s n) = some t → t.kept = s.kept := by
  intro t hh; unfold State.intakeOne at hh; dsimp only at hh
  (repeat' (split at hh)) <;> first | (cases hh; done) | (cases hh; simp; done) | exact State.judgePacket_kept _ _ _ _ _ _ hh
@[simp ↓] theorem State.intake_kept (s : State) (n : Nat) (a2 : Nat) : (State.intake s n a2).kept = s.kept := by
  induction a2 generalizing s with
  | zero => rfl
  | succ k ih =>
    unfold State.intake; split
    · rename_i t h; rw [ih, State.intakeOne_kept _ _ _ h]
    · rfl
@[simp ↓] theorem State.serveRing_kept (s : State) (n : Nat) : (State.serveRing s n).kept = s.kept := by
  simp [State.serveRing]
@[simp ↓] theorem State.serveRings_kept (s : State) : (State.serveRings s).kept = s.kept := by simp [State.serveRings]
theorem execPad_kept (ring : Nat) (words : Nat) (s : State) : ∀ t, (execPad ring words s) = .next t → t.kept = s.kept := by
  intro t h; unfold execPad at h; (try dsimp only at h)
  rw [← Host.Outcome.next.inj h]
  simp

/-! ### Window -/
@[simp ↓] theorem State.w0Write_kept (s : State) (e : LadderEvent) (act : State → State) (hact : ∀ x0, (act x0).kept =
    x0.kept) : (State.w0Write s e act).kept = s.kept := by
  simp [State.w0Write, hact]
@[simp ↓] theorem State.badDoorbell_kept (s : State) (n : Nat) : (State.badDoorbell s n).kept = s.kept := by
  simp [State.badDoorbell]
@[simp ↓] theorem State.setTail_kept (s : State) (n : Nat) (value : Nat) : (State.setTail s n value).kept = s.kept := by
  simp [State.setTail]
@[simp ↓] theorem State.setCplHead_kept (s : State) (n : Nat) (value : Nat) : (State.setCplHead s n value).kept =
    s.kept := by
  simp [State.setCplHead]
@[simp ↓] theorem State.placePackets_kept (s : State) (n : Nat) (bs : List Byte) : (State.placePackets s n bs).kept =
    s.kept := by
  simp [State.placePackets]
@[simp ↓] theorem State.setCtrl_kept (s : State) (n : Nat) (value : Nat) : (State.setCtrl s n value).kept = s.kept := by
  simp [State.setCtrl]
@[simp ↓] theorem State.clearHalted_kept (s : State) (n : Nat) : (State.clearHalted s n).kept = s.kept := by
  simp [State.clearHalted]
theorem execCrCmdTailWrite_kept (ring : Nat) (value : Nat) (bytes : List Byte) (s : State) : ∀ t, (execCrCmdTailWrite
    ring value bytes s) = .next t → t.kept = s.kept := by
  intro t h; unfold execCrCmdTailWrite at h
  rw [← Host.Outcome.next.inj h]
  simp
theorem execCrCplHeadWrite_kept (ring : Nat) (value : Nat) (s : State) : ∀ t, (execCrCplHeadWrite ring value s) =
    .next t → t.kept = s.kept := by
  intro t h; unfold execCrCplHeadWrite at h
  rw [← Host.Outcome.next.inj h]
  simp
theorem execCrCtrlEnableSet_kept (ring : Nat) (value : Nat) (s : State) : ∀ t, (execCrCtrlEnableSet ring value s) =
    .next t → t.kept = s.kept := by
  intro t h; unfold execCrCtrlEnableSet at h
  rw [← Host.Outcome.next.inj h]
  simp
theorem execCrCtrlEnableClear_kept (ring : Nat) (s : State) : ∀ t, (execCrCtrlEnableClear ring s) = .next t → t.kept =
    s.kept := by
  intro t h; unfold execCrCtrlEnableClear at h
  rw [← Host.Outcome.next.inj h]
  simp
theorem execCrStatusHaltedClear_kept (ring : Nat) (s : State) : ∀ t, (execCrStatusHaltedClear ring s) = .next t →
    t.kept = s.kept := by
  intro t h; unfold execCrStatusHaltedClear at h
  rw [← Host.Outcome.next.inj h]
  simp
theorem execFlowDoorbellWrite_kept (queue : Nat) (size : Nat) (value : Nat) (s : State) : ∀ t, (execFlowDoorbellWrite
    queue size value s) = .next t → t.kept = s.kept := by
  intro t h; unfold execFlowDoorbellWrite at h
  rw [← Host.Outcome.next.inj h]
  simp
theorem execAssertValidClear_kept (pasture : Nat) (s : State) : ∀ t, (execAssertValidClear pasture s) = .next t →
    t.kept = s.kept := by
  intro t h; unfold execAssertValidClear at h
  rw [← Host.Outcome.next.inj h]
  simp
theorem execW0BadAccess_kept (_write : Bool) (s : State) : ∀ t, (execW0BadAccess _write s) = .next t → t.kept = s.kept := by
  intro t h; unfold execW0BadAccess at h
  rw [← Host.Outcome.next.inj h]
  simp
@[simp ↓] theorem State.writeIdent_kept (s : State) (reg : Nat) (off : Nat) (size : Nat) (value : Nat) :
    (State.writeIdent s reg off size value).kept = s.kept := by
  unfold State.writeIdent
  (try simp); (repeat' (split <;> (try simp)))
@[simp ↓] theorem State.clearStatus_kept (s : State) (n : Nat) (v : Nat) : (State.clearStatus s n v).kept = s.kept := by
  simp [State.clearStatus]
@[simp ↓] theorem State.writeRing_kept (s : State) (n : Nat) (reg : Nat) (off : Nat) (size : Nat) (value : Nat) :
    (State.writeRing s n reg off size value).kept = s.kept := by
  unfold State.writeRing
  (try simp); (repeat' (split <;> (try simp)))
@[simp ↓] theorem State.writeTime_kept (s : State) (reg : Nat) (off : Nat) (size : Nat) (value : Nat) :
    (State.writeTime s reg off size value).kept = s.kept := by
  simp [State.writeTime]
@[simp ↓] theorem State.writeMsix_kept (s : State) (v : Nat) (half : Nat) (off : Nat) (size : Nat) (value : Nat) :
    (State.writeMsix s v half off size value).kept = s.kept := by
  simp [State.writeMsix]
@[simp ↓] theorem State.writeW0_kept (s : State) (offset : Nat) (size : Nat) (value : Nat) : (State.writeW0 s offset
    size value).kept = s.kept := by
  simp [State.writeW0]
@[simp ↓] theorem State.overrideIsland_kept (s : State) (i : Nat) : (State.overrideIsland s i).kept = s.kept := by
  unfold State.overrideIsland; simp
theorem State.windowWrite_kept (s : State) (offset : Nat) (value : Nat) : ∀ t, (State.windowWrite s offset value) =
    .next t → t.kept = s.kept := by
  intro t h; unfold State.windowWrite at h
  split at h
  · rw [← Host.Outcome.next.inj h]; simp
  · cases h
theorem execRegisterWrite_kept (offset : Nat) (size : Nat) (value : Nat) (s : State) : ∀ t, (execRegisterWrite offset
    size value s) = .next t → t.kept = s.kept := by
  intro t hh; unfold execRegisterWrite at hh
  (repeat' (split at hh)) <;> first | (cases hh; done) | ((try rw [State.windowWrite_kept _ _ _ _ hh]); simp; done) | (rw [← Host.Outcome.next.inj hh]; done) | (rw [← Host.Outcome.next.inj hh]; simp; done)

/-! ### Fabric -/
@[simp ↓] theorem State.clockCells_kept (s : State) (r : Nat) (up : Nat → Nat → Bool) : (State.clockCells s r up).kept = s.kept := by
  unfold State.clockCells; simp
@[simp ↓] theorem State.oscStep_kept (s : State) (k : Nat) : (State.oscStep s k).kept = s.kept := by
  unfold State.oscStep; simp
@[simp ↓] theorem State.lineRises_kept (s : State) (d : Nat) (g : Nat) : (State.lineRises s d g).2.kept = s.kept := by
  unfold State.lineRises; (try simp); (repeat' (split <;> (try simp)))
@[simp ↓] theorem State.risingLines_kept (s : State) : (State.risingLines s).2.kept = s.kept := by
  unfold State.risingLines
  refine foldl_snd_kept _ (fun x n => ?_) _ _
  dsimp only
  split
  · rfl
  · (repeat' (split <;> (try simp))) <;> (repeat' (split <;> (try simp)))
@[simp ↓] theorem State.pinIn_kept (s : State) (r : Nat) (n : Nat) : (State.pinIn s r n).2.kept = s.kept := by
  unfold State.pinIn; (try simp); (repeat' (split <;> (try simp)))
@[simp ↓] theorem State.terminalIn_kept (s : State) (r : Nat) (t : Nat) : (State.terminalIn s r t).2.kept = s.kept := by
  unfold State.terminalIn; (try simp); (repeat' (split <;> (try simp)))
@[simp ↓] theorem State.readTerminals_kept (s : State) (r : Nat) : (State.readTerminals s r).kept = s.kept := by
  unfold State.readTerminals; simp
@[simp ↓] theorem State.wordOut_kept (s : State) (r : Nat) (k : Nat) : (State.wordOut s r k).kept = s.kept := by
  unfold State.wordOut; (try simp); (repeat' (split <;> (try simp)))
@[simp ↓] theorem State.wordIn_kept (s : State) (r : Nat) (k : Nat) : (State.wordIn s r k).kept = s.kept := by
  unfold State.wordIn; (try simp); (repeat' (split <;> (try simp)))
@[simp ↓] theorem State.portEdge_kept (s : State) (r : Nat) : (State.portEdge s r).kept = s.kept := by
  unfold State.portEdge; simp
@[simp ↓] theorem State.clockRegion_kept (s : State) (lines : List Nat) (r : Nat) : (State.clockRegion s lines r).kept = s.kept := by
  unfold State.clockRegion; simp
@[simp ↓] theorem State.loopWires_kept (s : State) (r : Nat) : (State.loopWires s r).kept = s.kept := by
  unfold State.loopWires; simp
@[simp ↓] theorem State.settleRegion_kept (s : State) (r : Nat) : (State.settleRegion s r).kept = s.kept := by
  unfold State.settleRegion; simp
@[simp ↓] theorem State.fabricTick_kept (s : State) : (State.fabricTick s).kept = s.kept := by
  unfold State.fabricTick; simp

/-! ### Tick -/
@[simp ↓] theorem State.tickDies_kept (s : State) : (State.tickDies s).kept = s.kept := by simp [State.tickDies]
@[simp ↓] theorem State.pairTick_kept (s : State) (p : Nat) (q : Nat) : (State.pairTick s p q).kept = s.kept := by
  unfold State.pairTick; simp
@[simp ↓] theorem State.tickIslands_kept (s : State) : (State.tickIslands s).kept = s.kept := by
  unfold State.tickIslands; simp
@[simp ↓] theorem State.tickFolds_kept (s : State) (p : Nat) : (State.tickFolds s p).kept = s.kept := by
  simp [State.tickFolds]
@[simp ↓] theorem State.tickArrivals_kept (s : State) (p : Nat) : (State.tickArrivals s p).kept = s.kept := by
  simp [State.tickArrivals]
@[simp ↓] theorem State.tickChannels_kept (s : State) (p : Nat) (had : List Nat) : (State.tickChannels s p had).kept =
    s.kept := by
  simp [State.tickChannels]
@[simp ↓] theorem State.tickCounts_kept (s : State) (p : Nat) : (State.tickCounts s p).kept = s.kept := by
  simp [State.tickCounts]
@[simp ↓] theorem State.tickRunTime_kept (s : State) (p : Nat) : (State.tickRunTime s p).kept = s.kept := by
  simp [State.tickRunTime]
@[simp ↓] theorem State.tickReady_kept (s : State) (p : Nat) : (State.tickReady s p).kept = s.kept := by
  simp [State.tickReady]
@[simp ↓] theorem State.tickLanding_kept (s : State) (p : Nat) : (State.tickLanding s p).kept = s.kept := by
  simp [State.tickLanding]
@[simp ↓] theorem State.countStep_kept (s : State) (p : Nat) : (State.countStep s p).kept = s.kept := by
  unfold State.countStep; simp
@[simp ↓] theorem State.tickPasture_kept (s : State) (p : Nat) : (State.tickPasture s p).kept = s.kept := by
  simp [State.tickPasture]
@[simp ↓] theorem State.tickLink_kept (s : State) (t : Nat) : (State.tickLink s t).kept = s.kept := by
  simp [State.tickLink]
@[simp ↓] theorem State.strayPads_kept (s : State) : (State.strayPads s).kept = s.kept := by
  unfold State.strayPads; simp
@[simp ↓] theorem State.tick_kept (s : State) : (State.tick s).kept = s.kept := by simp [State.tick]

/-! ### The two exceptions -/
theorem kept_parts {s t : State} (h : t.kept = s.kept) : t.ident = s.ident ∧ t.fuses = s.fuses ∧ t.pending = s.pending := by
  simpa [State.kept] using h
theorem execSvnRaise_kept (s : State) : ∀ t, execSvnRaise s = .next t → t.ident = s.ident ∧ t.pending = s.pending ∧
    (t.fuses = s.fuses ∨ t.fuses = { s.fuses with svnMin := max s.fuses.svnMin (min 64 s.flash.active.svn) }) := by
  intro t h; unfold execSvnRaise at h; rw [← Host.Outcome.next.inj h]
  split <;> simp
theorem Fuses.burn_svnMin (f : Fuses) (target : Nat) (key : List Byte) : (f.burn target key).svnMin = f.svnMin := by
  unfold Fuses.burn; dsimp only; (repeat' split) <;> rfl
theorem execEraseComplete_kept (s : State) : ∀ t, execEraseComplete s = .next t → t.ident = s.ident ∧
    t.pending = s.pending ∧ t.fuses.svnMin = s.fuses.svnMin := by
  intro t h; unfold execEraseComplete at h; rw [← Host.Outcome.next.inj h]; dsimp only
  have hw : (State.modDev s.wipeUnits.endSessions (fun d => { d with erase := .none })).kept = s.kept := by simp
  revert hw; generalize State.modDev s.wipeUnits.endSessions (fun d => { d with erase := .none }) = w; intro hw
  split
  · exact ⟨rfl, rfl, rfl⟩
  · split
    · exact ⟨rfl, rfl, rfl⟩
    · rename_i back _
      have := kept_parts (s := w) (t := (w.completeOpcode 0x0005 0).setMode back) (by simp)
      have := kept_parts hw
      simp_all
    · rename_i target key _
      have := kept_parts (State.deviceReset_kept { w with fuses := w.fuses.burn target key } srcSwreq none)
      have := kept_parts hw
      simp_all [Fuses.burn_svnMin]

end Sys2Proof.Machine
end

