-- ==== Sys2Proof/Laws/Ladder.lean ====
section
/-!
SUPPORT. The end of a ladder step changes the power unit and the trace, and nothing else of the state.
-/

namespace Sys2Proof.Machine

open Sys2Proof

theorem State.traceWake_eq (s : State) (c addr : Nat) : ∃ t, s.traceWake c addr = { s with trace := t } := by
  unfold State.traceWake State.modEncoder State.modTrace
  dsimp only
  split
  · exact ⟨_, rfl⟩
  · exact ⟨_, rfl⟩

theorem State.demandWake_eq (s : State) (d : Nat) : ∃ w, s.demandWake d = { s with pwr := w } := by
  unfold State.demandWake State.modDomain State.modPwr
  dsimp only
  repeat' split
  all_goals exact ⟨_, rfl⟩

theorem State.demandWakes_eq (l : List Nat) (s : State) : ∃ w, s.demandWakes l = { s with pwr := w } := by
  induction l generalizing s with
  | nil => exact ⟨_, rfl⟩
  | cons d l ih =>
    obtain ⟨w, hw⟩ := s.demandWake_eq d
    obtain ⟨x, hx⟩ := ih (s.demandWake d)
    exact ⟨x, hx.trans (by rw [hw])⟩

theorem State.wakeCores_eq (s : State) : ∃ w t, s.wakeCores = { s with pwr := w, trace := t } := by
  have h : ∀ (l : List Nat) (u : State), ∃ t,
      l.foldl (fun s c => s.traceWake c ((s.encoder c).nextAddr.getD (s.encoder c).ref)) u = { u with trace := t } := by
    intro l
    induction l with
    | nil => exact fun u => ⟨_, rfl⟩
    | cons c l ih =>
      intro u
      obtain ⟨t, ht⟩ := u.traceWake_eq c ((u.encoder c).nextAddr.getD (u.encoder c).ref)
      obtain ⟨x, hx⟩ := ih (u.traceWake c ((u.encoder c).nextAddr.getD (u.encoder c).ref))
      exact ⟨x, hx.trans (by rw [ht])⟩
  obtain ⟨t, ht⟩ := h s.pwr.stopped s
  exact ⟨_, t, by unfold State.wakeCores; dsimp only; rw [ht]; rfl⟩

/-- Everything the return to step RUN can do. -/
theorem State.ladderToRun_eq (s : State) : ∃ w t, s.ladderToRun = { s with pwr := w, trace := t } := by
  obtain ⟨w, t, h⟩ := s.wakeCores_eq
  obtain ⟨x, hx⟩ := State.demandWakes_eq ((s.wakeCores.modPwr (fun w => { w with ladder := 0 })).runDomains)
    (s.wakeCores.modPwr (fun w => { w with ladder := 0 }))
  exact ⟨x, t, hx.trans (by rw [h]; rfl)⟩

/-- Everything a leaving event of the ladder can do. -/
theorem State.ladderEvent_eq (s : State) (e : LadderEvent) : ∃ w t, s.ladderEvent e = { s with pwr := w, trace := t } := by
  unfold State.ladderEvent
  split
  · exact s.ladderToRun_eq
  · exact ⟨_, _, rfl⟩

variable {s : State} {e : LadderEvent}

@[simp] theorem State.ladderEvent_ident : (s.ladderEvent e).ident = s.ident := by
  obtain ⟨w, t, h⟩ := s.ladderEvent_eq e
  rw [h]
@[simp] theorem State.ladderEvent_fuses : (s.ladderEvent e).fuses = s.fuses := by
  obtain ⟨w, t, h⟩ := s.ladderEvent_eq e
  rw [h]
@[simp] theorem State.ladderEvent_flash : (s.ladderEvent e).flash = s.flash := by
  obtain ⟨w, t, h⟩ := s.ladderEvent_eq e
  rw [h]
@[simp] theorem State.ladderEvent_dev : (s.ladderEvent e).dev = s.dev := by
  obtain ⟨w, t, h⟩ := s.ladderEvent_eq e
  rw [h]
@[simp] theorem State.ladderEvent_host : (s.ladderEvent e).host = s.host := by
  obtain ⟨w, t, h⟩ := s.ladderEvent_eq e
  rw [h]
@[simp] theorem State.ladderEvent_out : (s.ladderEvent e).out = s.out := by
  obtain ⟨w, t, h⟩ := s.ladderEvent_eq e
  rw [h]
@[simp] theorem State.ladderEvent_folds : (s.ladderEvent e).folds = s.folds := by
  obtain ⟨w, t, h⟩ := s.ladderEvent_eq e
  rw [h]
@[simp] theorem State.ladderEvent_pairs : (s.ladderEvent e).pairs = s.pairs := by
  obtain ⟨w, t, h⟩ := s.ladderEvent_eq e
  rw [h]
@[simp] theorem State.ladderEvent_hbm : (s.ladderEvent e).hbm = s.hbm := by
  obtain ⟨w, t, h⟩ := s.ladderEvent_eq e
  rw [h]
@[simp] theorem State.ladderEvent_pastures : (s.ladderEvent e).pastures = s.pastures := by
  obtain ⟨w, t, h⟩ := s.ladderEvent_eq e
  rw [h]
@[simp] theorem State.ladderEvent_mregions : (s.ladderEvent e).mregions = s.mregions := by
  obtain ⟨w, t, h⟩ := s.ladderEvent_eq e
  rw [h]
@[simp] theorem State.ladderEvent_mstatus : (s.ladderEvent e).mstatus = s.mstatus := by
  obtain ⟨w, t, h⟩ := s.ladderEvent_eq e
  rw [h]
@[simp] theorem State.ladderEvent_flow : (s.ladderEvent e).flow = s.flow := by
  obtain ⟨w, t, h⟩ := s.ladderEvent_eq e
  rw [h]
@[simp] theorem State.ladderEvent_acq : (s.ladderEvent e).acq = s.acq := by
  obtain ⟨w, t, h⟩ := s.ladderEvent_eq e
  rw [h]
@[simp] theorem State.ladderEvent_snaps : (s.ladderEvent e).snaps = s.snaps := by
  obtain ⟨w, t, h⟩ := s.ladderEvent_eq e
  rw [h]
@[simp] theorem State.ladderEvent_noc : (s.ladderEvent e).noc = s.noc := by
  obtain ⟨w, t, h⟩ := s.ladderEvent_eq e
  rw [h]
@[simp] theorem State.ladderEvent_lanes : (s.ladderEvent e).lanes = s.lanes := by
  obtain ⟨w, t, h⟩ := s.ladderEvent_eq e
  rw [h]
@[simp] theorem State.ladderEvent_ports : (s.ladderEvent e).ports = s.ports := by
  obtain ⟨w, t, h⟩ := s.ladderEvent_eq e
  rw [h]
@[simp] theorem State.ladderEvent_time : (s.ladderEvent e).time = s.time := by
  obtain ⟨w, t, h⟩ := s.ladderEvent_eq e
  rw [h]
@[simp] theorem State.ladderEvent_eth : (s.ladderEvent e).eth = s.eth := by
  obtain ⟨w, t, h⟩ := s.ladderEvent_eq e
  rw [h]
@[simp] theorem State.ladderEvent_edge : (s.ladderEvent e).edge = s.edge := by
  obtain ⟨w, t, h⟩ := s.ladderEvent_eq e
  rw [h]
@[simp] theorem State.ladderEvent_freeCount : (s.ladderEvent e).freeCount = s.freeCount := by
  obtain ⟨w, t, h⟩ := s.ladderEvent_eq e
  rw [h]
@[simp] theorem State.ladderEvent_pending : (s.ladderEvent e).pending = s.pending := by
  obtain ⟨w, t, h⟩ := s.ladderEvent_eq e
  rw [h]
@[simp] theorem State.ladderEvent_ring {n : Nat} : (s.ladderEvent e).ring n = s.ring n := by
  obtain ⟨w, t, h⟩ := s.ladderEvent_eq e
  rw [h]; rfl
@[simp] theorem State.ladderEvent_pas {n : Nat} : (s.ladderEvent e).pas n = s.pas n := by
  obtain ⟨w, t, h⟩ := s.ladderEvent_eq e
  rw [h]; rfl
@[simp] theorem State.ladderEvent_queue {n : Nat} : (s.ladderEvent e).queue n = s.queue n := by
  obtain ⟨w, t, h⟩ := s.ladderEvent_eq e
  rw [h]; rfl
@[simp] theorem State.ladderEvent_pstate {n : Nat} : (s.ladderEvent e).pstate n = s.pstate n := by
  obtain ⟨w, t, h⟩ := s.ladderEvent_eq e
  rw [h]; rfl
@[simp] theorem State.ladderEvent_fold {n : Nat} : (s.ladderEvent e).fold n = s.fold n := by
  obtain ⟨w, t, h⟩ := s.ladderEvent_eq e
  rw [h]; rfl
@[simp] theorem State.ladderEvent_task {n : Nat} : (s.ladderEvent e).task n = s.task n := by
  obtain ⟨w, t, h⟩ := s.ladderEvent_eq e
  rw [h]; rfl
@[simp] theorem State.ladderEvent_queueOwner {n : Nat} : (s.ladderEvent e).queueOwner n = s.queueOwner n := by
  obtain ⟨w, t, h⟩ := s.ladderEvent_eq e
  rw [h]; rfl

end Sys2Proof.Machine
end

