-- ==== Sys2Proof/WellFormed.lean ====
section
/-!
DEFINITION. Which commands are well formed: every operand that names a unit names one the device could have, and every
operand that is a field fits its width. An event on an ill-formed operand names no unit of the device and changes
nothing (DESIGN CHOICE, log 2).
-/

namespace Sys2Proof

/-- `x` fits in `w` bits. -/
def fits (w x : Nat) : Bool := decide (x < 2 ^ w)

/-- Header fields of a command packet as the device takes it (Table 11-8), and a length of whole 64-byte units. -/
def Cmd.wf (c : Cmd) : Bool :=
  decide (c.ring < Config.numRings) && fits 32 c.tag && fits 8 c.pasture && decide (c.params.length ≤ 65536)

/-- A link control block names a port and carries an 8-bit CSEQ (R344). -/
def linkWf (link cseq : Nat) : Bool := decide (link < Config.numPorts) && fits 8 cseq

/-- Header words of 64 bits (Table 12-4) and at most 4,096 bytes of data (R326). -/
def NocPacket.wf (p : NocPacket) : Bool := fits 64 p.word0 && fits 64 p.word1 && decide (p.data.length ≤ 4096)

/-- Fold, BP and pasture numbers (R35, R180). -/
def foldWf (f : Nat) : Bool := decide (f < Config.numFolds)
def bpWf (f b : Nat) : Bool := foldWf f && decide (b < Config.numBps)
def pastureWf (p : Nat) : Bool := decide (p < Config.numPastures)

/-- The well-formedness of each command. -/
def Instr.wf : Instr → Bool
  | .pad ring words => decide (ring < Config.numRings) && decide (words ≤ 65536)
  | .deviceInfo c | .echo c | .fwStage c | .fwActivate c | .wipe c | .laneBringup c | .laneRetrain c
  | .laneTakeDown c | .laneEq c | .laneBitslip c | .laneLoopback c | .laneStatus c | .fabricRelease c
  | .powerCap c | .clockFloor c | .ladderSelect c | .padRelease c | .timeAccept c | .timeConfig c | .attest c
  | .sessionOpen c | .sessionRebind c | .sessionClose c | .lcTransition c | .traceArm c | .traceDisable c
  | .traceStop c | .probeConfig c | .traceRead c | .unload c | .loadHeader c | .loadChunk c | .loadAbort c
  | .run c | .freeze c | .setWdog c | .flowHoldings c | .taskKick c | .flowTallies c | .acqArm c | .acqDisarm c
  | .acqForce c | .acqRead c | .acqProgram c | .ringInfo c | .ringRollback c | .diagRegRead c | .diagMemRead c
  | .diagMemWrite c => c.wf
  | .crCmdTailWrite ring value bytes =>
      decide (ring < Config.numRings) && fits 32 value && decide (bytes.length ≤ 2097152)
  | .crCplHeadWrite ring value => decide (ring < Config.numRings) && fits 32 value
  | .crCtrlEnableSet ring value => decide (ring < Config.numRings) && fits 64 value
  | .crCtrlEnableClear ring | .crStatusHaltedClear ring => decide (ring < Config.numRings)
  | .flowDoorbellWrite queue size value => decide (queue < Config.numQueues) && decide (size ≤ 64) && fits 64 value
  | .assertValidClear p => pastureWf p
  | .w0BadAccess _ => true
  | .registerWrite offset size value => fits 24 offset && decide (size ≤ 64) && fits 64 value
  | .nop f b | .eval f b | .evals f b | .evale f b | .check f b | .copy f b | .xonly f b => bpWf f b
  | .scratchpadRd f _ | .scratchpadWr f _ | .scratchpadSet f _ | .scratchpadClr f _ | .scratchpadWide f _ => foldWf f
  | .scratchpadAccess pr pd => decide (pr < Config.numPairs) && decide (pd < 8)
  | .channelSend f _ | .channelReceive f _ => foldWf f
  | .channelWordArrival p ch => pastureWf p && decide (ch < 4096)
  | .dmRd f | .dmWr f | .dmWrm f => foldWf f
  | .dmWordReturn f e => foldWf f && decide (e < 64)
  | .dmWriteAccept f | .barrierArrival f | .stateFinal f | .probeLatch f | .stallCheck f => foldWf f
  | .barrierRelease p | .flowTake p => pastureWf p
  | .cycStart port => decide (port < 16)
  | .watchdogExpiry p => pastureWf p
  | .scrubRead f found => foldWf f && found.all (fun e => (e.bp.map (fun b => decide (b < Config.numBps))).getD true)
  | .scrubRewrite f _ => foldWf f
  | .ringComplete p => pastureWf p
  | .controlFault src => (match src with
      | .storeDbe f slot bp _ | .storeSbe f slot bp => foldWf f && decide (slot < 1024) && (match bp with
          | some b => decide (b < Config.numBps)
          | none => true)
      | .seqParity f => foldWf f
      | .treeParity n => (match n with
          | .pair q => decide (q < Config.numPairs)
          | .row d r => decide (d < 4) && decide (r < 8)
          | .die d => decide (d < 4)
          | .package => true)
      | .barrierParity p | .linkControl p | .serviceParity p => pastureWf p
      | .imageCopy f slot => foldWf f && decide (slot < 1024))
  | .recoveryComplete p d => pastureWf p && fits 32 d
  | .edgePortWordIn port ch _ | .edgePortWordOut port ch => decide (port < 16) && decide (ch < 4)
  | .epFclkStart port => decide (port < 16)
  | .taskDispatch e => decide (e < Config.numEngines)
  | .taskRunComplete e _ ns => decide (e < Config.numEngines) && fits 32 ns
  | .acqCapture p | .snapshotComplete p => pastureWf p
  | .timeBaseWrap => true
  | .sync port lane _ t1 _ => decide (port < 2) && decide (lane < 4) && fits 64 t1
  | .followUp port t1 _ => decide (port < 2) && fits 64 t1
  | .delayResp port t4 _ => decide (port < 2) && fits 64 t4
  | .announce port a => decide (port < 2) && fits 64 a.gm && fits 8 a.priority1 && fits 8 a.clockClass
      && fits 8 a.accuracy && fits 16 a.variance && fits 8 a.priority2 && fits 16 a.stepsRemoved && fits 40 a.interval
  | .delayReq port lane => decide (port < 2) && decide (lane < 4)
  | .holdoverTimeout => true
  | .statusDatagramRequest port src payload => decide (port < 2) && fits 48 src && decide (payload.length ≤ 1500)
  | .ethFrameDropped port _ => decide (port < 2)
  | .dataBlock link sh _ => decide (link < Config.numPorts) && decide (sh < 4)
  | .linkIdle link | .skip link _ => decide (link < Config.numPorts)
  | .linkAck link cseq | .linkNak link cseq => linkWf link cseq
  | .replayTimeout link => decide (link < Config.numPorts)
  | .cap link cseq _ | .join link cseq _ | .chancount link cseq _ | .arrive link cseq _ | .assertCount link cseq _
  | .linkRelease link cseq _ | .linkFault link cseq _ | .linkUnload link cseq _ | .credit link cseq _ =>
      linkWf link cseq
  | .tag link cseq n _ => linkWf link cseq && decide (1 ≤ n) && decide (n ≤ 4)
  | .trainMark port _ => decide (port < Config.numPorts)
  | .detectPoll lane _ => decide (lane < Config.numLanes)
  | .trainScanComplete lane os h v =>
    decide (lane < Config.numLanes) && os.length == 16 && os.all (fun o => fits 9 o.1 && fits 16 o.2) && fits 9 h && fits 16 v
  | .marginCheck lane h v => decide (lane < Config.numLanes) && fits 8 h && fits 8 v
  | .linkLostTimeout link => decide (link < Config.numPorts)
  | .nocRd p | .nocWr p | .setw p | .clrw p | .bulkRd p | .regRd p | .regWr p | .ctl p | .nocAck p | .rdData p
  | .err p | .inv p | .snpAck p | .bulkWr p | .bulkData p => p.wf
  | .serviceTimeout init txn => fits 8 init && fits 12 txn
  | .routerReconfigure r nets w => decide (r < Config.numRouters) && fits 4 nets && fits 16 w
  | .regulatorChange point net rate burst => decide (point < 316) && decide (net < 4) && fits 9 rate && fits 8 burst
  | .domainDecision d t => decide (d < Config.numDomains) && fits 32 t
  | .drainComplete d => decide (d < Config.numDomains)
  | .drainTimeout d init => decide (d < Config.numDomains) && fits 16 init
  | .wakeComplete d | .retLost d => decide (d < Config.numDomains)
  | .ladderLeave _ => true
  | .thermalStep die tj | .junctionLimit die tj | .thermTimeout die tj => decide (die < 12) && fits 8 tj
  | .powerCapStep w die => fits 16 w && decide (die < 4)
  | .voltageSettle die _ => decide (die < 4)
  | .pmbAlert die st => decide (die < 4) && fits 16 st
  | .vccoLoss bank mv => decide (bank < Config.numBanks) && fits 16 mv
  | .supplyWarning die => decide (die < 4)
  | .supplyReturn | .holdTimeout | .por | .bod _ | .resetN _ | .wake _ | .dbgreq => true
  | .clkfail island => decide (island < 608)
  | .bootStart => true
  | .bootStageComplete r => (match r with
      | .ok | .slotVerify => true
      | .sramWipe d => decide (d < 6)
      | .hbmTrain k | .hbmWipe k => decide (k < 6))
  | .bootWatchdog => true
  | .ccWatchdog core _ | .ccLockup core _ => decide (core < Config.numCores)
  | .ccRestartComplete | .svnRaise => true
  | .unloadWipeComplete p => pastureWf p
  | .eraseComplete | .pcieFunctionReset _ | .d3hotEntry | .d0Return => true
  | .extest pins | .samplePreload pins => decide (pins.length ≤ 3760)
  | .idcode | .clamp | .highz => true
  | .bypass code => fits 8 code
  | .traceStartEvent bit | .traceStopEvent bit => decide (bit < 8)
  | .traceStoppingComplete => true
  | .traceTimeTimer core | .traceOverflow core => decide (core < Config.numCores)
  | .blockLock lane => decide (lane < Config.numLanes)
  | .crcFailure link _ | .protocolError link => decide (link < Config.numPorts)
  | .trainBoundExpiry port => decide (port < Config.numPorts)
  | .vccoGood bank mv => decide (bank < Config.numBanks) && fits 16 mv
  | .globalLineStart region line => decide (region < Config.numRegions) && decide (line < 16)
  | .ccRestartTimeout => true
  | .msixVectorUnmask v => decide (v < Config.numVectors)
  | .droverCoreInstruction core pc _ => decide (core < Config.numCores) && fits 40 pc

end Sys2Proof
end

