-- ==== Sys2Proof/Tests/Slice0.lean ====
section
/-!
SUPPORT. Tests: ill-formed operands that WellFormed refuses, single steps on small states with results taken from the spec,
  and for
each statement with hypotheses a state and operands that meet them.
-/

namespace Sys2Proof.Tests

open Sys2Proof Sys2Proof.Machine

set_option Elab.async false

/-! ### Small states -/

/-- `n` zero bytes. -/
def z (n : Nat) : List Byte := List.replicate n 0

/-- A device in SERVICE whose ring 0 is enabled and bound to session 1. -/
def dev : State :=
  { State.reset with
    dev := { Dev.init with mode := .service, accepting := true }
    host := { HostSide.init with
      fnReady := true
      rings := [(0, { CmdRing.init with enable := true, cmdLog2 := 12, cplLog2 := 4, bound := some { sid := 1, rebind := 0 } })]
      sessions := [{ sid := 1, rebind := 0, prk := [], headers := 0, nonces := [] }] } }

/-- A pasture of session 1 in a state, holding fold pair 0. -/
def pasture (st : PState) : Pasture :=
  { Pasture.init with
    stat := { PStat.init with state := st }
    comp := { PComp.init with pairs := [0], sid := 1 } }

/-- The device with a pasture 0. -/
def withPas (x : Pasture) : State := { dev with pastures := [(0, x)] }
def pas (st : PState) : State := withPas (pasture st)

/-- A packet of ring 0, for the device (0xFF) or a pasture. -/
def cmd (p : Nat) (ps : List Byte) : Cmd :=
  { ring := 0, tag := 7, pasture := p, session := true, fence := false, noIrq := false, params := ps }

/-- RESULT_ADDR 0 and RESULT_SIZE, then zero. -/
def res (n : Nat) : List Byte := z 8 ++ leBytes 4 n ++ z 4

/-- The packet is taken as a device command of every card whose modes name SERVICE. -/
def Takes (s : State) (c : Cmd) : Prop := ∀ modes needs, Mode.service ∈ modes → takesDevice s c modes needs

theorem takes {s : State} {c : Cmd} (hd : s.dev = dev.dev) (hh : s.host = dev.host) (hr : c.ring = 0) (hp : c.pasture = 0xFF)
    (hf : c.fence = false) (hs : c.session = true) : Takes s c := by
  intro modes needs h
  unfold takesDevice ringReady sessionBound State.ring State.inProgress State.allInProgress
  rw [hd, hh, hr, hp, hf, hs]
  exact ⟨by decide, h, rfl, by decide, fun _ => rfl⟩

theorem takesP {s : State} {c : Cmd} (hd : s.dev = dev.dev) (hh : s.host = dev.host) (hr : c.ring = 0) (hp : c.pasture < 16)
    (hf : c.fence = false) (hs : c.session = true) (hb : s.pstate c.pasture ≠ .empty → (s.pas c.pasture).comp.sid = 1) :
    takesPasture s c := by
  unfold takesPasture ringReady sessionBound State.ring State.inProgress State.allInProgress State.ringSid State.ring
  rw [hd, hh, hr, hf, hs]
  refine ⟨by decide, by decide, hp, rfl, by decide, fun h => ?_⟩
  rw [hb h]; decide

/-! ### Witnesses: command packets -/

theorem witness_empty_queue :
    State.reset.pending = [] :=
  rfl

theorem witness_identity_time :
    Takes dev (cmd 0xFF (res 4096)) ∧
    ((cmd 0xFF (res 4096)).params.length = 16 ∧ paramZero (cmd 0xFF (res 4096)) 12 4 ∧ resultFits (cmd 0xFF (res 4096)) 4096) ∧
    Takes dev (cmd 0xFF (z 24)) ∧
    (cmd 0xFF (z 24)).params.length = 24 ∧
    Takes dev (cmd 0xFF (z 8)) ∧
    ((cmd 0xFF (z 8)).params.length = 8 ∧ paramZero (cmd 0xFF (z 8)) 4 4 ∧ paramZero (cmd 0xFF (z 8)) 0 4 ∧ dev.time.servo ≠
      .refused) ∧
    Takes (dev.modTime (fun t => { t with servo := .refused })) (cmd 0xFF (z 8)) ∧
    (dev.modTime (fun t => { t with servo := .refused })).time.servo = .refused ∧
    Takes dev (cmd 0xFF (leBytes 4 1 ++ z 4)) ∧
    ((cmd 0xFF (leBytes 4 1 ++ z 4)).params.length = 8 ∧ paramZero (cmd 0xFF (leBytes 4 1 ++ z 4)) 4 4 ∧ 0 < param (cmd 0xFF
      (leBytes 4 1 ++ z 4)) 0 4) ∧
    Takes dev (cmd 0xFF (leBytes 4 1000000000 ++ z 4)) ∧
    ((cmd 0xFF (leBytes 4 1000000000 ++ z 4)).params.length = 8 ∧ paramZero (cmd 0xFF (leBytes 4 1000000000 ++ z 4)) 4 4 ∧
      param (cmd 0xFF (leBytes 4 1000000000 ++ z 4)) 0 4 ≤ 1000000000) :=
  ⟨takes rfl rfl rfl rfl rfl rfl,
    by simp only [paramZero, resultFits, param]; decide +kernel,
    takes rfl rfl rfl rfl rfl rfl,
    by decide +kernel,
    takes rfl rfl rfl rfl rfl rfl,
    by simp only [paramZero]; decide +kernel,
    takes rfl rfl rfl rfl rfl rfl,
    by decide +kernel,
    takes rfl rfl rfl rfl rfl rfl,
    by simp only [paramZero, param]; decide +kernel,
    takes rfl rfl rfl rfl rfl rfl,
    by simp only [paramZero, param]; decide +kernel⟩

theorem witness_firmware :
    Takes dev (cmd 0xFF (leBytes 4 0 ++ leBytes 4 3145728 ++ z 16)) ∧
    (24 ≤ (cmd 0xFF (leBytes 4 0 ++ leBytes 4 3145728 ++ z 16)).params.length ∧ (cmd 0xFF (leBytes 4 0 ++ leBytes 4 3145728
      ++ z 16)).params.length ≤ 65552 ∧ paramZero (cmd 0xFF (leBytes 4 0 ++ leBytes 4 3145728 ++ z 16)) 8 8 ∧ param (cmd 0xFF
      (leBytes 4 0 ++ leBytes 4 3145728 ++ z 16)) 0 4 % 65536 = 0 ∧ param (cmd 0xFF (leBytes 4 0 ++ leBytes 4 3145728 ++ z
      16)) 0 4 < param (cmd 0xFF (leBytes 4 0 ++ leBytes 4 3145728 ++ z 16)) 4 4 ∧ param (cmd 0xFF (leBytes 4 0 ++ leBytes 4
      3145728 ++ z 16)) 4 4 ≤ 3145728 ∧ dev.fuses.lcState ≠ 4) ∧
    Takes { dev with flash := { Flash.init with staged := true } } (cmd 0xFF (z 8)) ∧
    ((cmd 0xFF (z 8)).params.length = 8 ∧ paramZero (cmd 0xFF (z 8)) 0 8) :=
  ⟨takes rfl rfl rfl rfl rfl rfl,
    by simp only [paramZero, param]; decide +kernel,
    takes rfl rfl rfl rfl rfl rfl,
    by simp only [paramZero]; decide +kernel⟩

/-- The device before its first provisioning. -/
def blank : State := { dev with fuses := { Fuses.init with lcState := 0 } }

theorem witness_erase :
    Takes dev (cmd 0xFF (z 8)) ∧
    ((cmd 0xFF (z 8)).params.length = 8 ∧ paramZero (cmd 0xFF (z 8)) 0 8 ∧ dev.anyLive = false) ∧
    Takes blank (cmd 0xFF ([4, 1] ++ z 198)) ∧
    ((cmd 0xFF ([4, 1] ++ z 198)).params.length = 200 ∧ paramZero (cmd 0xFF ([4, 1] ++ z 198)) 2 6 ∧ param (cmd 0xFF ([4, 1]
      ++ z 198)) 1 1 = 1 ∧ paramZero (cmd 0xFF ([4, 1] ++ z 198)) 8 96 ∧ blank.anyLive = false ∧ (lcSigner blank.fuses.lcState
      (param (cmd 0xFF ([4, 1] ++ z 198)) 0 1)).isSome = true) :=
  ⟨takes rfl rfl rfl rfl rfl rfl,
    by simp only [paramZero]; decide +kernel,
    takes rfl rfl rfl rfl rfl rfl,
    by simp only [paramZero, param]; decide +kernel⟩

theorem witness_erase_refused :
    (pas .loaded).anyLive = true ∧
    Takes (pas .loaded) (cmd 0xFF (z 8)) ∧
    ((cmd 0xFF (z 8)).params.length = 8 ∧ paramZero (cmd 0xFF (z 8)) 0 8) ∧
    Takes (pas .loaded) (cmd 0xFF ([4, 0] ++ z 198)) ∧
    ((cmd 0xFF ([4, 0] ++ z 198)).params.length = 200 ∧ paramZero (cmd 0xFF ([4, 0] ++ z 198)) 2 6 ∧ param (cmd 0xFF ([4, 0]
      ++ z 198)) 1 1 = 0 ∧ (pas .loaded).fuses.lcState ∈ [1, 2, 3]) :=
  ⟨by decide +kernel,
    takes rfl rfl rfl rfl rfl rfl,
    by simp only [paramZero]; decide +kernel,
    takes rfl rfl rfl rfl rfl rfl,
    by simp only [paramZero, param]; decide +kernel⟩

theorem witness_power :
    Takes dev (cmd 0xFF ([44, 1] ++ z 6)) ∧
    ((cmd 0xFF ([44, 1] ++ z 6)).params.length = 8 ∧ paramZero (cmd 0xFF ([44, 1] ++ z 6)) 4 4 ∧ paramZero (cmd 0xFF ([44,
      1] ++ z 6)) 2 2 ∧ 300 ≤ param (cmd 0xFF ([44, 1] ++ z 6)) 0 2) ∧
    Takes dev (cmd 0xFF ([232, 3] ++ z 6)) ∧
    ((cmd 0xFF ([232, 3] ++ z 6)).params.length = 8 ∧ paramZero (cmd 0xFF ([232, 3] ++ z 6)) 4 4 ∧ paramZero (cmd 0xFF
      ([232, 3] ++ z 6)) 2 2 ∧ param (cmd 0xFF ([232, 3] ++ z 6)) 0 2 ≤ 1000) ∧
    Takes dev (cmd 0xFF ([0] ++ z 7)) ∧
    ((cmd 0xFF ([0] ++ z 7)).params.length = 8 ∧ paramZero (cmd 0xFF ([0] ++ z 7)) 4 4 ∧ paramZero (cmd 0xFF ([0] ++ z 7)) 2
      2 ∧ param (cmd 0xFF ([0] ++ z 7)) 0 2 = 0 ∧ paramZero (cmd 0xFF ([0] ++ z 7)) 1 1 ∧ paramZero (cmd 0xFF ([0] ++ z 7)) 1
      3) ∧
    Takes dev (cmd 0xFF ([3, 0, 244, 1] ++ z 4)) ∧
    ((cmd 0xFF ([3, 0, 244, 1] ++ z 4)).params.length = 8 ∧ paramZero (cmd 0xFF ([3, 0, 244, 1] ++ z 4)) 4 4 ∧ paramZero
      (cmd 0xFF ([3, 0, 244, 1] ++ z 4)) 1 1 ∧ param (cmd 0xFF ([3, 0, 244, 1] ++ z 4)) 0 1 < 4 ∧ 500 ≤ param (cmd 0xFF ([3,
      0, 244, 1] ++ z 4)) 2 2) ∧
    Takes dev (cmd 0xFF ([3] ++ z 7)) ∧
    (paramZero (cmd 0xFF ([3] ++ z 7)) 1 3 ∧ param (cmd 0xFF ([3] ++ z 7)) 0 1 < 4) ∧
    Takes dev (cmd 0xFF ([4] ++ z 7)) ∧
    (paramZero (cmd 0xFF ([4] ++ z 7)) 1 3 ∧ param (cmd 0xFF ([4] ++ z 7)) 0 1 = 4) ∧
    Takes dev (cmd 0xFF ([255] ++ z 7)) ∧
    (paramZero (cmd 0xFF ([255] ++ z 7)) 1 3 ∧ param (cmd 0xFF ([255] ++ z 7)) 0 1 = 0xFF) ∧
    Takes (dev.modBank 23 (fun b => { b with ok := true })) (cmd 0xFF ([23] ++ z 7)) ∧
    (paramZero (cmd 0xFF ([23] ++ z 7)) 1 3 ∧ param (cmd 0xFF ([23] ++ z 7)) 0 1 < 24 ∧ ((dev.modBank 23 (fun b =>
      { b with ok := true })).domain (602 + 23)).state = .on ∧ ((dev.modBank 23 (fun b => { b with ok := true })).bank 23).ok
      = true) :=
  ⟨takes rfl rfl rfl rfl rfl rfl,
    by simp only [paramZero, param]; decide +kernel,
    takes rfl rfl rfl rfl rfl rfl,
    by simp only [paramZero, param]; decide +kernel,
    takes rfl rfl rfl rfl rfl rfl,
    by simp only [paramZero, param]; decide +kernel,
    takes rfl rfl rfl rfl rfl rfl,
    by simp only [paramZero, param]; decide +kernel,
    takes rfl rfl rfl rfl rfl rfl,
    by simp only [paramZero, param]; decide +kernel,
    takes rfl rfl rfl rfl rfl rfl,
    by simp only [paramZero, param]; decide +kernel,
    takes rfl rfl rfl rfl rfl rfl,
    by simp only [paramZero, param]; decide +kernel,
    takes rfl rfl rfl rfl rfl rfl,
    by simp only [paramZero, param]; decide +kernel⟩

theorem witness_trace :
    Takes dev (cmd 0xFF ([0, 1, 0, 0, 2, 1, 30, 0] ++ z 24 ++ List.replicate 6 0xFF ++ [0x3F] ++ z 25)) ∧
    ((cmd 0xFF ([0, 1, 0, 0, 2, 1, 30, 0] ++ z 24 ++ List.replicate 6 0xFF ++ [0x3F] ++ z 25)).params.length = 64 ∧ param
      (cmd 0xFF ([0, 1, 0, 0, 2, 1, 30, 0] ++ z 24 ++ List.replicate 6 0xFF ++ [0x3F] ++ z 25)) 0 1 = 0 ∧ param (cmd 0xFF ([0,
      1, 0, 0, 2, 1, 30, 0] ++ z 24 ++ List.replicate 6 0xFF ++ [0x3F] ++ z 25)) 1 1 = 1 ∧ param (cmd 0xFF ([0, 1, 0, 0, 2, 1,
      30, 0] ++ z 24 ++ List.replicate 6 0xFF ++ [0x3F] ++ z 25)) 4 1 ≤ 2 ∧ param (cmd 0xFF ([0, 1, 0, 0, 2, 1, 30, 0] ++ z 24
      ++ List.replicate 6 0xFF ++ [0x3F] ++ z 25)) 5 1 ≤ 1 ∧ 10 ≤ param (cmd 0xFF ([0, 1, 0, 0, 2, 1, 30, 0] ++ z 24 ++
      List.replicate 6 0xFF ++ [0x3F] ++ z 25)) 6 1 ∧ param (cmd 0xFF ([0, 1, 0, 0, 2, 1, 30, 0] ++ z 24 ++ List.replicate 6
      0xFF ++ [0x3F] ++ z 25)) 6 1 ≤ 30 ∧ paramZero (cmd 0xFF ([0, 1, 0, 0, 2, 1, 30, 0] ++ z 24 ++ List.replicate 6 0xFF ++
      [0x3F] ++ z 25)) 9 7 ∧ ∀ k < 4, param (cmd 0xFF ([0, 1, 0, 0, 2, 1, 30, 0] ++ z 24 ++ List.replicate 6 0xFF ++ [0x3F] ++
      z 25)) (32 + 8 * k) 8 < 2 ^ 54) ∧
    Takes dev (cmd 0xFF (z 64)) ∧
    ((cmd 0xFF (z 64)).params.length = 64 ∧ param (cmd 0xFF (z 64)) 0 1 = 0 ∧ param (cmd 0xFF (z 64)) 1 1 = 0 ∧ paramZero
      (cmd 0xFF (z 64)) 9 7) ∧
    Takes (dev.modTrace (fun t => { t with state := .tracing })) (cmd 0xFF ([0, 2] ++ z 62)) ∧
    ((cmd 0xFF ([0, 2] ++ z 62)).params.length = 64 ∧ param (cmd 0xFF ([0, 2] ++ z 62)) 0 1 = 0 ∧ param (cmd 0xFF ([0, 2] ++
      z 62)) 1 1 = 2 ∧ paramZero (cmd 0xFF ([0, 2] ++ z 62)) 2 62 ∧ (dev.modTrace (fun t =>
      { t with state := .tracing })).trace.state = .tracing) ∧
    Takes dev (cmd 0xFF ([1, 7, 0, 0] ++ z 60)) ∧
    ((cmd 0xFF ([1, 7, 0, 0] ++ z 60)).params.length = 64 ∧ param (cmd 0xFF ([1, 7, 0, 0] ++ z 60)) 0 1 = 1 ∧ param (cmd
      0xFF ([1, 7, 0, 0] ++ z 60)) 1 1 < 8 ∧ param (cmd 0xFF ([1, 7, 0, 0] ++ z 60)) 3 1 < 64 ∧ bitsOf (param (cmd 0xFF ([1,
      7, 0, 0] ++ z 60)) 3 1) 1 3 ≠ 7 ∧ paramZero (cmd 0xFF ([1, 7, 0, 0] ++ z 60)) 4 4 ∧ paramZero (cmd 0xFF ([1, 7, 0, 0] ++
      z 60)) 24 40) ∧
    Takes dev (cmd 0xFF (res 8 ++ [0xF8, 0xFF, 0x3F, 0, 8, 0, 0, 0])) ∧
    ((cmd 0xFF (res 8 ++ [0xF8, 0xFF, 0x3F, 0, 8, 0, 0, 0])).params.length = 24 ∧ paramZero (cmd 0xFF (res 8 ++ [0xF8, 0xFF,
      0x3F, 0, 8, 0, 0, 0])) 12 4 ∧ resultFits (cmd 0xFF (res 8 ++ [0xF8, 0xFF, 0x3F, 0, 8, 0, 0, 0])) (param (cmd 0xFF (res 8
      ++ [0xF8, 0xFF, 0x3F, 0, 8, 0, 0, 0])) 20 4) ∧ param (cmd 0xFF (res 8 ++ [0xF8, 0xFF, 0x3F, 0, 8, 0, 0, 0])) 16 4 % 8 =
      0 ∧ param (cmd 0xFF (res 8 ++ [0xF8, 0xFF, 0x3F, 0, 8, 0, 0, 0])) 20 4 % 8 = 0 ∧ 8 ≤ param (cmd 0xFF (res 8 ++ [0xF8,
      0xFF, 0x3F, 0, 8, 0, 0, 0])) 20 4 ∧ param (cmd 0xFF (res 8 ++ [0xF8, 0xFF, 0x3F, 0, 8, 0, 0, 0])) 16 4 + param (cmd 0xFF
      (res 8 ++ [0xF8, 0xFF, 0x3F, 0, 8, 0, 0, 0])) 20 4 ≤ 4194304) :=
  ⟨takes rfl rfl rfl rfl rfl rfl,
    by simp only [paramZero, param]; decide +kernel,
    takes rfl rfl rfl rfl rfl rfl,
    by simp only [paramZero, param]; decide +kernel,
    takes rfl rfl rfl rfl rfl rfl,
    by simp only [paramZero, param]; decide +kernel,
    takes rfl rfl rfl rfl rfl rfl,
    by simp only [paramZero, param]; decide +kernel,
    takes rfl rfl rfl rfl rfl rfl,
    by simp only [paramZero, resultFits, param]; decide +kernel⟩

/-- A LOADED pasture that holds edge region 15, which is HELD. -/
def heldRegion : State := (pas .loaded).modRegion 15 (fun r => { r with owner := some 0, state := .held })

theorem witness_lanes_fabric :
    Takes dev (cmd 0xFF ([127, 0] ++ z 6)) ∧
    ((cmd 0xFF ([127, 0] ++ z 6)).params.length = 8 ∧ paramZero (cmd 0xFF ([127, 0] ++ z 6)) 3 5 ∧ paramZero (cmd 0xFF
      ([127, 0] ++ z 6)) 2 1 ∧ param (cmd 0xFF ([127, 0] ++ z 6)) 0 1 < 128 ∧ param (cmd 0xFF ([127, 0] ++ z 6)) 1 1 = 0) ∧
    Takes dev (cmd 0xFF ([127, 1] ++ z 6)) ∧
    (paramZero (cmd 0xFF ([127, 1] ++ z 6)) 2 6 ∧ param (cmd 0xFF ([127, 1] ++ z 6)) 0 1 < 128 ∧ param (cmd 0xFF ([127, 1]
      ++ z 6)) 1 1 = 1) ∧
    Takes dev (cmd 0xFF ([0, 2] ++ z 6)) ∧
    (paramZero (cmd 0xFF ([0, 2] ++ z 6)) 2 6 ∧ param (cmd 0xFF ([0, 2] ++ z 6)) 1 1 = 2 ∧ dev.portHolder (param (cmd 0xFF
      ([0, 2] ++ z 6)) 0 1) = none) ∧
    Takes dev (cmd 0xFF ([255, 1, 15] ++ z 5)) ∧
    (paramZero (cmd 0xFF ([255, 1, 15] ++ z 5)) 3 5 ∧ param (cmd 0xFF ([255, 1, 15] ++ z 5)) 1 1 = 1 ∧ param (cmd 0xFF
      ([255, 1, 15] ++ z 5)) 2 1 < 16) ∧
    Takes dev (cmd 0xFF ([0, 0, 15] ++ z 5)) ∧
    (paramZero (cmd 0xFF ([0, 0, 15] ++ z 5)) 3 5 ∧ param (cmd 0xFF ([0, 0, 15] ++ z 5)) 1 1 = 0 ∧ param (cmd 0xFF ([0, 0,
      15] ++ z 5)) 2 1 < 16) ∧
    Takes dev (cmd 0xFF ([255, 65] ++ z 6)) ∧
    (paramZero (cmd 0xFF ([255, 65] ++ z 6)) 2 6 ∧ 0 < param (cmd 0xFF ([255, 65] ++ z 6)) 1 1 ∧ param (cmd 0xFF ([255, 65]
      ++ z 6)) 1 1 ≤ 65 ∧ dev.portState (param (cmd 0xFF ([255, 65] ++ z 6)) 0 1 / 2) ≠ .active) ∧
    Takes dev (cmd 0xFF ([127, 3] ++ z 6)) ∧
    (paramZero (cmd 0xFF ([127, 3] ++ z 6)) 2 6 ∧ param (cmd 0xFF ([127, 3] ++ z 6)) 0 1 < 128 ∧ param (cmd 0xFF ([127, 3]
      ++ z 6)) 1 1 ≤ 3 ∧ dev.portHolder (param (cmd 0xFF ([127, 3] ++ z 6)) 0 1) = none) ∧
    Takes heldRegion (cmd 0xFF ([15] ++ z 7)) ∧
    ((cmd 0xFF ([15] ++ z 7)).params.length = 8 ∧ paramZero (cmd 0xFF ([15] ++ z 7)) 1 7 ∧ param (cmd 0xFF ([15] ++ z 7)) 0
      1 < 16 ∧ (heldRegion.region (param (cmd 0xFF ([15] ++ z 7)) 0 1)).owner = some 0 ∧ heldRegion.ringSid 0 = some
      (heldRegion.pas 0).comp.sid ∧ (heldRegion.region (param (cmd 0xFF ([15] ++ z 7)) 0 1)).state = .held ∧ heldRegion.pstate
      0 ∈ [PState.loaded, .running, .stepping, .frozen]) :=
  ⟨takes rfl rfl rfl rfl rfl rfl,
    by simp only [paramZero, param]; decide +kernel,
    takes rfl rfl rfl rfl rfl rfl,
    by simp only [paramZero, param]; decide +kernel,
    takes rfl rfl rfl rfl rfl rfl,
    by simp only [paramZero, param]; decide +kernel,
    takes rfl rfl rfl rfl rfl rfl,
    by simp only [paramZero, param]; decide +kernel,
    takes rfl rfl rfl rfl rfl rfl,
    by simp only [paramZero, param]; decide +kernel,
    takes rfl rfl rfl rfl rfl rfl,
    by simp only [paramZero, param]; decide +kernel,
    takes rfl rfl rfl rfl rfl rfl,
    by simp only [paramZero, param]; decide +kernel,
    takes rfl rfl rfl rfl rfl rfl,
    by simp only [paramZero, param]; decide +kernel⟩

/-- The device with no session bound to ring 0. -/
def unbound : State := { dev with host := { dev.host with rings := [(0, { dev.ring 0 with bound := none })] } }

/-- A packet that carries no SESSION. -/
def plain (ps : List Byte) : Cmd := { cmd 0xFF ps with session := false }

/-- SESSION_OPEN MODE 1 with the PROOF of session 1. -/
def rebindHead : List Byte := z 8 ++ leBytes 4 288 ++ z 4 ++ [1] ++ z 7 ++ leBytes 8 1
def proof : List Byte := unbound.rebindProof 0 { sid := 1, rebind := 0, prk := [], headers := 0, nonces := [] }
def rebind : List Byte := rebindHead ++ proof ++ z 264

theorem unbound_takes (ps : List Byte) (modes : List Mode) (h : Mode.service ∈ modes) :
    takesDevice unbound (plain ps) modes false := by
  have hr : ringReady unbound (plain []) := by unfold ringReady; decide
  exact ⟨hr, h, rfl, fun h => absurd h Bool.false_ne_true, fun h => absurd h Bool.false_ne_true⟩

theorem slice_mid (a b c : List Byte) : slice (a ++ b ++ c) a.length b.length = b := by simp [slice]
theorem slice_last (a b : List Byte) : slice (a ++ b) a.length b.length = b := by simp [slice]
theorem z_length (n : Nat) : (z n).length = n := List.length_replicate
theorem z_all (n : Nat) : (z n).all (fun b => b == 0) = true := List.all_eq_true.mpr fun _ h => by simp
  [List.eq_of_mem_replicate h]
theorem proof_length : proof.length = 48 := hmac384_length _ _

theorem witness_sessions :
    (Takes { dev with fuses := { Fuses.init with lcState := 2 } } (cmd 0xFF (res 16384 ++ z 32)) ∧
      (res 16384 ++ z 32).length = 48 ∧ paramZero (cmd 0xFF (res 16384 ++ z 32)) 12 4 ∧
      resultFits (cmd 0xFF (res 16384 ++ z 32)) 16384) ∧
    ((∀ modes, Mode.service ∈ modes → takesDevice unbound (plain (res 288 ++ z 328)) modes false) ∧
      (res 288 ++ z 328).length = 344 ∧ paramZero (plain (res 288 ++ z 328)) 12 12 ∧ resultFits (plain (res 288 ++ z 328)) 288 ∧
      unbound.fuses.lcState ∉ [0, 4] ∧ (unbound.ring 0).bound = none ∧ unbound.host.sessions.length < 64) ∧
    ((∀ modes, Mode.service ∈ modes → takesDevice unbound (plain rebind) modes false) ∧ rebind.length = 344 ∧
      paramZero (plain rebind) 12 4 ∧ paramZero (plain rebind) 17 7 ∧ paramZero (plain rebind) 80 264 ∧
      param (plain rebind) 16 1 = 1 ∧ resultFits (plain rebind) 288 ∧
      unbound.session (param (plain rebind) 24 8) = some { sid := 1, rebind := 0, prk := [], headers := 0, nonces := [] } ∧
      proof = slice rebind 32 48) ∧
    (Takes dev (cmd 0xFF (z 8)) ∧ paramZero (cmd 0xFF (z 8)) 0 8 ∧ dev.ringSid 0 = some 1 ∧ dev.sessionHolds 1 = false) := by
  have hl := proof_length
  refine ⟨⟨takes rfl rfl rfl rfl rfl rfl, by decide, by unfold paramZero; decide +kernel,
    by unfold resultFits param; decide +kernel⟩,
    ⟨unbound_takes _, by decide +kernel, by unfold paramZero; decide +kernel, by unfold resultFits param; decide +kernel,
      by decide,
      by decide, by decide⟩,
    ⟨unbound_takes _, by rw [rebind, List.length_append, List.length_append, hl, z_length]; decide,
      by unfold paramZero; decide +kernel,
      by unfold paramZero; decide +kernel, ?_, by unfold param; decide +kernel, by unfold resultFits param; decide +kernel,
      by unfold param; decide +kernel, ?_⟩,
    ⟨takes rfl rfl rfl rfl rfl rfl, by unfold paramZero; decide +kernel, by decide, by decide⟩⟩
  · have h := slice_last (rebindHead ++ proof) (z 264)
    rw [List.length_append, hl, z_length] at h
    have h80 : slice rebind 80 264 = z 264 := h
    show (slice rebind 80 264).all (fun b => b == 0) = true
    rw [h80, z_all]
  · have h := slice_mid rebindHead proof (z 264)
    rw [hl] at h
    exact h.symm

/-- A load header for pasture 0 of session 1 (Table 6-3), with its payload length and number of chunks. -/
def header (len chunks : Nat) : List Byte :=
  [0x4E, 0x49, 0x52, 0x4C, 1, 0, 0, 6, 16, 0, 0, 0, 1, 0, 0, 0] ++ leBytes 8 len ++ leBytes 4 chunks ++ z 44 ++ leBytes 8 1
    ++ z 48 ++
    leBytes 8 0x20000000 ++ z 120

/-- A pasture in LOADING whose first chunk of two is due. -/
def loading : State := withPas { pasture .loading with
  load := some { header := header 65552 2, ring := 0, nextChunk := 0, staging := 0x20000000, length := 65552, supply := false } }

/-- That chunk: 65,536 bytes of ciphertext and their tag. -/
def chunkTag : List Byte := gcmTag (loading.kImg 1) (z 12) (header 65552 2) (z 65536)
def chunk : List Byte := [1, 0, 0, 0, 0, 0, 0, 0] ++ (z 65536 ++ chunkTag)

theorem witness_load :
    (takesPasture dev (cmd 0 (z 8 ++ header 16 1)) ∧ (z 8 ++ header 16 1).length = 264 ∧
      paramZero (cmd 0 (z 8 ++ header 16 1)) 0 8 ∧ dev.pstate 0 = .empty ∧
      (taken dev (cmd 0 (z 8 ++ header 16 1)) 0x0201).stage1 0 0 (slice (z 8 ++ header 16 1) 8 256) = none) ∧
    (takesPasture loading (cmd 0 chunk) ∧ chunk.length = 65560 ∧ param (cmd 0 chunk) 0 1 = 1 ∧ paramZero (cmd 0 chunk) 1 3 ∧
      loading.pstate 0 = .loading ∧ param (cmd 0 chunk) 4 4 = 0 ∧ 0 + 1 < hdrChunks (header 65552 2) ∧
      chunk.length = 8 + (chunkLen (header 65552 2) 0 + 16) ∧ hdrNonce (header 65552 2) ++ beBytes 4 0 = z 12 ∧
      ∃ pt, gcmOpen (loading.kImg 1) (z 12) (header 65552 2) ((chunk.drop 8).take 65536) ((chunk.drop 8).drop 65536) = some
        pt) ∧
    (takesPasture loading (cmd 0 []) ∧ loading.pstate 0 = .loading ∧ (loading.pas 0).load.map PLoad.ring = some 0) := by
  have hl : chunkTag.length = 16 := gcmTag_length _ _ _ _
  have hc : chunk.length = 65560 := by rw [chunk, List.length_append, List.length_append, hl, z_length]; rfl
  have hn : chunkLen (header 65552 2) 0 = 65536 := by decide +kernel
  refine ⟨⟨takesP rfl rfl rfl (by decide) rfl rfl (fun h => absurd rfl h), by decide +kernel,
    by unfold paramZero; decide +kernel, rfl,
      by decide +kernel⟩,
    ⟨takesP rfl rfl rfl (by decide) rfl rfl (fun _ => rfl), hc, by unfold param; decide +kernel,
      by unfold paramZero; decide +kernel,
      rfl, by unfold param; decide +kernel, by decide +kernel, by rw [hc, hn], by decide +kernel, ?_⟩,
    ⟨takesP rfl rfl rfl (by decide) rfl rfl (fun _ => rfl), rfl, rfl⟩⟩
  have h8 : chunk.drop 8 = z 65536 ++ chunkTag := rfl
  have hz : (z 65536).length = 65536 := z_length _
  rw [h8, List.take_left' hz, List.drop_left' hz]
  exact ⟨_, gcmOpen_tag _ _ _ _⟩

theorem witness_unload :
    takesPasture (pas .loaded) (cmd 0 []) ∧
    (pas .loaded).pstate 0 ∈ [PState.loaded, .running, .stepping, .frozen, .faulted] ∧
    ((pas .draining).pstate 0 = .draining ∧ (pas .draining).dev.mode ≠ .hold ∧ (pas .draining).engineBusy 0 = false) :=
  ⟨takesP rfl rfl rfl (by decide) rfl rfl (fun _ => rfl),
    by decide +kernel,
    by decide +kernel⟩

theorem witness_run_control :
    takesPasture (pas .frozen) (cmd 0 (z 32)) ∧
    ((cmd 0 (z 32)).params.length = 32 ∧ paramZero (cmd 0 (z 32)) 0 2 ∧ paramZero (cmd 0 (z 32)) 2 30 ∧ (pas
      .frozen).freezePending 0 = false ∧ (pas .frozen).spanning 0 = false ∧ ((pas .frozen).pas 0).stat.lastStatus ≠ 0x0701 ∧
      (pas .frozen).pstate 0 ∈ [PState.loaded, .frozen]) ∧
    takesPasture (pas .loaded) (cmd 0 []) ∧
    ((pas .loaded).spanning 0 = false ∧ (pas .loaded).pstate 0 ∈ [PState.loaded, .frozen]) ∧
    takesPasture (pas .running) (cmd 0 []) ∧
    ((pas .running).spanning 0 = false ∧ (pas .running).pstate 0 ∈ [PState.running, .stepping, .recovering]) ∧
    takesPasture (pas .running) (cmd 0 ([127] ++ z 7)) ∧
    ((cmd 0 ([127] ++ z 7)).params.length = 8 ∧ param (cmd 0 ([127] ++ z 7)) 0 4 < 128 ∧ paramZero (cmd 0 ([127] ++ z 7)) 4
      4 ∧ (pas .running).pstate 0 ∉ [PState.empty, .recovering]) :=
  ⟨takesP rfl rfl rfl (by decide) rfl rfl (fun _ => rfl),
    by simp only [paramZero]; decide +kernel,
    takesP rfl rfl rfl (by decide) rfl rfl (fun _ => rfl),
    by decide +kernel,
    takesP rfl rfl rfl (by decide) rfl rfl (fun _ => rfl),
    by decide +kernel,
    takesP rfl rfl rfl (by decide) rfl rfl (fun _ => rfl),
    by simp only [paramZero, param]; decide +kernel⟩

/-- A RUNNING pasture with a FREEZE in progress. -/
def freezing : State := { pas .running with
  host := { dev.host with
    prog :=
      [{ ring := 0, seq := 0, tag := 0, opcode := 0x0302, pasture := 0, session := true, noIrq := false, key := [], live := true }]
      } }

theorem witness_run_refused :
    takesPasture freezing (cmd 0 (z 32)) ∧
    (freezing.pstate 0 ≠ .recovering ∧ (cmd 0 (z 32)).params.length = 32 ∧ paramZero (cmd 0 (z 32)) 5 3 ∧ paramZero (cmd 0
      (z 32)) 21 3 ∧ (∀ x ∈ freezing.runRanges (cmd 0 (z 32)), x.1 = false) ∧ freezing.freezePending 0 = true) :=
  ⟨by unfold takesPasture ringReady sessionBound; decide +kernel,
    by simp only [paramZero]; decide +kernel⟩

/-- A LOADED pasture that holds flow 0 and tasks 5 and 0x1234. -/
def flows : State := { pas .loaded with
  flow := { FlowSide.init with
    owners := [(0, some 0)]
    tasks := [(5, { Task.init with owner := some 0 }), (0x1234, { Task.init with owner := some 0, tstate := .parked })] } }

/-- A pasture with rings enabled. -/
def rings (st : PState) : State := withPas { pasture st with
  ck := { PRing.init with plan := some { storePa := 0, undoPa := 0, undoSize := 0, logPa := 0, logSize := 0, interval := 0 } } }

theorem witness_flow_ring :
    Takes dev (cmd 0xFF (res 8704)) ∧
    ((cmd 0xFF (res 8704)).params.length = 16 ∧ paramZero (cmd 0xFF (res 8704)) 12 4 ∧ resultFits (cmd 0xFF (res 8704)) 8704) ∧
    takesPasture flows (cmd 0 ([0x34, 0x12] ++ z 6)) ∧
    ((cmd 0 ([0x34, 0x12] ++ z 6)).params.length = 8 ∧ paramZero (cmd 0 ([0x34, 0x12] ++ z 6)) 2 6 ∧ (flows.task (param (cmd
      0 ([0x34, 0x12] ++ z 6)) 0 2)).owner = some 0 ∧ flows.pstate 0 ∈ [PState.loaded, .running, .stepping, .frozen]) ∧
    takesPasture flows (cmd 0 (res 80 ++ [1, 1] ++ z 6 ++ [3, 0, 5, 0] ++ z 4)) ∧
    (tallyLength (cmd 0 (res 80 ++ [1, 1] ++ z 6 ++ [3, 0, 5, 0] ++ z 4)).params = true ∧ paramZero (cmd 0 (res 80 ++ [1, 1]
      ++ z 6 ++ [3, 0, 5, 0] ++ z 4)) 12 4 ∧ paramZero (cmd 0 (res 80 ++ [1, 1] ++ z 6 ++ [3, 0, 5, 0] ++ z 4)) 18 6 ∧
      paramZero (cmd 0 (res 80 ++ [1, 1] ++ z 6 ++ [3, 0, 5, 0] ++ z 4)) 28 4 ∧ resultFits (cmd 0 (res 80 ++ [1, 1] ++ z 6 ++
      [3, 0, 5, 0] ++ z 4)) (48 + 32) ∧ param (cmd 0 (res 80 ++ [1, 1] ++ z 6 ++ [3, 0, 5, 0] ++ z 4)) 16 1 = 1 ∧ param (cmd 0
      (res 80 ++ [1, 1] ++ z 6 ++ [3, 0, 5, 0] ++ z 4)) 17 1 = 1 ∧ flows.queueOwner (param (cmd 0 (res 80 ++ [1, 1] ++ z 6 ++
      [3, 0, 5, 0] ++ z 4)) 24 2) = some 0 ∧ (flows.task (param (cmd 0 (res 80 ++ [1, 1] ++ z 6 ++ [3, 0, 5, 0] ++ z 4)) 26
      2)).owner = some 0) ∧
    takesPasture (rings .loaded) (cmd 0 (res 48)) ∧
    ((cmd 0 (res 48)).params.length = 16 ∧ paramZero (cmd 0 (res 48)) 12 4 ∧ resultFits (cmd 0 (res 48)) 48 ∧ (rings
      .loaded).ringsOn 0 = true) ∧
    takesPasture (rings .frozen) (cmd 0 []) ∧
    ((rings .frozen).pstate 0 = .frozen ∧ (rings .frozen).ringsOn 0 = true) :=
  ⟨takes rfl rfl rfl rfl rfl rfl,
    by simp only [paramZero, resultFits, param]; decide +kernel,
    takesP rfl rfl rfl (by decide) rfl rfl (fun _ => rfl),
    by simp only [paramZero, param]; decide +kernel,
    takesP rfl rfl rfl (by decide) rfl rfl (fun _ => rfl),
    by simp only [paramZero, resultFits, param]; decide +kernel,
    takesP rfl rfl rfl (by decide) rfl rfl (fun _ => rfl),
    by simp only [paramZero, resultFits, param]; decide +kernel,
    takesP rfl rfl rfl (by decide) rfl rfl (fun _ => rfl),
    by decide +kernel⟩

/-- A RUNNING pasture whose acquisition engine is in a state, with 4 of its 8 records written. -/
def acquiring (st : AcqState) : State := (pas .running).modAcq 0 (fun a => { a with
  hasPlan := true, state := st, written := 4, plan := z 8 ++ leBytes 4 8 ++ z 2196 })

/-- An idle engine whose plan is all zero. -/
def planned : State := (pas .running).modAcq 0 (fun a => { a with hasPlan := true, state := .idle, plan := z 64 })

theorem fieldAt_z (n o k : Nat) : fieldAt (z n) o k = 0 := by
  have h : ∀ (l : List Byte), (∀ b ∈ l, b = 0) → leNat l = 0 := by
    intro l; induction l with
    | nil => intro _; rfl
    | cons a l ih =>
      intro h
      simp [leNat, h a (List.mem_cons_self ..), ih (fun b hb => h b (List.mem_cons_of_mem _ hb))]
  refine h _ fun b hb => ?_
  rcases List.mem_append.mp hb with hb | hb
  · exact List.eq_of_mem_replicate (List.mem_of_mem_drop (List.mem_of_mem_take hb))
  · exact List.eq_of_mem_replicate hb
theorem zeroAt_z (n o k : Nat) : zeroAt (z n) o k = true := by
  refine List.all_eq_true.mpr fun b hb => ?_
  rcases List.mem_append.mp hb with hb | hb
  · rw [List.eq_of_mem_replicate (List.mem_of_mem_drop (List.mem_of_mem_take hb))]; rfl
  · rw [List.eq_of_mem_replicate hb]; rfl
theorem planned_ok : acqBodyFault ((planned.acqOf 0).program (cmd 0 (z 2144)).params).plan (planned.probeFolds 0) = none := by
  rw [show ((planned.acqOf 0).program (cmd 0 (z 2144)).params).plan = z 2208 by decide +kernel]
  unfold acqBodyFault
  simp only [fieldAt_z, zeroAt_z]
  decide +kernel

theorem witness_acquisition :
    takesPasture (acquiring .done) (cmd 0 []) ∧
    (((acquiring .done).acqOf 0).state ∈ [AcqState.idle, .done] ∧ (acquiring .done).pstate 0 ∈ [PState.loaded, .running,
      .stepping, .frozen, .faulted]) ∧
    takesPasture (acquiring .armed) (cmd 0 []) ∧
    ((acquiring .armed).acqOf 0).state = .armed ∧
    takesPasture (acquiring .post) (cmd 0 (res 4096 ++ z 8 ++ leBytes 8 1 ++ leBytes 4 3 ++ z 4)) ∧
    ((cmd 0 (res 4096 ++ z 8 ++ leBytes 8 1 ++ leBytes 4 3 ++ z 4)).params.length = 40 ∧ paramZero (cmd 0 (res 4096 ++ z 8
      ++ leBytes 8 1 ++ leBytes 4 3 ++ z 4)) 12 4 ∧ paramZero (cmd 0 (res 4096 ++ z 8 ++ leBytes 8 1 ++ leBytes 4 3 ++ z 4))
      17 7 ∧ paramZero (cmd 0 (res 4096 ++ z 8 ++ leBytes 8 1 ++ leBytes 4 3 ++ z 4)) 36 4 ∧ param (cmd 0 (res 4096 ++ z 8 ++
      leBytes 8 1 ++ leBytes 4 3 ++ z 4)) 0 8 % 64 = 0 ∧ (acquiring .post).areaLen (cmd 0 (res 4096 ++ z 8 ++ leBytes 8 1 ++
      leBytes 4 3 ++ z 4)) ≤ param (cmd 0 (res 4096 ++ z 8 ++ leBytes 8 1 ++ leBytes 4 3 ++ z 4)) 8 4 ∧ param (cmd 0 (res 4096
      ++ z 8 ++ leBytes 8 1 ++ leBytes 4 3 ++ z 4)) 16 1 ≤ 2 ∧ ((acquiring .post).pas 0).flow.readNo < 2 ^ 32) ∧
    (acquiring .post).areaHolds (cmd 0 (res 4096 ++ z 8 ++ leBytes 8 1 ++ leBytes 4 3 ++ z 4)) = true ∧
    takesPasture planned (cmd 0 (z 2144)) ∧
    ((cmd 0 (z 2144)).params.length = 2144 ∧ (planned.acqOf 0).state = .idle) ∧
    acqBodyFault ((planned.acqOf 0).program (cmd 0 (z 2144)).params).plan (planned.probeFolds 0) = none :=
  ⟨takesP rfl rfl rfl (by decide) rfl rfl (fun _ => rfl),
    by decide +kernel,
    takesP rfl rfl rfl (by decide) rfl rfl (fun _ => rfl),
    by decide +kernel,
    takesP rfl rfl rfl (by decide) rfl rfl (fun _ => rfl),
    by simp only [paramZero, param]; decide +kernel,
    by decide +kernel,
    takesP rfl rfl rfl (by decide) rfl rfl (fun _ => rfl),
    by decide +kernel,
    planned_ok⟩

/-- A FROZEN pasture with 1 MiB of HBM that region 0 of DIAG permits. -/
def diagnosed : State :=
  { withPas { pasture .frozen with comp := { PComp.init with sid := 1, allocs := [{ kind := 1, base := 0x20000000, size := 0x100000 }] } }
    with mregions := [(0, { valid := true, rd := true, wr := true, setclr := false, pasture := 0, base := 0x20000000, pages := 256 })] }

theorem diagnostic_value : ∃ v, (taken dev (cmd 0xFF ([1, 2, 0, 0, 15] ++ z 3)) 0x0D01).diagReg 0x0201 15 = .value v := by
  cases h : (taken dev (cmd 0xFF ([1, 2, 0, 0, 15] ++ z 3)) 0x0D01).diagReg 0x0201 15 with
  | value v => exact ⟨v, rfl⟩
  | badReg => exact absurd h (by decide +kernel)
  | badIndex => exact absurd h (by decide +kernel)
  | closing => exact absurd h (by decide +kernel)

theorem witness_diagnostic :
    Takes dev (cmd 0xFF ([1, 2, 0, 0, 15] ++ z 3)) ∧
    ((cmd 0xFF ([1, 2, 0, 0, 15] ++ z 3)).params.length = 8 ∧ paramZero (cmd 0xFF ([1, 2, 0, 0, 15] ++ z 3)) 2 2 ∧ param
      (cmd 0xFF ([1, 2, 0, 0, 15] ++ z 3)) 0 2 = 0x0201 ∧ param (cmd 0xFF ([1, 2, 0, 0, 15] ++ z 3)) 4 4 = 15) ∧
    (∃ v, (taken dev (cmd 0xFF ([1, 2, 0, 0, 15] ++ z 3)) 0x0D01).diagReg 0x0201 15 = .value v) ∧
    takesPasture diagnosed (cmd 0 (res 1048576 ++ leBytes 8 0x20000000 ++ leBytes 4 1048576 ++ z 4)) ∧
    ((cmd 0 (res 1048576 ++ leBytes 8 0x20000000 ++ leBytes 4 1048576 ++ z 4)).params.length = 32 ∧ paramZero (cmd 0 (res
      1048576 ++ leBytes 8 0x20000000 ++ leBytes 4 1048576 ++ z 4)) 12 4 ∧ paramZero (cmd 0 (res 1048576 ++ leBytes 8
      0x20000000 ++ leBytes 4 1048576 ++ z 4)) 28 4 ∧ resultFits (cmd 0 (res 1048576 ++ leBytes 8 0x20000000 ++ leBytes 4
      1048576 ++ z 4)) (param (cmd 0 (res 1048576 ++ leBytes 8 0x20000000 ++ leBytes 4 1048576 ++ z 4)) 24 4) ∧ param (cmd 0
      (res 1048576 ++ leBytes 8 0x20000000 ++ leBytes 4 1048576 ++ z 4)) 16 8 % 2 = 0 ∧ 2 ≤ param (cmd 0 (res 1048576 ++
      leBytes 8 0x20000000 ++ leBytes 4 1048576 ++ z 4)) 24 4 ∧ param (cmd 0 (res 1048576 ++ leBytes 8 0x20000000 ++ leBytes 4
      1048576 ++ z 4)) 24 4 ≤ 1048576 ∧ param (cmd 0 (res 1048576 ++ leBytes 8 0x20000000 ++ leBytes 4 1048576 ++ z 4)) 24 4 %
      2 = 0) ∧
    (diagnosed.diagPermits 0 0x20000000 0x100000 false = true ∧ diagnosed.diagState 0 0x20000000 false = true) ∧
    takesPasture diagnosed (cmd 0 (leBytes 8 0x20000000 ++ leBytes 4 2 ++ z 4 ++ [1, 2] ++ z 6)) ∧
    ((cmd 0 (leBytes 8 0x20000000 ++ leBytes 4 2 ++ z 4 ++ [1, 2] ++ z 6)).params.length ≤ 262160 ∧ 2 ≤ param (cmd 0
      (leBytes 8 0x20000000 ++ leBytes 4 2 ++ z 4 ++ [1, 2] ++ z 6)) 8 4 ∧ param (cmd 0 (leBytes 8 0x20000000 ++ leBytes 4 2
      ++ z 4 ++ [1, 2] ++ z 6)) 8 4 % 2 = 0 ∧ (cmd 0 (leBytes 8 0x20000000 ++ leBytes 4 2 ++ z 4 ++ [1, 2] ++ z
      6)).params.length = 16 + (param (cmd 0 (leBytes 8 0x20000000 ++ leBytes 4 2 ++ z 4 ++ [1, 2] ++ z 6)) 8 4 + 7) / 8 * 8 ∧
      paramZero (cmd 0 (leBytes 8 0x20000000 ++ leBytes 4 2 ++ z 4 ++ [1, 2] ++ z 6)) 12 4 ∧ paramZero (cmd 0 (leBytes 8
      0x20000000 ++ leBytes 4 2 ++ z 4 ++ [1, 2] ++ z 6)) 18 6 ∧ param (cmd 0 (leBytes 8 0x20000000 ++ leBytes 4 2 ++ z 4 ++
      [1, 2] ++ z 6)) 0 8 % 2 = 0) ∧
    (diagnosed.diagPermits 0 0x20000000 2 true = true ∧ diagnosed.diagState 0 0x20000000 true = true) :=
  ⟨takes rfl rfl rfl rfl rfl rfl,
    by simp only [paramZero, param]; decide +kernel,
    diagnostic_value,
    takesP rfl rfl rfl (by decide) rfl rfl (fun _ => rfl),
    by simp only [paramZero, resultFits, param]; decide +kernel,
    by decide +kernel,
    takesP rfl rfl rfl (by decide) rfl rfl (fun _ => rfl),
    by simp only [paramZero, param]; decide +kernel,
    by decide +kernel⟩

/-- Jobs of DIAG over 0x20000000, or over word 0 of scratchpad 0 of pair 0. -/
def job (write : Bool) (a n : Nat) : DiagJob :=
  { cmd := cmd 0 (if write then leBytes 8 a ++ leBytes 4 n ++ z 4 else res n ++ leBytes 8 a ++ leBytes 4 n ++ z 4)
    prog := cmdOf diagnosed (cmd 0 []) 0x0D02, write := write, next := 0, got := [] }

theorem witness_diagnostic_waits :
    (∀ w ∈ [false, true], diagnosed.diagNow (job w 0x20000000 2) = true ∧ diagnosed.diagNow (job w 0x10000000000 2) = true) ∧
    (∀ w ∈ [false, true],
      (diagnosed.modDomain (domHbm 0) (fun x => { x with state := .ret })).diagNow (job w 0x20000000 2) = false ∧
      (diagnosed.modPair 0 (fun x => { x with busy := [0] })).diagNow (job w 0x10000000000 2) = false) := by decide +kernel

theorem witness_session_required :
    ringReady dev (plain []) ∧
    (dev.dev.mode ∈ [Mode.service, .emulate] ∧ (plain []).session = false ∧ dev.pstate (plain []).pasture ≠ .recovering) :=
  ⟨by unfold ringReady; decide,
    by decide +kernel⟩

/-! ### Witnesses: window W0 -/

/-- Ring 0 with 4 words of packets taken and an entry not yet read; a HALTED ring 1. -/
def served : State := { dev with
  host := { dev.host with
    rings := [(0, { dev.ring 0 with cmdTail := 4, cplTail := 1 }), (1, { CmdRing.init with cmdLog2 := 12, halted := true })] } }

theorem witness_ring_index :
    (served.ringServes 0 false = true ∧ 4 ≤ (served.ring 0).offered ∧ 8 * (served.ring 0).cmdHead % 2 ^ (served.ring
      0).cmdLog2 + 8 * 4 ≤ 2 ^ (served.ring 0).cmdLog2) ∧
    (served.w0Open = true ∧ (served.ring 0).offered ≤ wrapSub 32 512 (served.ring 0).cmdHead ∧ wrapSub 32 512 (served.ring
      0).cmdHead ≤ 2 ^ (served.ring 0).cmdLog2 / 8) ∧
    (wrapSub 32 3 (served.ring 0).cmdHead < (served.ring 0).offered ∧ 2 ^ (served.ring 0).cmdLog2 / 8 < wrapSub 32 513
      (served.ring 0).cmdHead) ∧
    (wrapSub 32 1 (served.ring 0).cplHead ≤ wrapSub 32 (served.ring 0).cplTail (served.ring 0).cplHead ∧ wrapSub 32
      (served.ring 0).cplTail (served.ring 0).cplHead < wrapSub 32 2 (served.ring 0).cplHead) :=
  ⟨by decide +kernel,
    by decide +kernel,
    by decide +kernel,
    by decide +kernel⟩

theorem witness_ring_enable :
    (served.w0Open = true ∧ (served.ring 0).enable = true ∧ (served.ring 1).enable = false) :=
  by decide +kernel

/-- A LOADED pasture with a HOST_IN queue 0 and a HOST_OUT queue 1 of 4 entries, 2 of them held. -/
def queues : State := { flows with
  flow := { flows.flow with
    queues := [(0, { Queue.init with depthLog2 := 2, role := roleHostIn, tail := 2 }),
      (1, { Queue.init with depthLog2 := 2, role := roleHostOut, tail := 2 })] } }

theorem witness_flow_doorbells :
    (queues.w0Open = true ∧ queues.queueOwner 0 = some 0 ∧ queues.queueOwner 1 = some 0 ∧ queues.pstate 0 ∈ [PState.loaded,
      .running, .stepping, .frozen]) ∧
    ((queues.queue 0).role = roleHostIn ∧ (queues.queue 0).count ≤ wrapSub 32 4 (queues.queue 0).head ∧ wrapSub 32 4
      (queues.queue 0).head ≤ (queues.queue 0).cap) ∧
    ((queues.queue 0).role = roleHostIn ∧ wrapSub 32 1 (queues.queue 0).head < (queues.queue 0).count ∧ (queues.queue 0).cap
      < wrapSub 32 5 (queues.queue 0).head) ∧
    ((queues.queue 1).role = roleHostOut ∧ wrapSub 32 2 (queues.queue 1).head ≤ (queues.queue 1).count ∧ (queues.queue
      1).count < wrapSub 32 3 (queues.queue 1).head) ∧
    ((queues.queue 2).role ≠ roleHostIn ∧ (queues.queue 2).role ≠ roleHostOut ∧ queues.queueOwner 4 = none) :=
  ⟨by decide +kernel,
    by decide +kernel,
    by decide +kernel,
    by decide +kernel,
    by decide +kernel⟩

theorem witness_register_writes :
    (dev.w0Open = true ∧ 0x400000 ≤ (0x400000 : Nat) ∧ (0x3FFFFF : Nat) < 0x400000 ∧ 0x3FFFFF % 4 ≠ 0 ∧ State.reset.w0Open = false) ∧
    ((0x100000 : Nat) ≤ 0x3FFFF8 ∧ 0x3FFFF8 % 8 = 0 ∧ 0x0FFFF8 < 0x100000 ∧ 0x0FFFF8 % 8 = 0 ∧ 2 ^ 64 - 1 < 2 ^ (8 * 8)) ∧
    (dev.fuses.lcState ∉ [0, 3] ∧ blank.fuses.lcState = 0 ∧ blank.w0Open = true) :=
  ⟨by decide +kernel,
    by decide +kernel,
    by decide +kernel⟩

/-! ### Witnesses: folds -/

def inMode (s : State) (m : Mode) : State := s.modDev (fun d => { d with mode := m })

/-- A RUNNING pasture whose fold 0 is as given; fold 1 has arrived. -/
def running (x : Fold) : State := { pas .running with
  folds := [(0, { x with pasture := some 0 }), (1,
    { Fold.init with pasture := some 0, seq := { FoldSeq.init with arrived := true } })] }

/-- Fold 0 with an instruction word of BP 255, or a side word, in slot 0. -/
def withInstr (op : Nat) : State := running { Fold.init with store := { FoldStore.init with instr := [(255, op * 2 ^ 75)] } }
def sided (w : Nat) : Fold := { Fold.init with store := { FoldStore.init with side := [(0, w)] } }

theorem witness_bp_ready :
    (∀ op ∈ [opNop, opEval, opEvals, opEvale, opCheck, opCopy, opXonly], bpReady (withInstr op) 0 255 0 op) ∧
    (∃ t, exec (.nop 0 255) (withInstr opNop) = .next t) :=
  ⟨by unfold bpReady; decide +kernel,
    ⟨_, rfl⟩⟩


/-- `WritesSeenTwoSlotsOn`: slot 0 of two, then the last slot, with writes of both slots in hand at the last entry and the
  first. -/
theorem witness_writes_seen :
    let q (n : Nat) : Fold := { Fold.init with seq := { FoldSeq.init with
      slot := n, lastSlot := 1, wr1 := [{ bp := 0, entry := 511, val := true }], wr0 :=
        [{ bp := 1, entry := 0, val := true }] } }
    (∀ n < 2, ∀ w ∈ (q n).seq.wr1 ++ (q n).seq.wr0, w.entry < 512) ∧ (q 0).seq.slot ≠ (q 0).seq.lastSlot ∧
    (q 1).seq.slot = (q 1).seq.lastSlot ∧ ((q 0).leave 0).read 0 511 = true ∧ ((q 0).leave 0).read 1 0 = false ∧
    ((q 1).leave 0).read 1 0 = true := by decide +kernel
theorem witness_import : (((withInstr opCopy).fold 0).instrNow 255).op ≠ opNop := by decide +kernel

/-- A scratchpad operation of scratchpad 7 on SPA, and with `two` the same on SPB. -/
def padOp (sop : Nat) (two : Bool) : Nat := (sop * 8 + 7) * 2 ^ 118 + (if two then (sop * 8 + 7) * 2 ^ 94 else 0)

/-- Fold 0 stands at slot 1 with its operation; fold 1, at slot 0, has one before it. -/
def behind : State := { pas .running with
  folds := [(0, { Fold.init with
      pasture := some 0, store := { FoldStore.init with side := [(1, padOp 1 false)] }, seq :=
        { FoldSeq.init with slot := 1, lastSlot := 1 } }),
    (1, { sided (padOp 1 false) with pasture := some 0 })] }

/-- SPA writes row 0 of scratchpad 7, and SPB reads row 4. -/
def otherRow : State := running { sided (padOp 2 false + (1 * 8 + 7) * 2 ^ 94 + 5 * 2 ^ 88) with
  seq := { FoldSeq.init with bpOut := 64 * 2 ^ 80 } }

theorem witness_scratchpad_grants :
    (∀ k ∈ [(SpOp.rd, 1), (.wr, 2), (.set, 3), (.clr, 4), (.wide, 5)], (running (sided (padOp k.2 false))).inSlot 0 = some 0
      ∧ (((running (sided (padOp k.2 false))).fold 0).sideNow.sp false).kind = some k.1 ∧ b2n false ∉ ((running (sided (padOp
      k.2 false))).fold 0).seq.issued ∧
      ((grantState (running (sided (padOp k.2 false))) 0 0).padCandidates 0 7 0).map (fun l => (l.length, conflicts l, l.all
        (fun x => x.fold == 0 && x.b == false))) = some (1, [], true)) ∧
    (((grantState (running (sided (padOp 2 true))) 0 0).padCandidates 0 7 0).map (fun l => (l.length, (conflicts l).length))
      = some (2, 2) ∧ ((grantState (running (sided (padOp 2 true))) 0 0).fold 0).spWaits true = true ∧ ((grantState (running
      (sided (padOp 2 true))) 0 0).fold 0).pasture = some 0) ∧
    (behind.inSlot 0 = some 0 ∧ (grantState behind 0 0).padCandidates 0 7 1 = none ∧ ((grantState behind 0 0).fold
      0).spWaits false = true) ∧
    (otherRow.inSlot 0 = some 0 ∧ ((otherRow.fold 0).sideNow.sp true).kind = some .rd ∧
      ((grantState otherRow 0 0).padCandidates 0 7 0).map (fun l => l.map (fun x => (x.b, x.addr / 16))) =
        some [(false, 0), (true, 4)]) :=
  ⟨by decide +kernel,
    by decide +kernel,
    by decide +kernel,
    by decide +kernel⟩

/-- Scratchpad 7 of pair 0 with one SET waiting, and scratchpad 6 with another operation. -/
def access (k : Nat) (op : SpOp) : SpAccess :=
  { fold := 0, b := false, op := op, pad := k, addr := 32764, n := 4, data := [1, 2, 3, 4], slot := 0, due := 3, rg := 0 }
def ported (op : SpOp) : State := { running Fold.init with
  pairs := [(0, { Pair.init with port := [access 7 op, access 6 .rd] })] }

theorem witness_scratchpad_port :
    (∀ op ∈ [SpOp.rd, .wr, .set, .clr, .wide], (ported op).dev.mode ≠ .hold ∧ (inMode (ported op) .hold).dev.mode = .hold ∧
      ((ported op).pair 0).port.find? (fun a => a.pad == 7) = some (access 7 op)) ∧
    ((access 7 .set).op.writes = true ∧ padKey 7 (access 7 .set).addr ≤ padKey 7 32767 ∧
      padKey 7 32767 < padKey 7 (access 7 .set).addr + (access 7 .set).n ∧ (access 7 .rd).op.writes = false) :=
  ⟨by decide +kernel,
    by decide +kernel⟩

/-- A channel from endpoint 7 of fold 0 to endpoint 0 of fold 1, and one back to endpoint 7, with words in their FIFOs. -/
def chan (a b : Nat) (src dst : List (BitVec 16)) : Chan :=
  { srcKind := .fold, srcId := a, dstKind := .fold, dstId := b, count := 1, srcFifo := src, path := [(0, 5)], dstFifo := dst,
    delivered := 0, sent := 0 }
def channels (w : Nat) (src dst : List (BitVec 16)) : State :=
  { running (sided w) with pastures := [(0, { pasture .running with chans := [chan 7 8 src dst, chan 8 7 src dst] })] }
def snd0 : Nat := 2 ^ 75 + 7 * 2 ^ 72
def rcv0 : Nat := 2 ^ 47 + 7 * 2 ^ 44
def words (n : Nat) : List (BitVec 16) := List.replicate n 9

/-- A word for fold 0 that slot 15 of link 0 brought. -/
def linkFed : State := { running Fold.init with
  pastures := [(0, { pasture .running with chans := [{ chan 15 7 [] [] with srcKind := .link, path := [] }] })]
  ports := [(0, { LinkPort.init with rxWords := [(15, [9])] })] }
theorem witness_channels_flags :
    (slotRuns (channels snd0 (words 15) []) 0 0 ∧ (((channels snd0 (words 15) []).fold 0).sideNow.snd false).v = true ∧ 2 ∉
      (((channels snd0 (words 15) []).evaluate 0 0).fold 0).seq.issued ∧ (((channels snd0 (words 15) []).evaluate 0 0).pas
      0).chanFrom 0 ((((channels snd0 (words 15) []).evaluate 0 0).fold 0).sideNow.snd false).ep = some 0) ∧
    (slotRuns (channels rcv0 [] (words 1)) 0 0 ∧ (((channels rcv0 [] (words 1)).fold 0).sideNow.rcv false).v = true ∧ 5 ∉
      (((channels rcv0 [] (words 1)).evaluate 0 0).fold 0).seq.issued ∧ (((channels rcv0 [] (words 1)).evaluate 0 0).pas
      0).chanInto 0 ((((channels rcv0 [] (words 1)).evaluate 0 0).fold 0).sideNow.rcv false).ep = some 1) ∧
    ((channels snd0 (words 16) []).inSlot 0 = some 0 ∧ ((channels snd0 (words 16) []).evaluate 0 0).stallCause 0 0 = 2 ∧
      ((channels rcv0 [] []).evaluate 0 0).stallCause 0 0 = 1) ∧
    (∀ n ∈ [15, 16], (channels 0 [] (words n)).pathsMove 0 = true ∧ 1 < ((channels 0 [] (words n)).pas 0).chans.length ∧
      (((channels 0 [] (words n)).pas 0).chan 1).dstKind = .fold ∧ (((channels 0 [] (words n)).pas 0).chan 1).path = [(0, 5)]
      ∧ (((channels 0 [] (words n)).pas 0).chan 1).dstFifo.length = n) ∧
    (slotRuns (running (sided (7 * 2 ^ 124))) 0 0 ∧ ((running (sided (7 * 2 ^ 124))).fold 0).sideNow.ring = true ∧ ((running
      (sided (7 * 2 ^ 124))).fold 0).sideNow.stallCheck = true ∧ ((running (sided (7 * 2 ^ 124))).fold 0).sideNow.probe = true
      ∧ (((running (sided (7 * 2 ^ 124))).evaluate 0 0).fold 0).seq.issued = []) ∧
    ((channels 0 [] (words 15)).endsReady (chan 8 7 [] (words 15)) = true ∧
      ((channels 0 [] (words 15)).modDomain 0 (fun x => { x with state := .ret })).endsReady (chan 8 7 [] (words 15)) = false) ∧
    (linkFed.pathsMove 0 = true ∧ 0 < (linkFed.pas 0).chans.length ∧ ((linkFed.pas 0).chan 0).dstKind = .fold ∧
      ((linkFed.pas 0).chan 0).srcKind = .link ∧ (linkFed.takeLinkWord 0 0).map Prod.fst = some 9 ∧
      linkFed.endsReady ((linkFed.pas 0).chan 0) = true ∧ ((linkFed.pas 0).chan 0).dstFifo.length < 16) :=
  ⟨by unfold slotRuns; decide +kernel,
    by unfold slotRuns; decide +kernel,
    by decide +kernel,
    by decide +kernel,
    by unfold slotRuns; decide +kernel,
    by decide +kernel,
    by decide +kernel⟩

/-- Fold 0 issues a deep memory operation in DM_REGION 15, of one page or not valid. -/
def deep (dop : Nat) (valid : Bool) : State :=
  { running (sided (dop * 2 ^ 18 + 15 * 2 ^ 12)) with
    pastures := [(0, { pasture .running with
      comp := { (pasture .running).comp with dmRegions := [(15, { valid := valid, base := 0x20000000, pages := 1 })] } })] }
def request (kind : DmKind) (word : Option (BitVec 64)) (acc : Bool) : DmReq :=
  { kind := kind, ecycle := 0, addr := 0x20000000, dueSlot := 0, dueEcy := 1, group := 0, data := 0, mask := 0xFF, word := word, acc := acc }
def queued (l : List DmReq) : State := running { Fold.init with dm := { DmPort.init with queue := l } }

/-- The first write of fold 0 that the controller has not accepted. -/
def firstWrite (s : State) : Option Nat := (s.fold 0).dm.queue.findIdx? (fun e => e.kind != .rd && !e.acc)
/-- Request `i` of fold 0 is `r` and its turn has come. -/
abbrev deepReady (l : List DmReq) (i : Nat) (r : DmReq) : Prop :=
  (queued l).dev.mode ≠ .hold ∧ ((queued l).fold 0).pasture = some 0 ∧ 0 ∈ (queued l).pasFolds 0 ∧
  ((queued l).fold 0).dm.queue[i]? = some r ∧ (∀ e ∈ ((queued l).fold 0).dm.queue.take i, e.open_ = false) ∧
  (queued l).dmOrdered 0 r.ecycle = true
/-- No write of the pasture waits in a controller. -/
abbrev noneAccepted (l : List DmReq) : Prop :=
  ∀ g ∈ (queued l).pasFolds 0, ∀ e ∈ ((queued l).fold g).dm.queue, e.acc = false

theorem witness_deep_memory :
    (∀ k ∈ [(DmKind.rd, 1), (.wr, 2), (.wrm, 3)], ∀ valid, slotRuns (deep k.2 valid) 0 0 ∧ ((deep k.2 valid).fold
      0).sideNow.dmf.kind = some k.1 ∧ 4 ∉ (((deep k.2 valid).evaluate 0 0).fold 0).seq.issued ∧ (tget (((deep k.2
      valid).evaluate 0 0).pas 0).comp.dmRegions DmRegion.init (((deep k.2 valid).evaluate 0 0).fold
      0).sideNow.dmf.region).valid = valid ∧
      8 * ((busGroup (((deep k.2 valid).evaluate 0 0).fold 0).seq.bus (((deep k.2 valid).evaluate 0 0).fold
        0).sideNow.dmf.ag).toNat + 65536 * (busGroup (((deep k.2 valid).evaluate 0 0).fold 0).seq.bus ((((deep k.2
        valid).evaluate 0 0).fold 0).sideNow.dmf.ag + 1)).toNat) < 4096 * (tget (((deep k.2 valid).evaluate 0 0).pas
        0).comp.dmRegions DmRegion.init (((deep k.2 valid).evaluate 0 0).fold 0).sideNow.dmf.region).pages) ∧
    (deepReady [request .rd (some 0) false, request .rd none false] 1 (request .rd none false) ∧
      noneAccepted [request .rd (some 0) false, request .rd none false]) ∧
    (deepReady [request .rd (some 0) false, request .wr none false] 1 (request .wr none false) ∧
      firstWrite (queued [request .rd (some 0) false, request .wr none false]) = some 1 ∧
      noneAccepted [request .rd (some 0) false, request .wr none false]) ∧
    (∃ e ∈ ((queued [request .rd none false, request .wrm none false]).fold 0).dm.queue.take 1, e.open_ = true) ∧
    (firstWrite (queued [request .rd none false, request .wrm none false]) = some 1 ∧
      noneAccepted [request .rd none false, request .wrm none false]) :=
  ⟨by unfold slotRuns; decide +kernel,
    by decide +kernel,
    by decide +kernel,
    by decide +kernel,
    by decide +kernel⟩

/-! ### Witnesses: barriers, flows and faults of a pasture -/

/-- A pasture that evaluates, with a change, and both folds at a position. -/
def evaluating (q : FoldSeq) (x : Pasture) : State :=
  { dev with
    pastures := [(0, x)]
    folds := [(0, { Fold.init with pasture := some 0, seq := q }), (1, { Fold.init with pasture := some 0, seq := q })] }
def arrivedSeq : FoldSeq := { FoldSeq.init with arrived := true }
/-- A ready barrier. -/
def ready : State := evaluating arrivedSeq (pasture .running)
def releasedTo (s : State) : State := match exec (.barrierRelease 0) s with
  | .next t => t
  | _ => s

/-- A member whose parent's RELEASE, with its ring K complete and a trigger, has gone down. -/
def told : State := evaluating arrivedSeq { pasture .running with
  comp := { (pasture .running).comp with parent := some 0 }
  run := { PRun.init with relTok := some 0x6000 } }
theorem witness_barriers :
    ((evaluating { FoldSeq.init with ended := true } (pasture .running)).running 0 = true ∧ ((evaluating
      { FoldSeq.init with ended := true } (pasture .running)).fold 1).seq.ended = true ∧
      ((evaluating { FoldSeq.init with ended := true } (pasture .running)).fold 1).seq.arrived = false ∧ ((evaluating
        { FoldSeq.init with ended := true } (pasture .running)).fold 1).pasture = some 0) ∧
    (ready.running 0 = true ∧ (ready.fold 1).seq.arrived = true ∧ (ready.fold 1).hasProbeSlot = false) ∧
    (ready.isRoot 0 = true ∧ ready.barrierReady 0 = true ∧ ready.eventWait 0 = false ∧ (ready.pas 0).releasing = false) ∧
    ((ready.modRun 0 (fun r => { r with descent := some 5 })).isRoot 0 = true ∧
      (ready.modRun 0 (fun r => { r with descent := some 5 })).barrierReady 0 = true ∧
      ((ready.modRun 0 (fun r => { r with descent := some 5 })).pas 0).committed = true) ∧
    (told.isRoot 0 = false ∧ told.running 0 = true ∧ told.dev.mode ≠ .hold ∧ (told.pas 0).run.relTok = some 0x6000 ∧
      bitOf 0x6000 12 = false ∧ bitOf 0x6000 13 = true ∧ bitOf 0x6000 14 = true) ∧
    ((running Fold.init).barrierComplete 0 = false ∧ (running Fold.init).isRoot 0 = true ∧ ((running Fold.init).pas 0).run.relTok =
      none) :=
  ⟨by decide +kernel,
    by decide +kernel,
    by decide +kernel,
    by decide +kernel,
    by decide +kernel,
    by decide +kernel⟩

theorem witness_release :
    exec (.barrierRelease 0) ready = .next (releasedTo ready) ∧
    ((releasedTo ready).pstate 0 ≠ .faulted ∧ 1 ∈ ready.pasFolds 0) :=
  ⟨rfl,
    by decide +kernel⟩

/-- A pasture whose edge port 15 gives the cycle-start events of EXTCLK; at a barrier since `climb` steps. -/
def clocked (st : PState) (climb : Nat) : State := evaluating arrivedSeq { pasture st with
  stat := { PStat.init with state := st, runMode := .extclk }
  comp := { (pasture st).comp with edgePorts := [15] }
  run := { PRun.init with extPort := some 15, climb := climb } }
/-- A pasture whose watchdog has counted 2^20 steps. -/
def watched (s : State) : State := s.modWdog 0 (fun d => { d with counter := 2 ^ 20 })
def edgeFed : State := { channels rcv0 [] [] with
  pastures := [(0, { pasture .running with chans := [{ chan 7 7 [] [] with srcKind := .edge, srcId := 63 }] })] }
def waitsOf (s : State) : List (Nat × Wait) := (s.pasFolds 0).filterMap (fun f => (s.waitOf f 0).map (fun w => (f, w)))

theorem witness_cycle_starts :
    (∀ st ∈ [PState.running, .frozen], numsWhere 16 (fun q => ((clocked st 21).pas q).run.extPort == some 15 && ((clocked st
      21).pas q).comp.edgePorts.contains 15 && (clocked st 21).isRoot q) = [0]) ∧
    ((clocked .running 21).ready 0 = true ∧ ((clocked .running 21).pas 0).stat.runMode = .extclk ∧ ((clocked .running
      21).pas 0).ext.latched = false ∧ (clocked .running 20).ready 0 = false) ∧
    (((watched edgeFed).pstate 0).evaluates = true ∧ (watched edgeFed).dev.mode ≠ .hold ∧ ((watched edgeFed).pas
      0).wdog.enable = true ∧ 2 ^ (max 16 (min 36 ((watched edgeFed).pas 0).wdog.periodLog2)) ≤ ((watched edgeFed).pas
      0).wdog.counter ∧ ((waitsOf (watched edgeFed)).find? (fun e => (watched edgeFed).waitEdge 0 e.2)).isSome = true) ∧
    (((watched (channels rcv0 [] [])).pstate 0).evaluates = true ∧ (watched (channels rcv0 [] [])).dev.mode ≠ .hold ∧
      ((watched (channels rcv0 [] [])).pas 0).wdog.enable = true ∧ 2 ^ (max 16 (min 36 ((watched (channels rcv0 [] [])).pas
      0).wdog.periodLog2)) ≤ ((watched (channels rcv0 [] [])).pas 0).wdog.counter ∧ (∀ e ∈ waitsOf (watched (channels rcv0 []
      [])), (watched (channels rcv0 [] [])).waitEdge 0 e.2 = false) ∧ waitsOf (watched (channels rcv0 [] [])) ≠ []) ∧
    (((watched (running Fold.init)).pstate 0).evaluates = true ∧ (watched (running Fold.init)).dev.mode ≠ .hold ∧ ((watched
      (running Fold.init)).pas 0).wdog.enable = true ∧ 2 ^ (max 16 (min 36 ((watched (running Fold.init)).pas
      0).wdog.periodLog2)) ≤ ((watched (running Fold.init)).pas 0).wdog.counter ∧ waitsOf (watched (running Fold.init)) = [] ∧
      (watched (running Fold.init)).pasFolds 0 ≠ []) :=
  ⟨by decide +kernel,
    by decide +kernel,
    by decide +kernel,
    by decide +kernel,
    by decide +kernel⟩

/-- A pasture at the barrier of ecycle 1 with a PORT_OUT port whose queue 0 has no room for its message. -/
def port0 : FlowPort := { port := 0, region := 0, queue := 0, slots := 1, admitMax := 0, window := 0, appended := 0 }
def taking (ports : List FlowPort) : State :=
  { evaluating arrivedSeq { pasture .running with
      stat := { PStat.init with state := .running, ecycle := 1 }
      comp := { (pasture .running).comp with dmRegions := [(0, { valid := true, base := 0x20000000, pages := 1 })] }
      flow := { PFlow.init with ports := ports } } with
    hbm := [(0x20000000, 1)]
    flow := { FlowSide.init with queues := [(0, { Queue.init with role := rolePortOut, units := 1, tail := 1 })] } }

theorem witness_take :
    ((taking []).takeReady 0 = true ∧ ∃ v, (taking []).takePorts 0 ((taking []).portsOf 0 rolePortOut) = (v, true)) ∧
    ((taking [port0]).takeReady 0 = true ∧ ∃ v, (taking [port0]).takePorts 0 ((taking [port0]).portsOf 0 rolePortOut) = (v,
      false) ∧
      v.pstate 0 ≠ .faulted) := by
  have h0 : (taking []).portsOf 0 rolePortOut = [] := by unfold State.portsOf; exact List.mergeSort_nil
  have h1 : (taking [port0]).portsOf 0 rolePortOut = [port0] := by
    unfold State.portsOf
    rw [show ((taking [port0]).pas 0).flow.ports.filter (fun f => (taking [port0]).portRole f == rolePortOut) = [port0] from
      rfl]
    exact List.mergeSort_singleton _
  rw [h0, h1]
  exact ⟨⟨by decide +kernel, _, rfl⟩, by decide +kernel, _, Prod.ext rfl (by decide +kernel), by decide +kernel⟩

/-- A pasture with a READY task 5 that moves entries from queue 0 to queue 1, and engine 31 in a state. -/
def tasked (r : Option (Nat × Nat)) : State :=
  { withPas { pasture .running with flow := { PFlow.init with ready := [5] } } with
    flow := { FlowSide.init with
      owners := [(0, some 0)]
      queues := [(0, { Queue.init with depthLog2 := 2, tail := 2 }), (1, { Queue.init with depthLog2 := 2 })]
      tasks := [(5, { Task.init with owner := some 0, op := opMove, batch := 2, dst := 1, tstate := .ready })]
      engines := [(31, { Engine.init with run := r })] } }

def unloading : State := (tasked (some (5, 2))).modStat 0 (fun x => { x with state := .draining })

theorem witness_tasks :
    (((tasked none).engine 31).run = none ∧ (tasked none).dev.mode ≠ .hold ∧ (tasked none).nextServed 31 = some 0 ∧ ((tasked
      none).pas 0).flow.ready = [5]) ∧
    (((tasked (some (5, 2))).engine 31).run = some (5, 2) ∧ ((tasked (some (5, 2))).task 5).owner = some 0 ∧ (tasked (some
      (5, 2))).dev.mode ≠ .hold ∧ (tasked (some (5, 2))).host.d3hot = false ∧ (tasked (some (5, 2))).runCount ((tasked (some
      (5, 2))).task 5) = 2 ∧ (∀ i < min 2 ((tasked (some (5, 2))).runCount ((tasked (some (5, 2))).task 5)), (tasked (some (5,
      2))).entryBad ((tasked (some (5, 2))).task 5) i = false) ∧ (tasked (some (5, 2))).pstate 0 ≠ .draining) ∧
    (unloading.pstate 0 = .draining ∧ (unloading.engine 31).run = some (5, 2) ∧ (unloading.task 5).owner = some 0 ∧
      (unloading.task 5).moves = true ∧ 0 < min 2 (unloading.runCount (unloading.task 5)) ∧
      (unloading.modEngine 31 (fun x => x.finish 7)).entryBad (unloading.task 5) 0 = false) :=
  ⟨by decide +kernel,
    by decide +kernel,
    by decide +kernel⟩

/-- Fold 0 of a FROZEN pasture, with a one-bit error not yet rewritten. -/
def scrubbed : State := { pas .frozen with
  folds := [(0, { Fold.init with pasture := some 0, ecc := { FoldEcc.init with errs := [(1023, some 255, false)] } })] }

theorem witness_scrubber :
    (scrubbed.fetchFree 0 = true ∧ (scrubbed.fold 0).pasture = some 0 ∧ scrubbed.pstate 0 ≠ .loading ∧ (scrubbed.fold
      0).ecc.errs.find? (fun e => !e.2.2) = some (1023, some 255, false) ∧ (0, some 255, false) ∉ (scrubbed.fold 0).ecc.errs) ∧
    ([{ bp := some 255, double := false }, { bp := none, double := true }].any StoreErr.double = true ∧
      [{ bp := some 255, double := false : StoreErr }].any StoreErr.double = false) ∧
    (∀ s ∈ [running Fold.init, scrubbed.modDomain 0 (fun x => { x with state := .ret }),
      { scrubbed with ident := { Ident.init with part := .x448, disabled := [0] } }], s.fetchFree 0 = false) :=
  ⟨by decide +kernel,
    by decide +kernel,
    by decide +kernel⟩

/-- Recovery of a pasture to RUNNING. -/
def recovery : Recovery := { faultEcy := 0, released := 0, back := .running, backCause := 0, status := 0x0605, faults := 1 }
def copying (join : Nat) : State := withPas { pasture .running with
  stat := { PStat.init with state := .running, join := join }
  ck := { PRing.init with copying := true } }
def recovering : State := withPas { pasture .recovering with ck := { PRing.init with recovery := some recovery } }

/-- A pasture whose barrier root is at a level of the tree. -/
def rooted (level : Nat) : State := withPas { pasture .running with comp := { (pasture .running).comp with rootLevel := level } }
theorem witness_control_fault :
    (∀ s ∈ [rings .running, pas .running, inMode (rings .frozen) .hold, inMode (pas .loaded) .recover], s.pstate 0 ∈
      [PState.loaded, .running, .stepping, .frozen] ∧ (s.pas 0).ck.recovery = none) ∧
    ((rings .running).ringsOn 0 = true ∧ (pas .running).ringsOn 0 = false ∧ (running Fold.init).ringsOn 0 = false ∧
      ((running Fold.init).fold 1).pasture = some 0) ∧
    (∀ n ∈ [TreeNode.pair 0, .row 0 0, .die 0], (rooted (nodeLevel n)).treeUsers n = [0]) ∧
    ((rooted 3).treeUsers (.row 0 1) = [] ∧ (rooted 3).treeUsers .package = [0]) ∧
    ((3, none, false) ∉ (scrubbed.fold 0).ecc.errs ∧ (scrubbed.fold 0).pasture = some 0 ∧
      (∀ st ∈ [PState.loaded, .running, .stepping, .frozen, .recovering],
        (scrubbed.modStat 0 (fun x => { x with state := st })).pstate 0 = st)) :=
  ⟨by decide +kernel,
    by decide +kernel,
    by decide +kernel,
    by decide +kernel,
    by decide +kernel⟩

theorem witness_rings :
    (∀ n ∈ [0, 2], ((copying n).pas 0).ck.copying = true ∧ (copying n).ringReadsDone 0 = true ∧ (copying n).spanning 0 = (n
      == 2) ∧ ((copying n).pas 0).ck.hostReq = false ∧ (copying n).dev.mode ≠ .hold) ∧
    ((inMode (copying 0) .hold).dev.mode = .hold ∧ (recovering.pas 0).ck.copying = false ∧ ({ queued [request .rd none false] with
      pastures := [(0, { pasture .running with ck := { PRing.init with copying := true, kEcycle := 1 } })] }).ringReadsDone 0 =
        false) ∧
    ((recovering.pas 0).ck.recovery = some recovery ∧ recovering.pstate 0 = .recovering ∧ recovering.recoveryReached 0 =
      true) :=
  ⟨by decide +kernel,
    by decide +kernel,
    by decide +kernel⟩

/-! ### Witnesses: edge ports, acquisition and time -/

/-- A pasture with edge port 15, whose region's clock is freed, a channel in and a channel out; the region's line 15 comes
  from a pin. -/
def edged (epWait : Bool) (st : RegionState) (src dst : List (BitVec 16)) : State :=
  (withPas { pasture .running with
      comp := { (pasture .running).comp with edgePorts := [15] }
      chans := [{ chan 63 8 src [] with srcKind := .edge }, { chan 8 63 [] dst with dstKind := .edge }] }).modRegion 15
    (fun r =>
      { r with state := st, owner := some 0, epFreed := !epWait, epWait := epWait, head := [0, 0, 0, 0, 0, 0, 1, 0, 15] ++ z 503 })

theorem witness_edge_ports :
    ((edged false .released (words 15) []).inReady 15 3 = some (0, 0) ∧ (edged false .released (words 16) []).inReady 15 3 =
      none) ∧
    ((edged false .released [] [7]).outValid 15 3 = some (0, 1, 7) ∧ (edged false .released [] []).outValid 15 3 = none) ∧
    (15 / 2 = 15 % 8 ∧ ((edged true .held [] []).region 15).mayStart 15 = true) ∧
    (((edged true .released [] []).region 15).state = .released ∧ ((edged true .released [] []).region 15).epWait = true ∧
      edgeFclk ((edged true .released [] []).region 15).head < 16 ∧ ((edged true .released [] []).region (8 * (15 / 8) +
      edgeFclk ((edged true .released [] []).region 15).head / 2)).owner = ((edged true .released [] []).region 15).owner ∧
      ((edged true .released [] []).region (8 * (15 / 8) + edgeFclk ((edged true .released [] []).region 15).head /
        2)).mayStart (edgeFclk ((edged true .released [] []).region 15).head) = true) :=
  ⟨by decide +kernel,
    by decide +kernel,
    by decide +kernel,
    by decide +kernel⟩

/-- An engine with one capture to evaluate, and a snapshot being copied into a buffer of a size. -/
def capture (wrap : Bool) : Capture :=
  { ecycle := 0, ts := 5, words := [], asserts := 0, after := false, timing := [], wrap := wrap }
def captured (wrap disarm : Bool) : State := (pas .running).modAcq 0 (fun a => { a with
  hasPlan := true, state := .armed, disarm := disarm, waiting := [capture wrap], plan := z 2208 })
def snapping (size : Nat) : State := ((pas .running).modAcq 0 (fun a => { a with
  hasPlan := true, state := .armed, plan := z 32 ++ leBytes 8 size ++ z 2168 })).modSnap 0 (fun n => { n with active := true })

/-- The engine of a plan with SPAN_TRIG, one capture to evaluate. -/
def spanned : State := (captured false false).modAcq 0 (fun a => { a with plan := z 20 ++ [4] ++ z 2187 })
theorem witness_captures :
    (((captured true false).acqOf 0).waiting = [capture true] ∧ (capture true).wrap = true ∧ ((captured true false).acqOf
      0).held = []) ∧
    (((captured false true).acqOf 0).waiting = [capture false] ∧ (capture false).wrap = false ∧ ((captured false true).acqOf
      0).disarm = true) ∧
    (((captured false false).acqOf 0).disarm = false ∧ ((captured false false).acqOf 0).spanTrig = false ∧ ((captured false
      false).acqOf 0).force = false) ∧
    ((spanned.acqOf 0).waiting = [capture false] ∧ (spanned.acqOf 0).disarm = false ∧ (spanned.acqOf 0).spanTrig = true ∧
      ((spanned.acqOf 0).force && (spanned.acqOf 0).state == .armed) = false) ∧
    ((snapping 0x88000).acqReads 0 = true ∧ (snapping 0x87FFF).acqReads 0 = true) ∧
    (((snapping 0x88000).snap 0).active = true ∧ ((snapping 0x88000).snap 0).memDone = false ∧ (snapping
      0x88000).snapStoreLen 0 + (snapping 0x88000).snapMemLen 0 ≤ ((snapping 0x88000).acqOf 0).snapSize) ∧
    (((snapping 0x87FFF).snap 0).active = true ∧ ((snapping 0x87FFF).snap 0).memDone = false ∧ ((snapping 0x87FFF).acqOf
      0).snapSize < (snapping 0x87FFF).snapStoreLen 0 + (snapping 0x87FFF).snapMemLen 0) :=
  ⟨by decide +kernel,
    by decide +kernel,
    by decide +kernel,
    by decide +kernel,
    by decide +kernel,
    by decide +kernel,
    by decide +kernel⟩

/-- A management port that follows a master, with its three times. -/
def master : Announce :=
  { gm := 1, priority1 := 0, clockClass := 0, accuracy := 0, variance := 0, priority2 := 0, stepsRemoved := 0, interval := 1000000000 }
def timed : State := (dev.modEth 0 (fun e =>
  { e with best := some master, t1 := some 100, t2 := 130, t3 := some 200 })).modTime (fun t => { t with
  servo := .locked, running := true, ns := 2 ^ 32 - 1, frac := 2 ^ 32 - 1 })

/-- The port after 100 answers within a second, and one that has heard its master once. -/
def busy : State := timed.modEth 0 (fun e => { e with recent := List.replicate 100 secondTicks })
def heardOnce : State := dev.modEth 1 (fun e => { e with heard := [(1, 1)] })

theorem witness_announce :
    heardOnce.ethUp = true ∧ (heardOnce.ethPort 1).qualifies master = true ∧ (heardOnce.ethPort 1).best = none ∧
    (heardOnce.ethPort 1).qualifies { master with stepsRemoved := 255 } = false ∧ (dev.ethPort 0).qualifies master = false ∧
    (timed.ethPort 0).best = some master ∧ betterMaster { master with gm := 2, priority1 := 1 } master = false := by
  decide +kernel

theorem witness_management :
    (timed.ethUp = true ∧ (timed.ethPort 0).best.isSome = true ∧ (timed.ethPort 1).best = none ∧ betterMaster
      { master with priority1 := 0 } { master with priority1 := 1 } = true) ∧
    ((timed.ethPort 0).t1 = some 100 ∧ (timed.ethPort 0).t2 = 130 ∧ (timed.ethPort 0).t3 = some 200 ∧ timed.time.port = (0
      == 1) ∧ ((Machine.sdiff 130 100 - (timed.ethPort 0).corr) - (Machine.sdiff (220 % 2 ^ 32) 200 - 0)) % 2 = 0) ∧
    (timed.time.servo ∈ [ServoState.acquiring, .locked] ∧ timed.dev.restarting = false ∧ timed.time.running = true ∧ 2 ^ 64
      ≤ timed.time.value + timed.time.incr) ∧
    (16 ≤ (leBytes 2 1 ++ z 6 ++ leBytes 4 0x100 ++ leBytes 2 512 ++ z 2).length ∧ fieldAt (leBytes 2 1 ++ z 6 ++ leBytes 4
      0x100 ++ leBytes 2 512 ++ z 2) 0 2 = 1 ∧ fieldAt (leBytes 2 1 ++ z 6 ++ leBytes 4 0x100 ++ leBytes 2 512 ++ z 2) 2 2 = 0
      ∧ ((timed.modEth 0 (fun e => { e with link := true })).ethPort 0).recent.length < 100 ∧ 100 ≤ ((busy.modEth 0 (fun e =>
      { e with link := true })).ethPort 0).recent.length ∧ (z 15).length <
      16 ∧ fieldAt (z 16) 0 2 ≠ 1) :=
  ⟨by decide +kernel,
    by decide +kernel,
    by decide +kernel,
    by decide +kernel⟩

/-! ### Witnesses: links -/

/-- The device with lanes 0 and 1, those of port 0, in a state. -/
def laned (st : LaneState) : State :=
  { dev with lanes := [(0, { Lane.init with state := st }), (1, { Lane.init with state := st })] }
def ported0 (s : State) (f : LinkPort → LinkPort) : State := s.modPort 0 f

theorem witness_lanes :
    (((laned .detect).lane 1).state = .detect ∧ ((laned .detect).domain (domQuad (1 / 4))).state ≠ .off) ∧
    (((laned .train).lane 1).state = .train ∧ ((laned .train).lane 1).passed = false ∧ 20 * 256 ≤ 100 * 52 ∧ 100 * 51 < 20 *
      256 ∧ ((laned .train).lane (2 * 0)).state = .train ∧ (laned .train).portState 0 ∈ [LaneState.train, .lock]) ∧
    ((laned .lock).lane 1).state = .lock ∧
    (((laned .active).lane 1).state = .active ∧ 10 * 256 ≤ 100 * 26 ∧ 100 * 25 < 10 * 256 ∧ ((laned .active).lane
      1).marginLow = false) ∧
    (((laned .cap).modPort 0 (fun r => { r with capRecs := (List.range 9).map (fun i => (i, 0)) })).portState 0 = .cap ∧
      (((laned .cap).modPort 0 (fun r => { r with capRecs := (List.range 9).map (fun i => (i, 0)) })).port 0).capDone = true)
      ∧
    (((dev.modPort 0 (fun r => { r with lost := [0] })).port 0).lost = [0] ∧ (dev.modPort 0 (fun r =>
      { r with lost := [0] })).linkActive 0 = false ∧ (dev.modPort 0 (fun r => { r with lost := [0] })).dev.mode ≠ .hold) :=
  ⟨by decide +kernel,
    by decide +kernel,
    by decide +kernel,
    by decide +kernel,
    by decide +kernel,
    by decide +kernel⟩

def sent (q : Nat) : SentBlock := { cseq := q, ctype := 0x20, body := 0, data := [] }
/-- An ACTIVE link of port 0 with two blocks to be acknowledged. -/
def linked (group : List (Nat × Nat)) : State := (laned .active).modPort 0 (fun r => { r with
  sent := [sent 254, sent 255], txd := 2, group := group })
/-- A CREDIT of CSEQ 0 with its CRC. -/
def credit : BitVec 64 := BitVec.ofNat 64 (0x20 * 2 ^ 56 + crc16 (beBytes 6 (0x20 * 2 ^ 40)))

theorem witness_link_stream :
    (blockDue (linked []) 0 ∧ ((linked []).port 0).discard = false ∧ ((linked []).port 0).sent.findIdx? (fun x => x.cseq ==
      255) = some 1 ∧ ((linked []).port 0).sent.findIdx? (fun x => x.cseq == 0) = none ∧ (linked []).receives 0 = true) ∧
    ((linked [(63, 4)]).receives 0 = true ∧ ((linked [(63, 4)]).port 0).discard = false ∧ ((linked [(63, 4)]).port 0).group
      = [(63, 4)]) ∧
    (controlCrc credit.toNat = true ∧ controlCrc (credit + 1).toNat = false ∧ credit.toNat / 2 ^ 56 = 0x20 ∧ credit.toNat /
      2 ^ 48 % 256 = ((linked []).port 0).rxSeq) :=
  ⟨by unfold blockDue; decide +kernel,
    by decide +kernel,
    by decide +kernel⟩

/-- Port 0 in LOCK, in TEST and in a near-end loopback, one in a far-end loopback, and one where the first NAK is the eighth of its
block. -/
theorem witness_link_lanes :
    (∀ st ∈ [LaneState.lock, .test, .loop], (laned st).receives 0 = false ∧ (laned st).echoes 0 = false ∧
      ((laned st).lane ((laned st).rxLane 0)).state = st) ∧
    (((linked []).port 0).sent.take ((linked []).port 0).txd).findIdx? (fun x => x.cseq == 254) = some 0 ∧
    (((linked []).port 0).sent.take ((linked []).port 0).txd).findIdx? (fun x => x.cseq == 0) = none ∧
    tget ((linked []).port 0).naks 0 254 < 7 ∧ 7 ≤ tget (((linked []).modPort 0 (fun r =>
      { r with naks := [(254, 7)] })).port 0).naks 0 254 ∧ ((linked []).modPort 0 (fun r => { r with discard := true })).receives 0 =
      true ∧ ((linked []).modPort 0 (fun r => { r with discard := true })).port 0 = { (linked []).port 0 with discard := true } := by
  decide +kernel

/-- A member of a span: link 0 carries its parent, or a child. -/
def member (st : PState) (parent : Option Nat) (children : List Nat) (arriveSent : Bool) : State :=
  { linked [] with pastures := [(0, { pasture st with
      stat := { PStat.init with state := st, spanDevices := 2 }
      comp := { (pasture st).comp with parent := parent, children := children, linkPorts := [0] }
      span := { PSpan.init with arriveSent := arriveSent } })] }

theorem witness_sequenced :
    blockDue (member .running none [0] false) 0 ∧
    (((member .running none [0] false).pstate (0xFFFF0 % 16)).inSpan = true ∧ ((member .running none [0] false).childOn
      (0xFFFF0 % 16) 0).isSome = true ∧ ((member .running none [0] false).port 0).discard = false ∧ ((member .running none [0]
      false).modPort 0 (fun r => { r with discard := true })).receives 0 = true) :=
  ⟨by unfold blockDue; decide +kernel,
    by decide +kernel⟩

theorem witness_span_tokens :
    ((member .running none [0] false).childOn 0 0 = some 0 ∧ 0x10 / 16 % 256 = (member .running none [0] false).nextBarrier
      0 % 256 ∧ ((member .running none [0] false).pas 0).span.arrived = [] ∧ 0x10 / 2 ^ 12 % 16 = 0 ∧ 0x20 / 16 % 256 ≠
      (member .running none [0] false).nextBarrier 0 % 256 ∧ ((member .running none [0] false).pstate 0).inSpan = true ∧
      ((member .running none [0] false).pas 0).span.choosing = false) ∧
    (((member .running (some 0) [] true).pas 0).run.relTok = none ∧ ((member .running (some 0) [] true).pas 0).span.choosing =
      false ∧ ((member .running (some 0) [] false).pas 0).span.arriveSent = false) ∧
    ((member .running (some 0) [] true).parentOn 0 0 = true ∧ ((member .running (some 0) [] true).pas 0).span.arriveSent =
      true ∧ 0 / 16 % 256 = ((member .running (some 0) [] true).pas 0).stat.ecycle % 256 ∧ (member .running (some 0) []
      true).ringsOn 0 = false ∧ ((member .running (some 0) [] true).pas 0).comp.children = [] ∧ 0x10 / 16 % 256 ≠ ((member
      .running (some 0) [] true).pas 0).stat.ecycle % 256) :=
  ⟨by decide +kernel,
    by decide +kernel,
    by decide +kernel⟩

/-! ### Witnesses: the service mesh -/

/-- A request of DIAG with virtual channel 1, for router 0. -/
def request0 (opc port addr size len : Nat) (data : List Byte) : NocPacket :=
  { word0 := nocWord0 0 0 port 0 0 2 0x35 opc 1 9 len 0 true (addr + size * 2 ^ 48), word1 := addr + size * 2 ^ 48, data := data }

/-- A FROZEN pasture whose scratchpads and a page of HBM DIAG may reach. -/
def served0 : State :=
  { withPas { pasture .frozen with comp := { (pasture .frozen).comp with allocs := [{ kind := 1, base := 0x20000000, size := 0x1000 }] } } with
    folds := [(0, { Fold.init with pasture := some 0 }), (1, { Fold.init with pasture := some 0 })]
    mregions := [(0, { valid := true, rd := true, wr := true, setclr := true, pasture := 0, base := 0x20000000, pages := 1 }),
      (1, { valid := true, rd := true, wr := true, setclr := true, pasture := 0, base := 0x10000000000, pages := 128 })] }
def pad0 : Nat := 0x10000000000

theorem pad_alone : ∀ (s : State) (a n : Nat), padPlace a = none →
    ∀ x, padPlace a = some x → a % 32 + n ≤ 32 ∧ s.padFree x.pair x.pad = true := by
  intro s a n h x hx; rw [h] at hx; cases hx
theorem pad_first (s : State) (n : Nat) (hn : n ≤ 32) (h : s.padFree 0 0 = true) :
    ∀ x, padPlace pad0 = some x → pad0 % 32 + n ≤ 32 ∧ s.padFree x.pair x.pad = true := by
  intro x hx
  rw [show padPlace pad0 = some { pair := 0, pad := 0, word := 0, win := 0 } from by decide] at hx
  cases hx
  exact ⟨by rw [show pad0 % 32 = 0 by decide, Nat.zero_add]; exact hn, h⟩

/-- The packets of the witnesses. -/
def rd0 : NocPacket := request0 opcRd 1 0x200000E0 15 0 []
def wr0 : NocPacket := request0 opcWr 1 0x20000000 0 1 [1, 2]
def wrPad : NocPacket := request0 opcWr 0 pad0 0 1 [1, 2]
def setPad : NocPacket := request0 opcSetw 0 pad0 15 4 [1, 2]
def clrPad : NocPacket := request0 opcClrw 0 pad0 15 4 [1, 2]
def bulkWr0 : NocPacket := request0 opcBulkWr 1 0x20000000 0 64 [1, 2]
def bulkRd0 : NocPacket := request0 opcBulkRd 1 0x20000000 0 0 []
def regRd0 : NocPacket := request0 opcRegRd 0 0 0 0 []
def regWr0 : NocPacket := request0 opcRegWr 0 0 3 1 [1, 2]
def ctl0 : NocPacket := request0 opcCtl 0 0 3 1 [1, 2]

theorem reach_rd : nocReaches served0 rd0 opcRd := by unfold nocReaches nocArrives nocClear nocMoves; decide +kernel
theorem reach_wr : nocReaches served0 wr0 opcWr := by unfold nocReaches nocArrives nocClear nocMoves; decide +kernel
theorem reach_wr_pad : nocReaches served0 wrPad opcWr := by unfold nocReaches nocArrives nocClear nocMoves; decide +kernel
theorem reach_set : nocReaches served0 setPad opcSetw := by unfold nocReaches nocArrives nocClear nocMoves; decide +kernel
theorem reach_clr : nocReaches served0 clrPad opcClrw := by unfold nocReaches nocArrives nocClear nocMoves; decide +kernel
theorem reach_bulk_wr : nocReaches served0 bulkWr0 opcBulkWr := by unfold nocReaches nocArrives nocClear nocMoves; decide +kernel
theorem reach_bulk_rd : nocReaches served0 bulkRd0 opcBulkRd := by unfold nocReaches nocArrives nocClear nocMoves; decide +kernel
theorem reach_ctl : nocReaches served0 ctl0 opcCtl := by unfold nocReaches nocArrives nocClear nocMoves; decide +kernel

/-- Whatever register has the address, its domain is open. -/
theorem reg_open (p : NocPacket) (h : nocDstPort p.word0 = 0) (hq : (nocPassed served0 p).pairEnabled (routerPair (nocDst p.word0)) =
    true) (ho : (nocOpc p.word0 == opcRegRd || nocOpc p.word0 == opcRegWr) = true)
    (hd : ∀ d, (nocPassed served0 p).domPort d = 0) : (nocPassed served0 p).nocPort p = 0 := by
  unfold State.nocPort
  simp only [h, hq, ho]
  cases regDomain _ _ <;> simp [hd]
theorem reach_reg : nocReaches served0 regRd0 opcRegRd ∧ nocReaches served0 regWr0 opcRegWr :=
  ⟨⟨by unfold nocArrives nocClear nocMoves; decide +kernel, reg_open _ (by decide +kernel) (by decide +kernel) (by decide +kernel) (fun _ => rfl)⟩,
    ⟨by unfold nocArrives nocClear nocMoves; decide +kernel, reg_open _ (by decide +kernel) (by decide +kernel) (by decide +kernel) (fun _ => rfl)⟩⟩

theorem witness_service :
    serviceGood (nocPassed served0 rd0) rd0 32 false false ∧ serviceGood (nocPassed served0 wr0) wr0 2 true false ∧
    serviceGood (nocPassed served0 wrPad) wrPad 2 true false ∧ serviceGood (nocPassed served0 setPad) setPad 32 true true ∧
    serviceGood (nocPassed served0 clrPad) clrPad 32 true true ∧ serviceGood (nocPassed served0 bulkWr0) bulkWr0 4096 true false ∧
    (padPlace 0x20000000 = none ∧ (padPlace pad0).map PadPlace.win = some 0 ∧ nocSize rd0 = 32 ∧ nocSize wr0 = 2 ∧
      nocSize wrPad = 2 ∧ nocSize setPad = 32 ∧ 64 * nocLen bulkWr0.word0 = 4096) :=
  ⟨⟨by decide +kernel, by decide +kernel, by decide +kernel, pad_alone _ _ _ (by decide +kernel)⟩,
    ⟨by decide +kernel, by decide +kernel, by decide +kernel, pad_alone _ _ _ (by decide +kernel)⟩,
    ⟨by decide +kernel, by decide +kernel, by decide +kernel, pad_first _ _ (by decide) (by decide +kernel)⟩,
    ⟨by decide +kernel, by decide +kernel, by decide +kernel, pad_first _ _ (by decide) (by decide +kernel)⟩,
    ⟨by decide +kernel, by decide +kernel, by decide +kernel, pad_first _ _ (by decide) (by decide +kernel)⟩,
    ⟨by decide +kernel, by decide +kernel, by decide +kernel, pad_alone _ _ _ (by decide +kernel)⟩,
    by decide +kernel⟩

/-- A BULK_RD of any length within the page is good. -/
theorem witness_bulk_read : ∀ k < 64, serviceGood ((nocPassed served0 bulkRd0).draw 6).2 bulkRd0 (64 * (k + 1)) false false := by
  refine fun k hk => ⟨?_, by decide +kernel, by decide +kernel, pad_alone _ _ _ (by decide +kernel)⟩
  have h : ∀ k < 64, ((nocPassed served0 bulkRd0).draw 6).2.accessError 0x35 0x20000000 (64 * (k + 1)) false false = 0 := by
    decide +kernel
  exact h k hk

/-- Writes of masters other than DIAG: the acquisition engine's into its landing buffer, and the ring engine's to a scratchpad in a recovery. -/
def other (st : PState) : State := { served0 with pastures := [(0, { pasture st with
  comp := { (pasture st).comp with allocs := [{ kind := 7, base := 0x20000000, size := 0x1000 }] } })] }
def acqWr : NocPacket :=
  { word0 := nocWord0 0 0 1 0 0 2 0x20 opcWr 0 9 1 0 true 0x20000000, word1 := 0x20000000, data := [1, 2] }
def ringWr (opc : Nat) : NocPacket :=
  { word0 := nocWord0 0 0 0 0 0 2 0x30 opc 0 9 1 0 true pad0, word1 := pad0, data := [1, 2] }
theorem witness_access_frame :
    nocInit acqWr.word0 ≠ 0x35 ∧ padPlace (nocAddr acqWr) = none ∧ rangesMeet (nocAddr acqWr) (nocSize acqWr) jobQueues 0x100000 = false ∧
    rangesMeet (nocAddr acqWr) (nocSize acqWr) jobTasks 0x400000 = false ∧ nocReaches (other .running) acqWr opcWr ∧
    serviceGood (nocPassed (other .running) acqWr) acqWr (nocSize acqWr) true false :=
  ⟨by decide +kernel, by decide +kernel, by decide +kernel, by decide +kernel,
    by unfold nocReaches nocArrives nocClear nocMoves; decide +kernel,
    by decide +kernel, by decide +kernel, by decide +kernel, pad_alone _ _ _ (by decide +kernel)⟩
theorem witness_access_frame_pad : ∀ o ∈ [opcWr, opcSetw, opcClrw], nocInit (ringWr o).word0 ≠ 0x35 ∧
    nocReaches (other .recovering) (ringWr o) o ∧
    serviceGood (nocPassed (other .recovering) (ringWr o)) (ringWr o) (nocSize (ringWr o)) true (nocJoins o (nocAddr (ringWr o))) := by
  intro o ho
  have h : ∀ o ∈ [opcWr, opcSetw, opcClrw], (nocInit (ringWr o).word0 ≠ 0x35 ∧
      (nocPassed (other .recovering) (ringWr o)).accessError 0x30 pad0 2 true (nocJoins o pad0) = 0 ∧ nocInit (ringWr o).word0 = 0x30 ∧
      nocAddr (ringWr o) = pad0 ∧ nocSize (ringWr o) = 2 ∧ nocHome (ringWr o).word0 pad0 = true ∧
      (nocPassed (other .recovering) (ringWr o)).padFree 0 0 = true) := by decide +kernel
  have hr : ∀ o ∈ [opcWr, opcSetw, opcClrw], nocReaches (other .recovering) (ringWr o) o := by
    unfold nocReaches nocArrives nocClear nocMoves; decide +kernel
  obtain ⟨h0, h1, h2, h3, h4, h5, h6⟩ := h o ho
  refine ⟨h0, hr o ho, ?_⟩
  unfold serviceGood
  rw [h2, h3, h4]
  exact ⟨h1, h5, by decide, pad_first _ _ (by decide) h6⟩

/-- The service network with HBM stack 0 in a state. -/
def stack0 (d : Domain) : State := dev.modDomain (domHbm 0) (fun _ => d)

/-- A device whose pair 0 is disabled, and one whose scratchpads DIAG may not reach in a state. -/
def lessPair : State := { dev with ident := { Ident.init with part := .x448, disabled := [0] } }
def unserved (st : PState) : State := served0.modStat 0 (fun x => { x with state := st })

theorem witness_refused_parity :
    parityOk { rd0 with word1 := 1 } = false ∧ nocOpc rd0.word0 = opcRd := by
  decide +kernel

theorem witness_refused_moves :
    nocMoves dev { rd0 with word1 := 1 } := by
  unfold nocMoves; decide +kernel

theorem witness_refused_no_port :
    nocClear dev (request0 opcRd 2 0x20000000 0 0 []) ∧
    hasPort (nocDst (nocWord0 1 0 2 0 0 2 0x35 opcRd 1 9 0 0 true 0x20000000)) 2 = false ∧
    nocClear dev { word0 := nocWord0 1 0 2 0 0 2 0x35 opcRd 1 9 0 0 true 0x20000000, word1 := 0x20000000, data := [] } := by
  unfold nocClear nocMoves; decide +kernel

theorem witness_refused_closing :
    nocArrives (stack0 { Domain.init with state := .off }) rd0 opcRd ∧
    (nocPassed (stack0 { Domain.init with state := .off }) rd0).nocPort rd0 = 2 ∧
    nocArrives (stack0 { Domain.init with entry := .draining .off false }) rd0 opcRd ∧
    (nocPassed (stack0 { Domain.init with entry := .draining .off false }) rd0).nocPort rd0 = 1 := by
  unfold nocArrives nocClear nocMoves; decide +kernel

theorem witness_refused_disabled :
    nocArrives lessPair wrPad opcWr ∧ (nocPassed lessPair wrPad).nocPort wrPad = 3 := by
  unfold nocArrives nocClear nocMoves; decide +kernel

theorem witness_refused_region :
    nocReaches dev rd0 opcRd ∧ (nocPassed dev rd0).accessError (nocInit rd0.word0) (nocAddr rd0) (nocSize rd0) false false = errRegion := by
  unfold nocReaches nocArrives nocClear nocMoves; decide +kernel

theorem witness_refused_state :
    nocReaches (unserved .loaded) wrPad opcWr ∧
    (nocPassed (unserved .loading) wrPad).accessError (nocInit wrPad.word0) (nocAddr wrPad) (nocSize wrPad) true false = errState := by
  unfold nocReaches nocArrives nocClear nocMoves; decide +kernel

theorem witness_refused_home :
    nocReaches served0 (request0 opcRd 1 0x20000100 0 0 []) opcRd ∧ nocHome (request0 opcRd 1 0x20000100 0 0 []).word0 0x20000100 = false ∧
    (nocPassed served0 (request0 opcRd 1 0x20000100 0 0 [])).accessError 0x35 0x20000100 2 false false = 0 := by
  unfold nocReaches nocArrives nocClear nocMoves; decide +kernel

/-- A transaction that awaits its response, and such a transaction beside an INV on its way. -/
def txn (vc tries : Nat) (pv : Bool) (init word0 : Nat) : Txn :=
  { init := init, txn := 9, opc := opcRd, vc := vc, pasture := 15, pv := pv, word0 := word0, word1 := 0, data := [], tries := tries, answered := false }
def awaited (vc tries : Nat) (pv : Bool) (init : Nat) : State := dev.modNoc (fun n =>
  { n with txns := [txn vc tries pv init 0], invWait := [{ ctl := 0x35, tag := 9, line := 5, word0 := 0 }] })
def answer (opc word1 : Nat) : NocPacket :=
  { word0 := nocWord0 0 0 (if opc = opcSnpAck then 1 else 2) 0 0 (if opc = opcSnpAck then 2 else 1) 0x35 opc 1 9 0 0 true word1
    word1 := word1, data := [] }
/-- The same for fold 0, whose port is isolated. -/
def answerFold (opc : Nat) : NocPacket :=
  { word0 := nocWord0 0 0 0 0 0 1 0x35 opc 1 9 0 0 true 0, word1 := 0, data := [] }
def isolated : State := (awaited 1 0 false 0x35).modDomain 0 (fun x => { x with state := .off })

theorem witness_responses :
    (∀ o ∈ [opcAck, opcRdData, opcErr, opcBulkData, opcInv, opcSnpAck], nocArrives (awaited 1 0 false 0x35) (answer o 0) o ∧
      (nocPassed (awaited 1 0 false 0x35) (answer o 0)).nocPort (answer o 0) < 2) ∧
    (∀ o ∈ [opcAck, opcRdData, opcErr, opcBulkData, opcInv], nocArrives isolated (answerFold o) o ∧
      (nocPassed isolated (answerFold o)).nocPort (answerFold o) = 2) ∧
    ((awaited 1 0 false 0x35).noc.txns.any (fun t => t.init == nocInit (answer opcAck 0).word0 && t.txn == nocTxn (answer opcAck
      0).word0) = true ∧ dev.noc.txns = [] ∧ nocInit (answer opcSnpAck 0).word0 = 0x35 ∧ nocTxn (answer opcSnpAck 0).word0 = 9) := by
  unfold nocArrives nocClear nocMoves
  decide +kernel

theorem witness_timeouts :
    (((awaited 0 0 false 0x30).noc.txns.find? (fun t => t.init == 0x30 && t.txn == 9)).map (fun t => (nocClass t.init).getD t.vc) =
      some 0 ∧ ((awaited 1 2 true 0x35).noc.txns.find? (fun t => t.init == 0x35 && t.txn == 9)).map (fun t =>
        ((nocClass t.init).getD t.vc, t.tries, t.pv, t.opc)) = some (2, 2, true, opcRd)) ∧
    (dev.dev.mode ≠ .hold ∧ dev.dev.mode ≠ .recover ∧ dev.up = true ∧ dev.noc.holds = [] ∧ (255 : Nat) < Config.numRouters) := by
  decide +kernel

/-! ### Witnesses: power, resets and starts -/

def domained (d : Nat) (x : Domain) : State := dev.modDomain d (fun _ => x)
def draining : Domain := { Domain.init with entry := .draining .off false }

theorem witness_domains :
    (dev.up = true ∧ dev.pwr.ladder = 7 ∧ dev.dev.mode ≠ .minimal ∧ dev.pairEnabled 0 = true ∧ (running Fold.init).domIdle 0
      = false) ∧
    (∀ d ∈ [0, 518, 522, 586, 602], dev.domIdle d = true ∧ dev.domEventNow d = false ∧ dev.chosen d 20000 ≠ .on ∧ (d = 522 →
      ∀ l ∈ quadLanes (d - 522), (dev.lane l).state ≠ .detect)) ∧
    (((domained 0 draining).domain 0).entry = .draining .off false ∧ (domained 0 draining).inFlight 0 = false) ∧
    ((((domained 516 draining).modNoc (fun n =>
      { n with txns := [txn 1 0 false 0x35 256] })).domain
      516).entry = .draining .off false ∧ ((domained 516 draining).modNoc (fun n =>
      { n with txns := [txn 1 0 false 0x35 256] })).inFlight
      516 = true) ∧
    (((domained 0 { Domain.init with state := .ret, waking := true, dipped := true }).domain 0).waking = true ∧ ((domained 0
      { Domain.init with state := .ret, waking := true, dipped := true }).domain 0).state = .ret ∧ (domained 0
      { Domain.init with state := .off, waking := true } |>.domain 0).state ≠ .ret ∧ domKind 0 = .fold ∧ domKind 516 ≠ .fold) ∧
    (∀ e ∈ [LadderEvent.w0Access, .doorbell, .wakePin, .thermal], e ≠ .deviceEvent ∧ ladderLeaves (if e = .thermal then 2
      else 1) e = true) :=
  ⟨by decide +kernel,
    by decide +kernel,
    by decide +kernel,
    by decide +kernel,
    by decide +kernel,
    by decide +kernel⟩

theorem witness_clocks :
    (((dev.modDie 3 (fun c => { c with target := some 550, tries := 1 })).dieClk 3).target = some 550 ∧ (3 : Nat) < 4 ∧
      dev.up = true ∧ dev.dev.mode ≠ .hold ∧ dev.pwr.cap = 0 ∧ (dev.dieClk 3).hot = false ∧ ((dev.modDie 3 (fun c =>
      { c with hot := true })).dieClk 3).hot = true) :=
  by decide +kernel

/-- A power cap of 300 W, die 3 at 1,250 MHz or at 500. -/
def capped (mhz : Nat) : State := (dev.modPwr (fun w => { w with cap := 300 })).modDie 3 (fun c => { c with mhz := mhz })
theorem witness_power_cap :
    (capped 550).pwr.cap ≠ 0 ∧ (capped 550).pwr.cap < 301 ∧ 500 < ((capped 550).dieClk 3).mhz ∧ ((capped 500).dieClk 3).mhz ≤ 500 ∧
    100 * 290 < 97 * (capped 550).pwr.cap ∧ 97 * (capped 550).pwr.cap ≤ 100 * 291 ∧ 300 ≤ (capped 550).pwr.cap ∧ dev.pwr.cap = 0 := by
  decide +kernel

/-- The modes and stages of a start in which a warned supply is waited for (R29). -/
theorem witness_supply_waits : (inMode dev .minimal).supplyWaits = true ∧ (inMode dev .erase).supplyWaits = true ∧
    ({ State.reset with dev := { Dev.init with booting := true, boot := { BootRecord.init with stage := 2 } } } : State).supplyWaits =
      true ∧ ((inMode dev .minimal).modDev (fun d => { d with warned := [0] })).dev.warned ≠ [] := by decide +kernel

theorem witness_supplies :
    (∀ m ∈ [Mode.boot, .minimal, .erase, .hold, .service, .emulate, .recover], (inMode dev m).dev.mode = m ∧ (3 : Nat) < 4) ∧
    ((inMode dev .hold).dev.mode = .hold ∧ (inMode dev .hold).pastures = [] ∧ (inMode dev .hold).ports = [] ∧ (inMode dev
      .hold).lanes = [] ∧ (inMode dev .hold).dev.holdFaults = [] ∧ dev.dev.mode ≠ .hold) ∧
    ((vccoMv 0).isSome = true ∧ vccoGood ((dev.modBank 0 (fun b => { b with decl := 0 })).bank 0).decl ((vccoMv 0).getD 0) =
      true ∧ vccoGood ((dev.modBank 0 (fun b => { b with decl := 0 })).bank 0).decl 0 = false) :=
  ⟨by decide +kernel,
    by decide +kernel,
    by decide +kernel⟩

/-- A start at a stage, and a control complex that restarts. -/
def starting (n : Nat) : State :=
  { State.reset with dev := { Dev.init with booting := true, boot := { BootRecord.init with stage := n } } }
def restarting (kind : Nat) : State := dev.modDev (fun d =>
  { d with restarting := true, cause := { d.cause with lastCc := kind } })

theorem witness_resets :
    (dev.railWatched .core = true ∧ dev.railWatched .sram = true ∧ dev.railWatched .lane = true ∧ dev.railWatched .hbm =
      true ∧ (inMode dev .hold).dev.mode = .hold ∧ blank.diagOpen = true ∧ blank.dev.mode ≠ .off ∧ dev.islandRuns 607 = true)
      ∧
    ((starting 9).dev.mode = .boot ∧ (starting 9).dev.booting = true ∧ (starting 9).dev.boot.stage < 10 ∧ (restarting
      1).dev.restarting = true ∧ (restarting 2).dev.cause.lastCc = 2 ∧ (restarting 1).dev.cause.lastCc ≠ 2) ∧
    ((dev.modDie 0 (fun c => { c with hot := true })).dieClk 0).hot = true :=
  ⟨by decide +kernel,
    by decide +kernel,
    by decide +kernel⟩

theorem witness_starts :
    (State.reset.dev.mode = .boot ∧ State.reset.dev.booting = false ∧ State.reset.dev.warned = []) ∧
    (∀ n ∈ [2, 3, 4, 5, 6, 7, 9], (starting n).dev.mode = .boot ∧ (starting n).dev.booting = true ∧ (starting n).dev.warned
      = [] ∧ (starting n).dev.boot.stage = n) ∧
    ((inMode dev .off).dev.mode = .off ∧ dev.dev.mode ≠ .boot ∧ dev.dev.restartedAt = false) ∧
    ((restarting 1).flash.choose (restarting 1).flash.preferB = some false ∧ (restarting 1).dev.mode ≠ .minimal ∧ dev.up =
      true ∧ dev.dev.restarting = false) ∧
    (((inMode dev .erase).modDev (fun d => { d with erase := .wipe .service })).dev.erase = .wipe .service ∧ (inMode dev
      .erase).dev.mode = .erase ∧ dev.dev.warned = []) :=
  ⟨by decide +kernel,
    by decide +kernel,
    by decide +kernel,
    by decide +kernel,
    by decide +kernel⟩

theorem witness_function_tap :
    (dev.dev.mode ≠ .off ∧ dev.host.d3hot = false ∧ (2047 : Nat) < Config.numVectors ∧ (dev.modHost (fun h =>
      { h with d3hot := true })).host.d3hot = true) ∧
    (heldRegion.tapBypassed = true ∧ dev.tapBypassed = false) :=
  ⟨by decide +kernel,
    by decide +kernel⟩

/-- The trace in a state, with core 15 traced, events of bit 7 its start and stop, and 4 packets of core 15 lost. -/
def traced (st : TraceState) : State := dev.modTrace (fun t => { t with
  state := st, cfg := { t.cfg with cores := 2 ^ 15, startMask := 2 ^ 7, stopMask := 2 ^ 7 }
  encoders := [(15, { Encoder.init with lost := 4 })] })

theorem witness_trace_events :
    ((traced .armed).trace.state = .armed ∧ bitOf (traced .armed).trace.cfg.startMask 7 = true ∧ (traced
      .tracing).trace.state = .tracing ∧ bitOf (traced .tracing).trace.cfg.stopMask 7 = true ∧ (traced .stopping).trace.state
      = .stopping) ∧
    (15 ∈ (traced .tracing).tracedCores ∧ ((traced .tracing).encoder 15).gap = false ∧ ((traced .tracing).encoder 15).lost ≠
      0 ∧ (traced .tracing).trace.fifoUsed 15 + 21 ≤ traceFifo ∧ (15 : Nat) < Config.numCores) :=
  ⟨by decide +kernel,
    by decide +kernel⟩

theorem witness_completion :
    ((cmdOf dev (plain []) 2).live = true ∧ (cmdOf dev (plain []) 2).session = false ∧ dev.host.d3hot = false ∧
      dev.dev.restarting = false) :=
  by decide +kernel

theorem witness_steps :
    step { dev with pending := [.idcode, .highz] } = exec .idcode { dev with pending := [.highz] } ∧
    (∃ t, step { dev with pending := [.svnRaise] } = .next t) :=
  ⟨rfl,
    ⟨_, rfl⟩⟩

/-! ### Ill-formed commands are refused -/

theorem test_wf_cmd : (Instr.echo { cmd 0xFF (z 24) with ring := 64 }).wf = false ∧ (Instr.echo
  { cmd 0xFF (z 24) with tag := 2 ^ 32 }).wf = false ∧
    (Instr.echo (cmd 256 (z 24))).wf = false ∧ (Instr.echo (cmd 0xFF (z 24))).wf = true := by decide
theorem test_wf_window : (Instr.crCmdTailWrite 64 0 []).wf = false ∧ (Instr.crCplHeadWrite 0 (2 ^ 32)).wf = false ∧
    (Instr.flowDoorbellWrite 16384 8 0).wf = false ∧ (Instr.registerWrite (2 ^ 24) 8 0).wf = false ∧ (Instr.pad 0 65537).wf
      = false := by
  decide
theorem test_wf_folds : (Instr.eval 512 0).wf = false ∧ (Instr.eval 0 256).wf = false ∧ (Instr.dmRd 512).wf = false ∧
    (Instr.scratchpadAccess 0 8).wf = false ∧ (Instr.channelWordArrival 0 4096).wf = false ∧ (Instr.dmWordReturn 0 64).wf =
      false ∧
    (Instr.scrubRead 0 [{ bp := some 256, double := false }]).wf = false := by decide
theorem test_wf_pastures : (Instr.flowTake 16).wf = false ∧ (Instr.cycStart 16).wf = false ∧ (Instr.taskDispatch 32).wf =
  false ∧
    (Instr.controlFault (.storeDbe 0 1024 none false)).wf = false ∧ (Instr.edgePortWordIn 0 4 0).wf = false := by decide
theorem test_wf_links : (Instr.linkAck 128 0).wf = false ∧ (Instr.linkAck 0 256).wf = false ∧ (Instr.tag 0 0 5 0).wf = false ∧
    (Instr.tag 0 0 4 0).wf = true ∧ (Instr.detectPoll 256 true).wf = false ∧ (Instr.trainScanComplete 0 [] 0 0).wf = false
      := by decide +kernel
theorem test_wf_service : (Instr.nocRd { word0 := 2 ^ 64, word1 := 0, data := [] }).wf = false ∧ (Instr.serviceTimeout 256
  0).wf = false ∧
    (Instr.routerReconfigure 256 0 0).wf = false ∧ (Instr.regulatorChange 316 0 0 0).wf = false := by decide
theorem test_wf_power : (Instr.domainDecision 628 0).wf = false ∧ (Instr.thermalStep 12 0).wf = false ∧ (Instr.powerCapStep
  0 4).wf = false ∧
    (Instr.vccoLoss 24 0).wf = false ∧ (Instr.clkfail 608).wf = false ∧ (Instr.bypass 256).wf = false ∧ (Instr.ccWatchdog 16
      true).wf = false := by
  decide

/-! ### Single steps, with results taken from the spec -/

/-- The state after a command, or the one before it. -/
def after (c : Instr) (s : State) : State := match exec c s with
  | .next t => t
  | _ => s

/-- Table 11-10: ECHO's completion has its opcode, status 0 and the tag, and moves CPL_TAIL. -/
theorem test_echo : let t := after (.echo (plain (z 24))) dev
    memRead t.host.mem 0 8 = [2, 0, 0, 0, 7, 0, 0, 0] ∧ (t.ring 0).cplTail = 1 := by decide +kernel
/-- Table 11-9, check 8: a packet of the wrong length has status 0x0106, LENGTH_INVALID. -/
theorem test_echo_length : memRead (after (.echo (plain (z 16))) dev).host.mem 2 2 = [6, 1] := by decide +kernel
/-- Table 2-2: EVAL of truth table 0x8000 drives 1 where A to D are 1, and 0 where D is 0. -/
theorem test_eval :
    let s (d : Bool) : State := running { Fold.init with
      nrf := { Nrf.init with cur := [(1, true), (2, true), (3, true), (4, d)].filter (fun e => e.2) }
      store :=
        { FoldStore.init with instr := [(0, opEval * 2 ^ 75 + 0x8000 * 2 ^ 59 + 1 * 2 ^ 50 + 2 * 2 ^ 41 + 3 * 2 ^ 32 + 4 * 2 ^ 23 + 5 * 2 ^ 14)] }
        }
    ((after (.eval 0 0) (s true)).fold 0).readAfter 0 5 = true ∧ ((after (.eval 0 0) (s false)).fold 0).readAfter 0 5 =
      false := by
  decide +kernel
/-- R84: SET of 1, 2, 3, 4 over 4, 2, 0, 0 leaves 5, 2, 3, 4. -/
theorem test_scratchpad_set :
    let s : State :=
      { ported .set with pairs := [(0, { (ported .set).pair 0 with pads := [(7 * 32768 + 32764, 4), (7 * 32768 + 32765, 2)] })] }
    (List.range 4).map (fun i => ((after (.scratchpadAccess 0 7) s).pair 0).word (7 * 32768 + 32764 + i)) = [5, 2, 3, 4] := by
  decide +kernel
/-- R455: a start begins at stage 2 once the rails are good, and POR is its cause. -/
theorem test_boot : (after .bootStart State.reset).dev.booting = true ∧ State.reset.dev.cause.cause = 1 := by decide
/-- Table 1-8: a supply warning takes SERVICE to HOLD. -/
theorem test_supply : (after (.supplyWarning 0) dev).dev.mode = .hold := by decide +kernel
/-- R407: BYPASS answers one bit, and IDCODE its code. -/
theorem test_tap : (after (.bypass 0xFF) dev).edge.tap.instr = 0xFF ∧ (after .idcode dev).edge.tap.instr = 1 := by decide
/-- R298: the CRC-32C of the nine ASCII digits is 0xE3069283 (RFC 3720). -/
theorem test_crc : crc32c (asciiBytes "123456789") = 0xE3069283 := by decide +kernel

/-- R384: the LUT output is bit i of its table, i = 0 where every input is 0; a write of the LUT RAM changes the bit it addresses. -/
theorem test_lut : Region.init.lutOut [] 0 1 = true ∧ Region.init.lutOut [] 0 2 = false ∧ ramPut 0x5 1 1 = 0x7 ∧ ramPut 0x7 0 0 = 0x6 := by
  decide
/-- R353: 64 valid headers in a row lock; after a window of 64 blocks that held an invalid one the boundary slips, but not in manual alignment. -/
theorem test_block_lock :
    let x : Lane := { Lane.init with state := .lock, lockRun := 63, lockWin := 63 }
    (x.lockHeader false).blockLock = true ∧ (x.lockHeader true).boundary = 1 ∧
      (({ x with manual := true } : Lane).lockHeader true).boundary = 0 := by decide
/-- R89: a masked write changes the bytes whose mask bit is 1. -/
theorem test_write_mask : maskBytes [1, 2, 3, 4, 5, 6, 7, 8] [9, 9, 9, 9, 9, 9, 9, 9] 0x81 = [9, 2, 3, 4, 5, 6, 7, 9] := by decide

end Sys2Proof.Tests
end

section
/-!
# The organisation of the device: what WIPE and LC_TRANSITION need (R28)

Completions and refusals leave the device block as it is, so a card whose checks fail keeps the mode and what ERASE is to do;
and the first check that fails fixes the status of the completion.
-/

namespace Sys2Proof.Machine

open Sys2Proof

/-! ### A completion leaves the device block -/

@[simp] theorem State.modMsix_dev (s : State) (v : Nat) (f : Msix → Msix) : (s.modMsix v f).dev = s.dev := rfl
@[simp] theorem State.msiOut_dev (s : State) (v : Nat) : (s.msiOut v).dev = s.dev := rfl
@[simp] theorem State.hostWrite_dev (s : State) (a : Nat) (bs : List Byte) : (s.hostWrite a bs).dev = s.dev := rfl
@[simp] theorem State.logAer_dev (s : State) : s.logAer.dev = s.dev := rfl
@[simp] theorem State.dropProg_dev (s : State) (g : Prog) : (s.dropProg g).dev = s.dev := rfl
@[simp] theorem State.sweepSessions_dev (s : State) : s.sweepSessions.dev = s.dev := rfl

@[simp] theorem State.raiseVector_dev (s : State) (v : Nat) : (s.raiseVector v).dev = s.dev := by
  unfold State.raiseVector
  split_ifs <;> simp

@[simp] theorem State.quiesceRing_dev (s : State) (ring : Nat) : (s.quiesceRing ring).dev = s.dev := by
  unfold State.quiesceRing
  split_ifs <;> simp

@[simp] theorem State.putEntry_dev (s : State) (g : Prog) (status len : Nat) (detail ctag : List Byte) :
    (s.putEntry g status len detail ctag).dev = s.dev := by
  unfold State.putEntry
  dsimp only
  split_ifs <;> simp

@[simp] theorem State.writeCpl_dev (s : State) (j : CplJob) : (s.writeCpl j).dev = s.dev := by
  unfold State.writeCpl
  simp only [State.putEntry_dev]
  split_ifs <;> simp

@[simp] theorem State.finish_dev (s : State) (j : CplJob) : (s.finish j).dev = s.dev := by
  unfold State.finish
  split_ifs <;> simp

@[simp] theorem State.complete_dev (s : State) (g : Prog) (status : Nat) (detail : List Byte) :
    (s.complete g status detail).dev = s.dev := State.finish_dev s _

@[simp] theorem State.refuse_dev (s : State) (g : Prog) (status offset : Nat) :
    (s.refuse g status offset).dev = s.dev := State.complete_dev s g status _

/-! ### Checks that fail -/

theorem firstFail_append {l : List Check} (m : List Check) (h : ∀ x ∈ l, x.1 = false) : firstFail (l ++ m) = firstFail m := by
  have hl : l.find? (fun x => x.1) = none := List.find?_eq_none.mpr fun x hx => by simp [h x hx]
  simp [firstFail, List.find?_append, hl]

/-- Checks that pass do not show in what the ones after them decide. -/
theorem State.checked_append (s : State) (g : Prog) (f : State → State) {l m : List Check} (h : ∀ x ∈ l, x.1 = false) :
    s.checked g (l ++ m) f = s.checked g m f := by
  unfold State.checked
  rw [firstFail_append m h]

/-- A state check that is met first and fails completes with its status; outside family 0x01xx the DETAIL is zero (R306). -/
theorem State.checked_stateCheck (s : State) (g : Prog) (f : State → State) (m : List Check) {bad : Bool} {status : Nat}
    (hb : bad = true) (h : status / 256 ≠ 1) : s.checked g (stateCheck bad status :: m) f = s.complete g status [] := by
  subst hb
  simp [State.checked, firstFail, stateCheck, State.refuse, h]

/-- Where some check fails, whichever fails first, the card has no effect on the device block. -/
theorem State.checked_dev_of_fails (s : State) (g : Prog) (f : State → State) {l : List Check} (h : ∃ x ∈ l, x.1 = true) :
    (s.checked g l f).dev = s.dev := by
  unfold State.checked
  cases hv : firstFail l with
  | none =>
    obtain ⟨x, hx, hfail⟩ := h
    exact absurd hfail (List.find?_eq_none.mp (Option.map_eq_none_iff.mp hv) x hx)
  | some v => exact State.refuse_dev s g v.1 v.2

/-! ### Cards -/

@[simp] theorem State.begin_dev (s : State) (c : Cmd) (op : Nat) (auth : Bool) : (s.begin_ c op auth).2.dev = s.dev := rfl
@[simp] theorem State.begin_anyLive (s : State) (c : Cmd) (op : Nat) (auth : Bool) :
    (s.begin_ c op auth).2.anyLive = s.anyLive := rfl

/-- A card whose effect leaves the device block leaves it whether its packet waits, is refused or runs. -/
theorem State.runCard_dev {s : State} {card : Card} {c : Cmd}
    (h : ∀ g auth, (card.run c g (s.begin_ c card.opcode auth).2).dev = s.dev) : (s.runCard card c).dev = s.dev := by
  unfold State.runCard
  dsimp only
  split
  · rfl
  · split
    · simp
    · exact h _ _

theorem wipeCard_run (c : Cmd) (g : Prog) (s : State) : wipeCard.run c g s =
    s.checked g (reservedZero c 0 8 ++ [stateCheck s.anyLive 0x020A]) (fun s => s.enterErase (.wipe s.dev.mode)) := rfl

/-- The checks of LC_TRANSITION that stand after that of the pastures: the transition, the count of returns and the signature. -/
def lcLateChecks (s : State) (c : Cmd) : List Check :=
  [stateCheck (!(lcSigner s.fuses.lcState (param c 0 1)).isSome) 0x040C,
   stateCheck (s.fuses.lcState == lcField && param c 0 1 == lcReturn && decide (4 ≤ s.fuses.returns)) 0x040D,
   stateCheck (!s.lcAuthentic (param c 0 1) (param c 1 1) (slice c.params 8 96) (slice c.params 104 96)) 0x040B]

theorem lcTransitionCard_run (c : Cmd) (g : Prog) (s : State) : lcTransitionCard.run c g s =
    s.checked g ((reservedZero c 2 6 ++ (if param c 1 1 = 1 then reservedZero c 8 96 else [])) ++
      ([rangeCheck (decide (1 < param c 1 1)) 1,
        stateCheck (s.lcIs [lcEnded] || (s.lcIs [lcBlank] && !(lcSigner s.fuses.lcState (param c 0 1)).isSome)) 0x0413] ++
      stateCheck s.anyLive 0x020A :: lcLateChecks s c))
      (fun s => (s.complete g 0 []).enterErase (.lifeCycle (param c 0 1) (slice c.params 8 96))) := rfl

theorem wipeCard_run_dev {s : State} (c : Cmd) (g : Prog) (h : s.anyLive = true) : (wipeCard.run c g s).dev = s.dev := by
  rw [wipeCard_run]
  exact State.checked_dev_of_fails s g _ ⟨stateCheck s.anyLive 0x020A, by simp, h⟩

theorem lcTransitionCard_run_dev {s : State} (c : Cmd) (g : Prog) (h : s.anyLive = true) :
    (lcTransitionCard.run c g s).dev = s.dev := by
  rw [lcTransitionCard_run]
  exact State.checked_dev_of_fails s g _ ⟨stateCheck s.anyLive 0x020A, by simp, h⟩

/-- A life cycle among some values is not one outside them. -/
theorem State.lcIs_single_of_mem {s : State} {l : List Nat} {x : Nat} (h : s.fuses.lcState ∈ l) (hx : x ∉ l) :
    s.lcIs [x] = false := by
  have hne : s.fuses.lcState ≠ x := fun he => hx (he ▸ h)
  simpa [State.lcIs] using hne

theorem exec_wipe (c : Cmd) (s : State) : exec (.wipe c) s = .next (s.runCard wipeCard c) := rfl
theorem exec_lcTransition (c : Cmd) (s : State) : exec (.lcTransition c) s = .next (s.runCard lcTransitionCard c) := rfl

theorem exec_wipe_dev {s t : State} {c : Cmd} (h : s.anyLive = true) (ht : exec (.wipe c) s = .next t) : t.dev = s.dev := by
  rw [exec_wipe] at ht
  rw [← Host.Outcome.next.inj ht]
  exact State.runCard_dev fun g _ => wipeCard_run_dev c g h

theorem exec_lcTransition_dev {s t : State} {c : Cmd} (h : s.anyLive = true) (ht : exec (.lcTransition c) s = .next t) :
    t.dev = s.dev := by
  rw [exec_lcTransition] at ht
  rw [← Host.Outcome.next.inj ht]
  exact State.runCard_dev fun g _ => lcTransitionCard_run_dev c g h

theorem wipeCard_run_anyLive {s : State} {c : Cmd} (g : Prog) (h : s.anyLive = true) (hz : paramZero c 0 8) :
    wipeCard.run c g s = s.complete g 0x020A [] := by
  rw [wipeCard_run, State.checked_append s g _ (reservedZero_ok hz), State.checked_stateCheck s g _ [] h (by decide)]

/-- With SIGNER 0, in a life cycle that is neither BLANK nor ended, no check before that of the pastures fails; the checks of the
transition and of its signature stand after it (log 43). -/
theorem lcTransitionCard_run_anyLive {s : State} {c : Cmd} (g : Prog) (h : s.anyLive = true) (hz : paramZero c 2 6)
    (hsigner : param c 1 1 = 0) (hlc : s.fuses.lcState ∈ [1, 2, 3]) :
    lcTransitionCard.run c g s = s.complete g 0x020A [] := by
  have hended : s.lcIs [lcEnded] = false := State.lcIs_single_of_mem hlc (by decide)
  have hblank : s.lcIs [lcBlank] = false := State.lcIs_single_of_mem hlc (by decide)
  have hkey : ∀ x ∈ (if param c 1 1 = 1 then reservedZero c 8 96 else []), x.1 = false := by
    rw [hsigner]
    exact nil_ok
  rw [lcTransitionCard_run, State.checked_append s g _ (append_ok (reservedZero_ok hz) hkey),
    State.checked_append s g _ (range_ok (by simp [hsigner]) (state_ok (by simp [hended, hblank]) nil_ok)),
    State.checked_stateCheck s g _ _ h (by decide)]

/-- Settles O6: where a pasture is live some check of either card fails, so the device block stays; and where no earlier check
fails, that of the pastures gives the status (R28; the order of the checks of LC_TRANSITION is log 43). -/
theorem wipeNeedsEmptyPastures : Obligations.WipeNeedsEmptyPastures := by
  intro s c h
  refine ⟨fun t ht => ?_, fun htake hlen hz => ?_, fun htake hlen hz hsigner hlc => ?_⟩
  · have hdev : t.dev = s.dev := ht.elim (exec_wipe_dev h) (exec_lcTransition_dev h)
    simp [hdev]
  · rw [exec_wipe, runCard_device htake (by decide) rfl rfl rfl (by simp [wipeCard, lenIs, hlen])]
    exact congrArg _ (wipeCard_run_anyLive _ h hz)
  · rw [exec_lcTransition, runCard_device htake (by decide) rfl rfl rfl (by simp [lcTransitionCard, lenIs, hlen])]
    exact congrArg _ (lcTransitionCard_run_anyLive _ h hz hsigner hlc)

end Sys2Proof.Machine
end

section
/-!
# Folds: the import of every op, and when the writes of a slot are seen (R37, R45, R49, R50)

A slot's writes are lists in the sequencer, so what an entry holds is a question about the last write to it in the lists that are
committed. The import is the last write a BP adds to its slot.
-/

namespace Sys2Proof.Machine

open Sys2Proof

/-! ### Cells after a list of writes -/

/-- What entry `k` of BP `b` holds after a list of writes: the last one made to it, or what it held before. -/
def lastWrite (ws : List NrfWrite) (b k : Nat) (old : Bool) : Bool :=
  ((ws.reverse.find? (fun w => w.bp == b && w.entry == k)).map NrfWrite.val).getD old

@[simp] theorem Nrf.commit_nxt (n : Nrf) (ws : List NrfWrite) : (n.commit ws).nxt = n.nxt := rfl
@[simp] theorem Nrf.commitNext_cur (n : Nrf) (ws : List NrfWrite) : (n.commitNext ws).cur = n.cur := rfl

theorem Nrf.commit_append (n : Nrf) (ws vs : List NrfWrite) : n.commit (ws ++ vs) = (n.commit ws).commit vs := by
  simp [Nrf.commit]

theorem Nrf.tget_commit_cur (n : Nrf) {ws : List NrfWrite} {b k : Nat} (hk : k < 512) (hw : ∀ w ∈ ws, w.entry < 512) :
    tget (n.commit ws).cur false (nrfKey b k) = lastWrite ws b k (tget n.cur false (nrfKey b k)) :=
  commit_read ws n.cur b k hk hw

theorem Nrf.tget_commitNext_nxt (n : Nrf) {ws : List NrfWrite} {b k : Nat} (hk : k < 512) (hw : ∀ w ∈ ws, w.entry < 512) :
    tget (n.commitNext ws).nxt false (nrfKey b k) = lastWrite ws b k (tget n.nxt false (nrfKey b k)) :=
  commit_read ws n.nxt b k hk hw

/-- The last write of a slot stands, whatever entries the others name. -/
theorem Nrf.tget_commit_concat (n : Nrf) (ws : List NrfWrite) (w : NrfWrite) :
    tget (n.commit (ws ++ [w])).cur false (nrfKey w.bp w.entry) = w.val := by
  rw [Nrf.commit_append]
  exact tget_tput_self _ _ _ _

theorem Fold.readAfter_of_getLast {x : Fold} {w : NrfWrite} (h : x.seq.wr0.getLast? = some w) :
    x.readAfter w.bp w.entry = w.val := by
  obtain ⟨ws, hws⟩ := List.getLast?_eq_some_iff.mp h
  unfold Fold.readAfter
  rw [hws]
  exact Nrf.tget_commit_concat _ ws w

/-! ### The import of a BP operation (R37) -/

/-- The import of BP `bp` in the present slot: bit xsel of the step bus of the slot before, into entry 448 + xdst (R37, R45). -/
def Fold.importWrite (x : Fold) (bp : Nat) : NrfWrite :=
  { bp := bp, entry := 448 + (x.instrNow bp).xdst, val := bitOf x.seq.busPrev (x.instrNow bp).xsel }

theorem Fold.execBp_wr0_getLast {x : Fold} {bp : Nat} (h : (x.instrNow bp).op ≠ opNop) :
    (x.execBp bp).seq.wr0.getLast? = some (x.importWrite bp) := by
  obtain ⟨_, _, _, _, _, _, _, l, hwr0, _, hlast⟩ := x.execBp_facts bp
  rw [hwr0, List.getLast?_append, hlast h]
  rfl

theorem Fold.execBp_readAfter_import {x : Fold} {bp : Nat} (h : (x.instrNow bp).op ≠ opNop) :
    (x.execBp bp).readAfter bp (448 + (x.instrNow bp).xdst) = bitOf x.seq.busPrev (x.instrNow bp).xsel :=
  Fold.readAfter_of_getLast (Fold.execBp_wr0_getLast h)

/-- The words that a preparation delivers stand on the bus of the present slot, not on that of the slot before. -/
theorem State.prepare_busPrev (s : State) (f p : Nat) : ((s.prepare f p).fold f).seq.busPrev = (s.fold f).seq.busPrev := by
  obtain ⟨d, h | h⟩ := State.prepare_eq s f p
  · rw [h]
  · simp [h, State.fold_modSeq]

/-- The ops other than NOP, each with its command for a BP. -/
def importOps (f bp : Nat) : List (Nat × Instr) :=
  [(opEval, .eval f bp), (opEvals, .evals f bp), (opEvale, .evale f bp), (opCheck, .check f bp), (opCopy, .copy f bp),
    (opXonly, .xonly f bp)]

theorem importOps_ne_nop {f bp op : Nat} {c : Instr} (h : (op, c) ∈ importOps f bp) : op ≠ opNop := by
  have hop : op ∈ (importOps f bp).map Prod.fst := List.mem_map_of_mem h
  rintro rfl
  exact absurd hop (by decide : opNop ∉ [opEval, opEvals, opEvale, opCheck, opCopy, opXonly])

theorem exec_importOps {f bp op : Nat} {c : Instr} (h : (op, c) ∈ importOps f bp) (s : State) :
    exec c s = .next (bpStep op f bp s) := by
  simp only [importOps, List.mem_cons, Prod.mk.injEq, List.not_mem_nil, or_false] at h
  obtain ⟨rfl, rfl⟩ | ⟨rfl, rfl⟩ | ⟨rfl, rfl⟩ | ⟨rfl, rfl⟩ | ⟨rfl, rfl⟩ | ⟨rfl, rfl⟩ := h <;> rfl

/-- Settles O25: each of the six ops executes its BP in the prepared fold, and the import is the last write of the slot, so no port E
write of the same slot can stand over it. -/
theorem everyOpImports : Obligations.EveryOpImports := by
  intro s f bp p op c hc hready
  have hexec : exec c s = .next ((s.prepare f p).modFold f (fun x => x.execBp bp)) :=
    (exec_importOps hc s).trans (congrArg _ (bpStep_ready hready))
  have hinstr := State.prepare_instrNow s f p bp
  have hop : (((s.prepare f p).fold f).instrNow bp).op ≠ opNop := by
    obtain ⟨_, _, hop, _⟩ := hready
    rw [hinstr, hop]
    exact importOps_ne_nop hc
  refine ⟨_, hexec, ?_⟩
  rw [State.fold_modFold_self, ← hinstr, Fold.execBp_readAfter_import hop, State.prepare_busPrev]

/-! ### A slot is left (R45, R49, R50) -/

theorem Fold.leave_of_ne_last {x : Fold} (e : Nat) (h : x.seq.slot ≠ x.seq.lastSlot) :
    (x.leave e).nrf = (x.nrf.commitNext x.seq.nx0).commit x.seq.wr1 ∧ (x.leave e).seq.wr1 = x.seq.wr0 ∧
    (x.leave e).seq.wr0 = [] ∧ (x.leave e).seq.busPrev = x.seq.bus ∧ (x.leave e).seq.slot = x.seq.slot + 1 := by
  simp [Fold.leave, h]

theorem Fold.leave_of_last {x : Fold} (e : Nat) (h : x.seq.slot = x.seq.lastSlot) :
    (x.leave e).nrf = (x.nrf.commitNext x.seq.nx0).commit (x.seq.wr1 ++ x.seq.wr0) ∧ (x.leave e).seq.wr1 = [] ∧
    (x.leave e).seq.wr0 = [] ∧ (x.leave e).seq.busPrev = 0 ∧ (x.leave e).seq.ended = true := by
  simp [Fold.leave, h, Nrf.commit_append]

/-- In either case the next-value writes and the assertion events of the slot take effect, and none is left. -/
theorem Fold.leave_next (x : Fold) (e : Nat) :
    (x.leave e).nrf.nxt = (x.nrf.commitNext x.seq.nx0).nxt ∧ (x.leave e).latch = x.latch.addAll x.seq.slot x.seq.ev0 ∧
    (x.leave e).seq.nx0 = [] ∧ (x.leave e).seq.ev0 = [] := by
  by_cases h : x.seq.slot = x.seq.lastSlot <;> simp [Fold.leave, h]

/-- A read after the writes `ws` returns the last of them to its entry. -/
theorem Fold.read_of_nrf_commit {x y : Fold} {ns ws : List NrfWrite} (h : y.nrf = (x.nrf.commitNext ns).commit ws) {b k : Nat}
    (hk : k < 512) (hw : ∀ w ∈ ws, w.entry < 512) : y.read b k = lastWrite ws b k (x.read b k) := by
  unfold Fold.read
  rw [h, Nrf.tget_commit_cur _ hk hw, Nrf.commitNext_cur]

/-- Settles O26, from the equations of `Fold.leave` in a slot before the last and in the last one, and from `Fold.execBp_facts` for
what a BP leaves while its slot runs. -/
theorem writesSeenTwoSlotsOn : Obligations.WritesSeenTwoSlotsOn := by
  intro x e b k bp hk hw
  have hw1 : ∀ w ∈ x.seq.wr1 ++ x.seq.wr0, w.entry < 512 := fun w h => hw w (List.mem_append_left _ h)
  refine ⟨fun h => ?_, fun h => ?_, ?_, ?_⟩
  · obtain ⟨hnrf, hseq⟩ := Fold.leave_of_ne_last e h
    exact ⟨Fold.read_of_nrf_commit hnrf hk fun w h => hw1 w (List.mem_append_left _ h), hseq⟩
  · obtain ⟨hnrf, hseq⟩ := Fold.leave_of_last e h
    exact ⟨Fold.read_of_nrf_commit hnrf hk hw1, hseq⟩
  · obtain ⟨hnxt, hrest⟩ := x.leave_next e
    refine ⟨?_, hrest⟩
    rw [hnxt]
    exact Nrf.tget_commitNext_nxt _ hk fun w h => hw w (List.mem_append_right _ h)
  · rintro z rfl
    obtain ⟨hnrf, hlatch, hwr1, hbus, _, _, _, l, hwr0, _⟩ := x.execBp_facts bp
    exact ⟨hnrf, hlatch, hwr1, ⟨l, hwr0.symm⟩, hbus, Fold.execBp_wr0_getLast⟩

end Sys2Proof.Machine
end

section
/-!
# What every step keeps (the queue, the identity and the fuses)

Every command but the raise of SVN_MIN and the end of an ERASE leaves `kept`: the identity, the fuses and the commands that wait. The
two exceptions leave the identity and the queue, and what each does to SVN_MIN is known.
-/

namespace Sys2Proof.Machine

open Sys2Proof

/-! ### Every command but two leaves the identity, the fuses and the queue -/

theorem exec_kept {c : Instr} {s t : State} (hsvn : c ≠ .svnRaise) (herase : c ≠ .eraseComplete) (h : exec c s = .next t) :
    t.kept = s.kept :=
  match c with
  | .pad _ _ => execPad_kept _ _ _ _ h
  | .deviceInfo _ => execDeviceInfo_kept _ _ _ h
  | .echo _ => execEcho_kept _ _ _ h
  | .fwStage _ => execFwStage_kept _ _ _ h
  | .fwActivate _ => execFwActivate_kept _ _ _ h
  | .wipe _ => execWipe_kept _ _ _ h
  | .laneBringup _ => execLaneBringup_kept _ _ _ h
  | .laneRetrain _ => execLaneRetrain_kept _ _ _ h
  | .laneTakeDown _ => execLaneTakeDown_kept _ _ _ h
  | .laneEq _ => execLaneEq_kept _ _ _ h
  | .laneBitslip _ => execLaneBitslip_kept _ _ _ h
  | .laneLoopback _ => execLaneLoopback_kept _ _ _ h
  | .laneStatus _ => execLaneStatus_kept _ _ _ h
  | .fabricRelease _ => execFabricRelease_kept _ _ _ h
  | .powerCap _ => execPowerCap_kept _ _ _ h
  | .clockFloor _ => execClockFloor_kept _ _ _ h
  | .ladderSelect _ => execLadderSelect_kept _ _ _ h
  | .padRelease _ => execPadRelease_kept _ _ _ h
  | .timeAccept _ => execTimeAccept_kept _ _ _ h
  | .timeConfig _ => execTimeConfig_kept _ _ _ h
  | .attest _ => execAttest_kept _ _ _ h
  | .sessionOpen _ => execSessionOpen_kept _ _ _ h
  | .sessionRebind _ => execSessionRebind_kept _ _ _ h
  | .sessionClose _ => execSessionClose_kept _ _ _ h
  | .lcTransition _ => execLcTransition_kept _ _ _ h
  | .traceArm _ => execTraceArm_kept _ _ _ h
  | .traceDisable _ => execTraceDisable_kept _ _ _ h
  | .traceStop _ => execTraceStop_kept _ _ _ h
  | .probeConfig _ => execProbeConfig_kept _ _ _ h
  | .traceRead _ => execTraceRead_kept _ _ _ h
  | .unload _ => execUnload_kept _ _ _ h
  | .loadHeader _ => execLoadHeader_kept _ _ _ h
  | .loadChunk _ => execLoadChunk_kept _ _ _ h
  | .loadAbort _ => execLoadAbort_kept _ _ _ h
  | .run _ => execRun_kept _ _ _ h
  | .freeze _ => execFreeze_kept _ _ _ h
  | .setWdog _ => execSetWdog_kept _ _ _ h
  | .flowHoldings _ => execFlowHoldings_kept _ _ _ h
  | .taskKick _ => execTaskKick_kept _ _ _ h
  | .flowTallies _ => execFlowTallies_kept _ _ _ h
  | .acqArm _ => execAcqArm_kept _ _ _ h
  | .acqDisarm _ => execAcqDisarm_kept _ _ _ h
  | .acqForce _ => execAcqForce_kept _ _ _ h
  | .acqRead _ => execAcqRead_kept _ _ _ h
  | .acqProgram _ => execAcqProgram_kept _ _ _ h
  | .ringInfo _ => execRingInfo_kept _ _ _ h
  | .ringRollback _ => execRingRollback_kept _ _ _ h
  | .diagRegRead _ => execDiagRegRead_kept _ _ _ h
  | .diagMemRead _ => execDiagMemRead_kept _ _ _ h
  | .diagMemWrite _ => execDiagMemWrite_kept _ _ _ h
  | .crCmdTailWrite _ _ _ => execCrCmdTailWrite_kept _ _ _ _ _ h
  | .crCplHeadWrite _ _ => execCrCplHeadWrite_kept _ _ _ _ h
  | .crCtrlEnableSet _ _ => execCrCtrlEnableSet_kept _ _ _ _ h
  | .crCtrlEnableClear _ => execCrCtrlEnableClear_kept _ _ _ h
  | .crStatusHaltedClear _ => execCrStatusHaltedClear_kept _ _ _ h
  | .flowDoorbellWrite _ _ _ => execFlowDoorbellWrite_kept _ _ _ _ _ h
  | .assertValidClear _ => execAssertValidClear_kept _ _ _ h
  | .w0BadAccess write => execW0BadAccess_kept write _ _ h
  | .registerWrite _ _ _ => execRegisterWrite_kept _ _ _ _ _ h
  | .nop _ _ => execNop_kept _ _ _ _ h
  | .eval _ _ => execEval_kept _ _ _ _ h
  | .evals _ _ => execEvals_kept _ _ _ _ h
  | .evale _ _ => execEvale_kept _ _ _ _ h
  | .check _ _ => execCheck_kept _ _ _ _ h
  | .copy _ _ => execCopy_kept _ _ _ _ h
  | .xonly _ _ => execXonly_kept _ _ _ _ h
  | .scratchpadRd _ _ => execScratchpadRd_kept _ _ _ _ h
  | .scratchpadWr _ _ => execScratchpadWr_kept _ _ _ _ h
  | .scratchpadSet _ _ => execScratchpadSet_kept _ _ _ _ h
  | .scratchpadClr _ _ => execScratchpadClr_kept _ _ _ _ h
  | .scratchpadWide _ _ => execScratchpadWide_kept _ _ _ _ h
  | .scratchpadAccess _ _ => execScratchpadAccess_kept _ _ _ _ h
  | .channelSend _ _ => execChannelSend_kept _ _ _ _ h
  | .channelReceive _ _ => execChannelReceive_kept _ _ _ _ h
  | .channelWordArrival _ _ => execChannelWordArrival_kept _ _ _ _ h
  | .dmRd _ => execDmRd_kept _ _ _ h
  | .dmWr _ => execDmWr_kept _ _ _ h
  | .dmWrm _ => execDmWrm_kept _ _ _ h
  | .dmWordReturn _ _ => execDmWordReturn_kept _ _ _ _ h
  | .dmWriteAccept _ => execDmWriteAccept_kept _ _ _ h
  | .barrierArrival _ => execBarrierArrival_kept _ _ _ h
  | .stateFinal _ => execStateFinal_kept _ _ _ h
  | .probeLatch _ => execProbeLatch_kept _ _ _ h
  | .stallCheck _ => execStallCheck_kept _ _ _ h
  | .barrierRelease _ => execBarrierRelease_kept _ _ _ h
  | .flowTake _ => execFlowTake_kept _ _ _ h
  | .cycStart _ => execCycStart_kept _ _ _ h
  | .watchdogExpiry _ => execWatchdogExpiry_kept _ _ _ h
  | .scrubRead _ _ => execScrubRead_kept _ _ _ _ h
  | .scrubRewrite _ _ => execScrubRewrite_kept _ _ _ _ h
  | .ringComplete _ => execRingComplete_kept _ _ _ h
  | .controlFault _ => execControlFault_kept _ _ _ h
  | .recoveryComplete _ _ => execRecoveryComplete_kept _ _ _ _ h
  | .edgePortWordIn _ _ _ => execEdgePortWordIn_kept _ _ _ _ _ h
  | .edgePortWordOut _ _ => execEdgePortWordOut_kept _ _ _ _ h
  | .epFclkStart _ => execEpFclkStart_kept _ _ _ h
  | .taskDispatch _ => execTaskDispatch_kept _ _ _ h
  | .taskRunComplete _ _ _ => execTaskRunComplete_kept _ _ _ _ _ h
  | .acqCapture _ => execAcqCapture_kept _ _ _ h
  | .snapshotComplete _ => execSnapshotComplete_kept _ _ _ h
  | .timeBaseWrap => execTimeBaseWrap_kept _ _ h
  | .sync _ _ _ _ _ => execSync_kept _ _ _ _ _ _ _ h
  | .followUp _ _ _ => execFollowUp_kept _ _ _ _ _ h
  | .delayResp _ _ _ => execDelayResp_kept _ _ _ _ _ h
  | .announce _ _ => execAnnounce_kept _ _ _ _ h
  | .delayReq _ _ => execDelayReq_kept _ _ _ _ h
  | .holdoverTimeout => execHoldoverTimeout_kept _ _ h
  | .statusDatagramRequest _ _ _ => execStatusDatagramRequest_kept _ _ _ _ _ h
  | .ethFrameDropped _ _ => execEthFrameDropped_kept _ _ _ _ h
  | .dataBlock _ _ _ => execDataBlock_kept _ _ _ _ _ h
  | .linkIdle _ => execLinkIdle_kept _ _ _ h
  | .skip link again => execSkip_kept link again _ _ h
  | .linkAck _ _ => execLinkAck_kept _ _ _ _ h
  | .linkNak _ _ => execLinkNak_kept _ _ _ _ h
  | .replayTimeout _ => execReplayTimeout_kept _ _ _ h
  | .cap _ _ _ => execCap_kept _ _ _ _ _ h
  | .join _ _ _ => execJoin_kept _ _ _ _ _ h
  | .chancount _ _ _ => execChancount_kept _ _ _ _ _ h
  | .arrive _ _ _ => execArrive_kept _ _ _ _ _ h
  | .assertCount _ _ _ => execAssertCount_kept _ _ _ _ _ h
  | .linkRelease _ _ _ => execLinkRelease_kept _ _ _ _ _ h
  | .linkFault _ _ _ => execLinkFault_kept _ _ _ _ _ h
  | .linkUnload _ _ _ => execLinkUnload_kept _ _ _ _ _ h
  | .credit _ _ _ => execCredit_kept _ _ _ _ _ h
  | .tag _ _ _ _ => execTag_kept _ _ _ _ _ _ h
  | .trainMark _ _ => execTrainMark_kept _ _ _ _ h
  | .detectPoll _ _ => execDetectPoll_kept _ _ _ _ h
  | .trainScanComplete _ _ _ _ => execTrainScanComplete_kept _ _ _ _ _ _ h
  | .marginCheck _ _ _ => execMarginCheck_kept _ _ _ _ _ h
  | .linkLostTimeout _ => execLinkLostTimeout_kept _ _ _ h
  | .nocRd _ => execNocRd_kept _ _ _ h
  | .nocWr _ => execNocWr_kept _ _ _ h
  | .setw _ => execSetw_kept _ _ _ h
  | .clrw _ => execClrw_kept _ _ _ h
  | .bulkRd _ => execBulkRd_kept _ _ _ h
  | .regRd _ => execRegRd_kept _ _ _ h
  | .regWr _ => execRegWr_kept _ _ _ h
  | .ctl _ => execCtl_kept _ _ _ h
  | .nocAck _ => execNocAck_kept _ _ _ h
  | .rdData _ => execRdData_kept _ _ _ h
  | .err _ => execErr_kept _ _ _ h
  | .inv _ => execInv_kept _ _ _ h
  | .snpAck _ => execSnpAck_kept _ _ _ h
  | .bulkWr _ => execBulkWr_kept _ _ _ h
  | .bulkData _ => execBulkData_kept _ _ _ h
  | .serviceTimeout _ _ => execServiceTimeout_kept _ _ _ _ h
  | .routerReconfigure _ _ _ => execRouterReconfigure_kept _ _ _ _ _ h
  | .regulatorChange _ _ _ _ => execRegulatorChange_kept _ _ _ _ _ _ h
  | .domainDecision _ _ => execDomainDecision_kept _ _ _ _ h
  | .drainComplete _ => execDrainComplete_kept _ _ _ h
  | .drainTimeout _ _ => execDrainTimeout_kept _ _ _ _ h
  | .wakeComplete _ => execWakeComplete_kept _ _ _ h
  | .retLost _ => execRetLost_kept _ _ _ h
  | .ladderLeave _ => execLadderLeave_kept _ _ _ h
  | .thermalStep _ _ => execThermalStep_kept _ _ _ _ h
  | .powerCapStep _ _ => execPowerCapStep_kept _ _ _ _ h
  | .junctionLimit _ _ => execJunctionLimit_kept _ _ _ _ h
  | .thermTimeout _ _ => execThermTimeout_kept _ _ _ _ h
  | .voltageSettle _ _ => execVoltageSettle_kept _ _ _ _ h
  | .pmbAlert _ _ => execPmbAlert_kept _ _ _ _ h
  | .vccoLoss _ _ => execVccoLoss_kept _ _ _ _ h
  | .supplyWarning _ => execSupplyWarning_kept _ _ _ h
  | .supplyReturn => execSupplyReturn_kept _ _ h
  | .holdTimeout => execHoldTimeout_kept _ _ h
  | .por => execPor_kept _ _ h
  | .bod _ => execBod_kept _ _ _ h
  | .resetN _ => execResetN_kept _ _ _ h
  | .wake _ => execWake_kept _ _ _ h
  | .dbgreq => execDbgreq_kept _ _ h
  | .clkfail _ => execClkfail_kept _ _ _ h
  | .bootStart => execBootStart_kept _ _ h
  | .bootStageComplete _ => execBootStageComplete_kept _ _ _ h
  | .bootWatchdog => execBootWatchdog_kept _ _ h
  | .ccWatchdog _ _ => execCcWatchdog_kept _ _ _ _ h
  | .ccLockup _ _ => execCcLockup_kept _ _ _ _ h
  | .ccRestartComplete => execCcRestartComplete_kept _ _ h
  | .unloadWipeComplete _ => execUnloadWipeComplete_kept _ _ _ h
  | .pcieFunctionReset k => execPcieFunctionReset_kept k _ _ h
  | .d3hotEntry => execD3hotEntry_kept _ _ h
  | .d0Return => execD0Return_kept _ _ h
  | .extest _ => execExtest_kept _ _ _ h
  | .idcode => execIdcode_kept _ _ h
  | .samplePreload _ => execSamplePreload_kept _ _ _ h
  | .clamp => execClamp_kept _ _ h
  | .highz => execHighz_kept _ _ h
  | .bypass _ => execBypass_kept _ _ _ h
  | .traceStartEvent _ => execTraceStartEvent_kept _ _ _ h
  | .traceStopEvent _ => execTraceStopEvent_kept _ _ _ h
  | .traceStoppingComplete => execTraceStoppingComplete_kept _ _ h
  | .traceTimeTimer _ => execTraceTimeTimer_kept _ _ _ h
  | .traceOverflow _ => execTraceOverflow_kept _ _ _ h
  | .blockLock _ => execBlockLock_kept _ _ _ h
  | .crcFailure _ _ => execCrcFailure_kept _ _ _ _ h
  | .protocolError _ => execProtocolError_kept _ _ _ h
  | .trainBoundExpiry _ => execTrainBoundExpiry_kept _ _ _ h
  | .vccoGood _ _ => execVccoGood_kept _ _ _ _ h
  | .globalLineStart _ _ => execGlobalLineStart_kept _ _ _ _ h
  | .ccRestartTimeout => execCcRestartTimeout_kept _ _ h
  | .msixVectorUnmask _ => execMsixVectorUnmask_kept _ _ _ h
  | .droverCoreInstruction _ _ _ => execDroverCoreInstruction_kept _ _ _ _ _ h
  | .svnRaise => absurd rfl hsvn
  | .eraseComplete => absurd rfl herase

/-- No command changes the identity or the commands that wait behind it. -/
theorem exec_ident_pending {c : Instr} {s t : State} (h : exec c s = .next t) : t.ident = s.ident ∧ t.pending = s.pending := by
  by_cases hsvn : c = .svnRaise
  · subst hsvn
    obtain ⟨hi, hp, _⟩ := execSvnRaise_kept s t h
    exact ⟨hi, hp⟩
  · by_cases herase : c = .eraseComplete
    · subst herase
      obtain ⟨hi, hp, _⟩ := execEraseComplete_kept s t h
      exact ⟨hi, hp⟩
    · obtain ⟨hi, _, hp⟩ := kept_parts (exec_kept hsvn herase h)
      exact ⟨hi, hp⟩

/-- What a command makes of SVN_MIN: nothing, or the raise takes it up, to 64 at most (R426). -/
theorem exec_svnMin {c : Instr} {s t : State} (h : exec c s = .next t) :
    t.fuses.svnMin = s.fuses.svnMin ∨ t.fuses.svnMin = max s.fuses.svnMin (min 64 s.flash.active.svn) := by
  by_cases hsvn : c = .svnRaise
  · subst hsvn
    obtain ⟨_, _, hf | hf⟩ := execSvnRaise_kept s t h
    · exact .inl (congrArg Fuses.svnMin hf)
    · exact .inr (congrArg Fuses.svnMin hf)
  · by_cases herase : c = .eraseComplete
    · subst herase
      obtain ⟨_, _, hf⟩ := execEraseComplete_kept s t h
      exact .inl hf
    · obtain ⟨_, hf, _⟩ := kept_parts (exec_kept hsvn herase h)
      exact .inl (congrArg Fuses.svnMin hf)

/-! ### The step -/

theorem step_of_pending_nil {s : State} (h : s.pending = []) : step s = .next s.tick := by
  unfold step
  rw [h]

theorem step_of_pending_cons {s : State} {c : Instr} {rest : List Instr} (h : s.pending = c :: rest) :
    step s = exec c { s with pending := rest } := by
  unfold step
  rw [h]

/-- Settles O1: the front of the queue is what `step` matches on. -/
theorem stepRunsFrontCommand : Obligations.StepRunsFrontCommand :=
  fun _ _ _ => step_of_pending_cons rfl

/-- Settles O2. -/
theorem emptyQueueTicks : Obligations.EmptyQueueTicks :=
  fun _ => step_of_pending_nil

/-- Settles O59: the tick of an empty queue keeps both; a command keeps both once the step has taken it off the queue. -/
theorem stepKeepsIdentityAndOrder : Obligations.StepKeepsIdentityAndOrder := by
  intro s t h
  cases hp : s.pending with
  | nil =>
    rw [step_of_pending_nil hp] at h
    obtain ⟨hi, _, hq⟩ := kept_parts (Host.Outcome.next.inj h ▸ State.tick_kept s)
    exact ⟨hi, hq.trans hp⟩
  | cons c rest =>
    rw [step_of_pending_cons hp] at h
    exact exec_ident_pending h

/-- Settles O60: the two commands that the statement leaves out are the only ones that do not keep the fuses, and neither lowers
SVN_MIN. -/
theorem fusesKept : Obligations.FusesKept := by
  intro s t h
  cases hp : s.pending with
  | nil =>
    rw [step_of_pending_nil hp] at h
    obtain ⟨_, hf, _⟩ := kept_parts (Host.Outcome.next.inj h ▸ State.tick_kept s)
    simp [hf]
  | cons c rest =>
    rw [step_of_pending_cons hp] at h
    refine ⟨fun hsvn herase => ?_, ?_⟩
    · obtain ⟨_, hf, _⟩ := kept_parts (exec_kept (by simpa using hsvn) (by simpa using herase) h)
      exact hf
    · obtain hf | hf := exec_svnMin h <;> rw [hf]
      · exact ⟨le_rfl, id⟩
      · exact ⟨le_max_left _ _, fun hle => max_le hle (min_le_left _ _)⟩

/-! ### Every command but one answers a next state -/

theorem exec_next {c : Instr} (hc : ∀ offset size value, c ≠ .registerWrite offset size value) (s : State) :
    ∃ t, exec c s = .next t := by
  cases c with
  | registerWrite offset size value => exact absurd rfl (hc offset size value)
  | _ => exact ⟨_, rfl⟩

end Sys2Proof.Machine
end

section
/-!
# Window W0: the ring registers, the doorbells and the other registers (R215, R290–R296, R302, R423, R454)

A write that the function answers acts on the state after the ladder event that it is; that event leaves the rings, the queues and the
pastures. What each register's function does is said once; the statements are read off those equations.
-/

namespace Sys2Proof.Machine

open Sys2Proof

/-! ### A write that the function answers -/

theorem State.w0Write_open {s : State} (h : s.w0Open = true) (e : LadderEvent) (act : State → State) :
    s.w0Write e act = act (s.ladderEvent e) := if_pos h

theorem wrapTo_of_lt {w x : Nat} (h : x < 2 ^ w) : wrapTo w x = x := Nat.mod_eq_of_lt h

/-! ### TAIL, HEAD and HALTED of a ring -/

theorem State.placePackets_eq (s : State) (n : Nat) (bs : List Byte) :
    ∃ m, s.placePackets n bs = s.modHost (fun h => { h with mem := m }) := by
  unfold State.placePackets
  dsimp only
  split
  · exact ⟨_, rfl⟩
  · exact ⟨_, rfl⟩

@[simp] theorem State.placePackets_w0Open (s : State) (n : Nat) (bs : List Byte) :
    (s.placePackets n bs).w0Open = s.w0Open := by
  obtain ⟨m, h⟩ := s.placePackets_eq n bs
  rw [h]
  rfl

@[simp] theorem State.placePackets_ring (s : State) (n k : Nat) (bs : List Byte) :
    (s.placePackets n bs).ring k = s.ring k := by
  obtain ⟨m, h⟩ := s.placePackets_eq n bs
  rw [h]
  rfl

theorem State.setTail_inRange {s : State} {n value : Nat} (hv : value < 2 ^ 32)
    (hlo : (s.ring n).offered ≤ wrapSub 32 value (s.ring n).cmdHead)
    (hhi : wrapSub 32 value (s.ring n).cmdHead ≤ 2 ^ (s.ring n).cmdLog2 / 8) :
    s.setTail n value = (s.modRing n (fun r => { r with cmdTail := value })).serveRing n := by
  unfold State.setTail
  rw [wrapTo_of_lt hv]
  exact if_neg (by omega)

theorem State.setTail_outOfRange {s : State} {n value : Nat} (hv : value < 2 ^ 32)
    (h : wrapSub 32 value (s.ring n).cmdHead < (s.ring n).offered ∨
      2 ^ (s.ring n).cmdLog2 / 8 < wrapSub 32 value (s.ring n).cmdHead) :
    s.setTail n value = s.modRing n (fun r => { r with badDoorbell := true }) := by
  unfold State.setTail
  rw [wrapTo_of_lt hv]
  exact if_pos h

theorem State.setCplHead_inRange {s : State} {n value : Nat} (hv : value < 2 ^ 32)
    (h : wrapSub 32 value (s.ring n).cplHead ≤ wrapSub 32 (s.ring n).cplTail (s.ring n).cplHead) :
    s.setCplHead n value = (s.modRing n (fun r => { r with cplHead := value })).serveRing n := by
  unfold State.setCplHead
  rw [wrapTo_of_lt hv]
  exact if_neg (by omega)

theorem State.setCplHead_outOfRange {s : State} {n value : Nat} (hv : value < 2 ^ 32)
    (h : wrapSub 32 (s.ring n).cplTail (s.ring n).cplHead < wrapSub 32 value (s.ring n).cplHead) :
    s.setCplHead n value = s.modRing n (fun r => { r with badDoorbell := true }) := by
  unfold State.setCplHead
  rw [wrapTo_of_lt hv]
  exact if_pos h

theorem exec_pad {n words : Nat} {s : State} (h : s.ringServes n false = true ∧ 2 ≤ words ∧ words ≤ (s.ring n).offered ∧
      8 * (s.ring n).cmdHead % 2 ^ (s.ring n).cmdLog2 + 8 * words ≤ 2 ^ (s.ring n).cmdLog2) :
    exec (.pad n words) s = .next (s.advanceRing n words) := congrArg _ (if_pos h)

theorem exec_crCmdTailWrite {s : State} (h : s.w0Open = true) (n value : Nat) (bytes : List Byte) :
    exec (.crCmdTailWrite n value bytes) s = .next (((s.placePackets n bytes).ladderEvent .doorbell).setTail n value) :=
  congrArg _ (State.w0Write_open (by simpa using h) _ _)

theorem exec_crCplHeadWrite {s : State} (h : s.w0Open = true) (n value : Nat) :
    exec (.crCplHeadWrite n value) s = .next ((s.ladderEvent .w0Access).setCplHead n value) :=
  congrArg _ (State.w0Write_open h _ _)

theorem exec_crStatusHaltedClear {s : State} (h : s.w0Open = true) (n : Nat) :
    exec (.crStatusHaltedClear n) s = .next ((s.ladderEvent .w0Access).clearHalted n) :=
  congrArg _ (State.w0Write_open h _ _)

/-- Settles O19. -/
theorem ringIndexWrites : Obligations.RingIndexWrites := by
  intro s n value bytes
  refine ⟨fun words h1 h2 h3 h4 => exec_pad ⟨h1, h2, h3, h4⟩, fun h hv hlo hhi => ?_, fun h hv hout => ?_, fun h hv hin => ?_,
    fun h hv hout => ?_, fun h => exec_crStatusHaltedClear h n⟩
  · rw [exec_crCmdTailWrite h, State.setTail_inRange hv (by simpa using hlo) (by simpa using hhi)]
  · rw [exec_crCmdTailWrite h, State.setTail_outOfRange hv (by simpa using hout)]
  · rw [exec_crCplHeadWrite h, State.setCplHead_inRange hv (by simpa using hin)]
  · rw [exec_crCplHeadWrite h, State.setCplHead_outOfRange hv (by simpa using hout)]

/-! ### ENABLE of a ring (R293) -/

@[simp] theorem State.ladderEvent_inProgress {s : State} {e : LadderEvent} {n : Nat} :
    (s.ladderEvent e).inProgress n = s.inProgress n := by
  unfold State.inProgress
  rw [State.ladderEvent_host]

@[simp] theorem State.sweepSessions_ring (s : State) (n : Nat) : s.sweepSessions.ring n = s.ring n := rfl
@[simp] theorem State.sweepSessions_mem (s : State) : s.sweepSessions.host.mem = s.host.mem := rfl
@[simp] theorem State.modRing_inProgress (s : State) (n k : Nat) (f : CmdRing → CmdRing) :
    (s.modRing n f).inProgress k = s.inProgress k := rfl

/-- The registers of ring `n` once a state differs from another in that ring alone, and neither memory is touched. -/
def RingOnly (s t : State) (n : Nat) (r : CmdRing) : Prop :=
  (∀ m, m ≠ n → t.ring m = s.ring m) ∧ t.host.mem = s.host.mem ∧ t.hbm = s.hbm ∧ t.ring n = r

theorem State.modRing_only (s : State) (n : Nat) (f : CmdRing → CmdRing) : RingOnly s (s.modRing n f) n (f (s.ring n)) :=
  ⟨fun _ hm => by rw [State.ring_modRing, if_neg hm], rfl, rfl, State.ring_modRing_self⟩

theorem RingOnly.modRing {s t : State} {n : Nat} {r : CmdRing} (h : RingOnly s t n r) (f : CmdRing → CmdRing) :
    RingOnly s (t.modRing n f) n (f r) := by
  obtain ⟨h1, h2, h3, h4⟩ := h
  obtain ⟨k1, k2, k3, k4⟩ := t.modRing_only n f
  exact ⟨fun m hm => (k1 m hm).trans (h1 m hm), k2.trans h2, k3.trans h3, by rw [k4, h4]⟩

theorem RingOnly.sweepSessions {s t : State} {n : Nat} {r : CmdRing} (h : RingOnly s t n r) : RingOnly s t.sweepSessions n r := h

/-- The effect of ENABLE on a ring's registers: sizes first, then either the reset of its indices or CONFIG_ERR. -/
def CmdRing.enabled (r : CmdRing) (idle : Prop) [Decidable idle] (value : Nat) : CmdRing :=
  let r := { r with cmdLog2 := bitsOf value 8 5, cplLog2 := bitsOf value 16 4 }
  if idle ∧ 12 ≤ r.cmdLog2 ∧ r.cmdLog2 ≤ 22 ∧ 4 ≤ r.cplLog2 ∧ r.cplLog2 ≤ 14 then
    { r with enable := true, cmdTail := 0, cmdHead := 0, cplHead := 0, cplTail := 0, seq := 0, bound := none }
  else { r with configErr := true }

theorem State.setCtrl_enabled {s : State} {n value : Nat} (hb : bitOf value 0 = true) (he : (s.ring n).enable = true) :
    s.setCtrl n value = s := by
  simp [State.setCtrl, hb, he]

theorem State.setCtrl_enable_only {s : State} {n value : Nat} (hb : bitOf value 0 = true) (he : (s.ring n).enable = false) :
    RingOnly s (s.setCtrl n value) n ((s.ring n).enabled (s.inProgress n = 0) value) := by
  have hsize := s.modRing_only n (fun r => { r with cmdLog2 := bitsOf value 8 5, cplLog2 := bitsOf value 16 4 })
  simp only [State.setCtrl, hb, he, CmdRing.enabled, if_true, Bool.false_eq_true, if_false, State.modRing_inProgress,
    State.ring_modRing_self]
  split
  · exact (hsize.modRing _).sweepSessions
  · have hcfg := hsize.modRing (fun r => { r with configErr := true })
    rwa [he] at hcfg

theorem State.setCtrl_disable_only {s : State} {n value : Nat} (hb : bitOf value 0 = false) (he : (s.ring n).enable = true) :
    RingOnly s (s.setCtrl n value) n
      { s.ring n with enable := false, bound := if s.inProgress n = 0 then none else (s.ring n).bound } := by
  have hoff := s.modRing_only n (fun r => { r with enable := false })
  simp only [State.setCtrl, hb, he, Bool.false_eq_true, if_false, if_true, State.quiesceRing, State.ring_modRing_self,
    State.modRing_inProgress, false_or]
  by_cases hidle : s.inProgress n = 0
  · simpa [hidle] using (hoff.modRing (fun r => { r with bound := none })).sweepSessions
  · simpa [hidle] using hoff.sweepSessions

theorem RingOnly.of_ladderEvent {s t : State} {e : LadderEvent} {n : Nat} {r : CmdRing} (h : RingOnly (s.ladderEvent e) t n r) :
    RingOnly s t n r := by
  simpa [RingOnly] using h

/-- The value written to set ENABLE has bit 0 set and the sizes of the value given. -/
theorem ctrlSet_fields (value : Nat) : bitOf (value / 2 * 2 + 1) 0 = true ∧ bitsOf (value / 2 * 2 + 1) 8 5 = bitsOf value 8 5 ∧
    bitsOf (value / 2 * 2 + 1) 16 4 = bitsOf value 16 4 := by
  simp only [bitOf_eq, bitsOf_eq, decide_eq_true_eq]
  omega

theorem ctrlClear_bit (a b : Nat) : bitOf (packFields [(8, 5, a), (16, 4, b)]) 0 = false := by
  simp only [bitOf_eq, packFields, List.foldl_cons, List.foldl_nil, decide_eq_false_iff_not]
  omega

theorem CmdRing.enabled_ctrlSet (r : CmdRing) (idle : Prop) [Decidable idle] (value : Nat) :
    r.enabled idle (value / 2 * 2 + 1) = r.enabled idle value := by
  obtain ⟨_, h1, h2⟩ := ctrlSet_fields value
  unfold CmdRing.enabled
  rw [h1, h2]

theorem exec_crCtrlEnableSet {s : State} (h : s.w0Open = true) (n value : Nat) :
    exec (.crCtrlEnableSet n value) s = .next ((s.ladderEvent .w0Access).setCtrl n (value / 2 * 2 + 1)) :=
  congrArg _ (State.w0Write_open h _ _)

theorem exec_crCtrlEnableClear {s : State} (h : s.w0Open = true) (n : Nat) :
    exec (.crCtrlEnableClear n) s = .next ((s.ladderEvent .w0Access).setCtrl n
      (packFields [(8, 5, (s.ring n).cmdLog2), (16, 4, (s.ring n).cplLog2)])) := by
  refine congrArg Host.Outcome.next ((State.w0Write_open h _ _).trans ?_)
  rw [State.ladderEvent_ring]

/-- Settles O20: `RingOnly` carries the frame through the writes of CR_CTRL. -/
theorem ringEnableWrites : Obligations.RingEnableWrites := by
  intro s n value h
  obtain ⟨hbit, _⟩ := ctrlSet_fields value
  refine ⟨fun he => ?_, fun he => ⟨_, exec_crCtrlEnableSet h n value, ?_⟩, fun he => ⟨_, exec_crCtrlEnableClear h n, ?_⟩⟩
  · rw [exec_crCtrlEnableSet h, State.setCtrl_enabled hbit (by simpa using he)]
  · have hset := State.setCtrl_enable_only (s := s.ladderEvent .w0Access) (n := n) hbit (by simpa using he)
    rw [CmdRing.enabled_ctrlSet, State.ladderEvent_inProgress, State.ladderEvent_ring] at hset
    exact hset.of_ladderEvent
  · have hclear := State.setCtrl_disable_only (s := s.ladderEvent .w0Access) (n := n)
      (ctrlClear_bit (s.ring n).cmdLog2 (s.ring n).cplLog2) (by simpa using he)
    rw [State.ladderEvent_inProgress, State.ladderEvent_ring] at hclear
    exact hclear.of_ladderEvent

/-! ### Flow doorbells (R215) -/

/-- The queue belongs to a pasture whose state takes doorbells. -/
def State.queueHeld (s : State) (q : Nat) : Prop :=
  ∃ p, s.queueOwner q = some p ∧ s.pstate p ∈ [PState.loaded, .running, .stepping, .frozen]

theorem PState.doorbell_iff (x : PState) : x.doorbell = true ↔ x ∈ [PState.loaded, .running, .stepping, .frozen] := by
  cases x <;> decide

theorem State.doorbell_of_held {s : State} {q value : Nat} (hh : s.queueHeld q) (hv : value < 2 ^ 32)
    (hok : (s.queue q).doorbellOk value = true) : s.doorbell q 8 value =
      if (s.queue q).role = roleHostIn then
        let w := s.modQueue q (fun x => { x with tail := value, highWater := max x.highWater (wrapSub 32 value x.head) })
        if (s.queue q).count = 0 ∧ value ≠ (s.queue q).head then w.queueEvent q else w
      else
        let w := s.modQueue q (fun x => { x with head := value })
        if value = (s.queue q).head then w else w.headAdvanced q := by
  obtain ⟨p, hp, hst⟩ := hh
  have hheld : (s.pstate p).doorbell = true := (PState.doorbell_iff _).mpr hst
  have hlt : ¬ value ≥ 2 ^ 32 := by omega
  simp only [State.doorbell, hp, hheld, hok, hlt, ne_eq, not_true_eq_false, or_self, if_false]

theorem State.doorbell_hostIn {s : State} {q value : Nat} (hh : s.queueHeld q) (hv : value < 2 ^ 32)
    (hr : (s.queue q).role = roleHostIn) (hlo : (s.queue q).count ≤ wrapSub 32 value (s.queue q).head)
    (hhi : wrapSub 32 value (s.queue q).head ≤ (s.queue q).cap) :
    s.doorbell q 8 value = (
      let w := s.modQueue q (fun x => { x with tail := value, highWater := max x.highWater (wrapSub 32 value x.head) })
      if (s.queue q).count = 0 ∧ value ≠ (s.queue q).head then w.queueEvent q else w) := by
  rw [State.doorbell_of_held hh hv (by simp [Queue.doorbellOk, hr, hlo, hhi]), if_pos hr]

theorem State.doorbell_hostOut {s : State} {q value : Nat} (hh : s.queueHeld q) (hv : value < 2 ^ 32)
    (hr : (s.queue q).role = roleHostOut) (hle : wrapSub 32 value (s.queue q).head ≤ (s.queue q).count) :
    s.doorbell q 8 value = (
      let w := s.modQueue q (fun x => { x with head := value })
      if value = (s.queue q).head then w else w.headAdvanced q) := by
  have hne : (s.queue q).role ≠ roleHostIn := by rw [hr]; decide
  have hok : (s.queue q).doorbellOk value = true := by
    unfold Queue.doorbellOk
    rw [if_neg hne, if_pos hr]
    exact decide_eq_true hle
  rw [State.doorbell_of_held hh hv hok, if_neg hne]

theorem Queue.doorbellOk_false {d : Queue} {v : Nat} (h : (d.role ≠ roleHostIn ∧ d.role ≠ roleHostOut) ∨
      (d.role = roleHostIn ∧ (wrapSub 32 v d.head < d.count ∨ d.cap < wrapSub 32 v d.head)) ∨
      (d.role = roleHostOut ∧ d.count < wrapSub 32 v d.head)) : d.doorbellOk v = false := by
  unfold Queue.doorbellOk
  rcases h with ⟨h1, h2⟩ | ⟨h1, h2⟩ | ⟨h1, h2⟩
  · simp [h1, h2]
  · rw [if_pos h1]
    simp only [Bool.and_eq_false_iff, decide_eq_false_iff_not]
    omega
  · rw [if_neg (by rw [h1]; decide), if_pos h1]
    simpa using h2

theorem State.doorbell_reject {s : State} {q size value : Nat}
    (h : ¬ s.queueHeld q ∨ size ≠ 8 ∨ 2 ^ 32 ≤ value ∨ (s.queue q).doorbellOk value = false) :
    s.doorbell q size value = s.modQueue q (fun x => { x with dbReject := satTo 16 (x.dbReject + 1) }) := by
  unfold State.doorbell
  dsimp only
  rw [if_pos]
  rcases h with h | h | h | h
  · refine .inr (.inr (.inl ?_))
    cases hp : s.queueOwner q with
    | none => simp
    | some p => exact fun hst => h ⟨p, hp, (PState.doorbell_iff _).mp hst⟩
  · exact .inl h
  · exact .inr (.inl h)
  · exact .inr (.inr (.inr (by simp [h])))

theorem exec_flowDoorbellWrite {s : State} (h : s.w0Open = true) (q size value : Nat) :
    exec (.flowDoorbellWrite q size value) s = .next ((s.ladderEvent .doorbell).doorbell q size value) :=
  congrArg _ (State.w0Write_open h _ _)

theorem State.ladderEvent_queueHeld {s : State} {e : LadderEvent} {q : Nat} : (s.ladderEvent e).queueHeld q ↔ s.queueHeld q := by
  simp [State.queueHeld]

/-- Settles O21. -/
theorem flowDoorbells : Obligations.FlowDoorbells := by
  intro s q size value h
  dsimp only
  have held : (s.ladderEvent .doorbell).queueHeld q ↔ s.queueHeld q := State.ladderEvent_queueHeld
  refine ⟨fun hh hs hv hr hlo hhi => ?_, fun hh hs hv hr hle => ?_, fun hbad => ?_⟩
  · subst hs
    rw [exec_flowDoorbellWrite h, State.doorbell_hostIn (held.mpr hh) hv (by simpa using hr) (by simpa using hlo)
      (by simpa using hhi), State.ladderEvent_queue]
  · subst hs
    rw [exec_flowDoorbellWrite h, State.doorbell_hostOut (held.mpr hh) hv (by simpa using hr) (by simpa using hle),
      State.ladderEvent_queue]
  · rw [exec_flowDoorbellWrite h, State.doorbell_reject]
    rw [State.ladderEvent_queue]
    rcases hbad with hbad | hbad | hbad | hbad
    · exact .inl fun hh => hbad (held.mp hh)
    · exact .inr (.inl hbad)
    · exact .inr (.inr (.inl hbad))
    · exact .inr (.inr (.inr (Queue.doorbellOk_false hbad)))

/-! ### The other registers (R196, R290, R366, R423, R454) -/

theorem leNat_leBytes (n x : Nat) : leNat (leBytes n x) = x % 256 ^ n := by
  induction n generalizing x with
  | zero => simp [leBytes, leNat, Nat.mod_one]
  | succ n ih =>
    rw [leBytes, leNat, ih, Nat.pow_succ', Nat.mod_mul]
    simp

/-- A whole register written is the value written. -/
theorem mergeWrite_whole (old value : Nat) : mergeWrite old 0 8 value = value % 2 ^ 64 := by
  have h : (List.range 8).map (fun i => if 0 ≤ i ∧ i < 0 + 8 then (leBytes 8 value).getD (i - 0) 0 else (leBytes 8 old).getD i 0) =
      leBytes 8 value := rfl
  unfold mergeWrite
  rw [h, leNat_leBytes, show (256 : Nat) ^ 8 = 2 ^ 64 from rfl]

theorem State.clearAssert_assert (s : State) (p : Nat) :
    ((s.clearAssert p).pas p).assert = { (s.pas p).assert with valid := false, count := 0 } := by
  simp [State.clearAssert, State.pas_modSpan]

theorem State.clearAssert_pas_ne (s : State) {p q : Nat} (h : q ≠ p) : (s.clearAssert p).pas q = s.pas q := by
  simp [State.clearAssert, State.pas_modSpan, State.pas_modPas, h]

theorem State.diagOpen_iff (s : State) : s.diagOpen = true ↔ s.fuses.lcState ∈ [0, 3] := by
  simp [State.diagOpen, lcBlank, lcReturn]

theorem exec_registerWrite_closed {s : State} (h : s.w0Open = false) (offset size value : Nat) :
    exec (.registerWrite offset size value) s = .next s := if_pos (by simp [h])

theorem exec_registerWrite_outside {s : State} {offset : Nat} (h : s.w0Open = true) (ho : 0x400000 ≤ offset)
    (size value : Nat) : exec (.registerWrite offset size value) s = .next s.logUr :=
  (if_neg (by simp [h])).trans (if_pos ho)

theorem exec_registerWrite_badAccess {s : State} {offset size : Nat} (h : s.w0Open = true) (ho : offset < 0x400000)
    (hs : (size ≠ 4 ∧ size ≠ 8) ∨ offset % size ≠ 0) (value : Nat) :
    exec (.registerWrite offset size value) s = .next ((s.ladderEvent .w0Access).devEvent evBadAccess) := by
  change execRegisterWrite offset size value s = _
  rw [execRegisterWrite, if_neg (by simp [h]), if_neg (by omega), if_pos hs, State.w0Write_open h]

theorem exec_registerWrite_window {s : State} {offset size : Nat} (h : s.w0Open = true) (hlo : 0x100000 ≤ offset)
    (hhi : offset < 0x400000) (hs : ¬ ((size ≠ 4 ∧ size ≠ 8) ∨ offset % size ≠ 0)) (value : Nat) :
    exec (.registerWrite offset size value) s =
      if s.diagOpen then (s.ladderEvent .w0Access).windowWrite offset (value % 2 ^ (8 * size)) else .next (s.ladderEvent .w0Access) := by
  change execRegisterWrite offset size value s = _
  rw [execRegisterWrite, if_neg (by simp [h]), if_neg (by omega), if_neg hs, if_pos hlo]

theorem exec_registerWrite_register {s : State} {offset size : Nat} (h : s.w0Open = true) (ho : offset < 0x100000)
    (hs : ¬ ((size ≠ 4 ∧ size ≠ 8) ∨ offset % size ≠ 0)) (value : Nat) :
    exec (.registerWrite offset size value) s =
      .next ((s.ladderEvent (w0Event offset)).writeW0 offset size (value % 2 ^ (8 * size))) := by
  change execRegisterWrite offset size value s = _
  rw [execRegisterWrite, if_neg (by simp [h]), if_neg (by omega), if_neg hs, if_neg (by omega), State.w0Write_open h]

theorem State.writeW0_events (s : State) {value : Nat} (hv : value < 2 ^ 64) :
    s.writeW0 0x048 8 value = s.modDev (fun d => { d with events := d.events &&& ~~~(BitVec.ofNat 9 value) }) := by
  have h : s.writeW0 0x048 8 value = s.modDev (fun d => { d with events := clearBits d.events (mergeWrite 0 0 8 value) }) := rfl
  rw [h, mergeWrite_whole, Nat.mod_eq_of_lt hv]
  rfl

theorem exec_assertValidClear {s : State} (h : s.w0Open = true) (p : Nat) :
    exec (.assertValidClear p) s = .next ((s.ladderEvent .w0Access).clearAssert p) := congrArg _ (State.w0Write_open h _ _)

theorem exec_w0BadAccess {s : State} (h : s.w0Open = true) (write : Bool) :
    exec (.w0BadAccess write) s = .next ((s.ladderEvent .w0Access).devEvent evBadAccess) := congrArg _ (State.w0Write_open h _ _)

theorem accessServed {offset size : Nat} (hs : size = 4 ∨ size = 8) (ha : offset % size = 0) :
    ¬ ((size ≠ 4 ∧ size ≠ 8) ∨ offset % size ≠ 0) := by omega

/-- Settles O22. -/
theorem registerWrites : Obligations.RegisterWrites := by
  intro s p offset size value b
  refine ⟨fun h => ⟨_, exec_assertValidClear h p, ?_, fun q hq => ?_, State.ladderEvent_hbm, rfl⟩, fun h => exec_w0BadAccess h b,
    fun h ho hs => exec_registerWrite_badAccess h ho hs value, fun h hv => ?_,
    fun h => exec_registerWrite_closed h offset size value, fun h ho => exec_registerWrite_outside h ho size value,
    fun h hlo hhi hs ha hv => ⟨fun hlc => ?_, fun hlc => ?_⟩, fun h ho hs ha hv => ?_⟩
  · rw [State.clearAssert_assert, State.ladderEvent_pas]
  · rw [State.clearAssert_pas_ne _ hq, State.ladderEvent_pas]
  · rw [exec_registerWrite_register h (by decide) (by decide), Nat.mod_eq_of_lt hv, State.writeW0_events _ hv]
    rfl
  · rw [exec_registerWrite_window h hlo hhi (accessServed hs ha), if_neg (by rwa [State.diagOpen_iff])]
  · rw [exec_registerWrite_window h hlo hhi (accessServed hs ha), if_pos (s.diagOpen_iff.mpr hlc), Nat.mod_eq_of_lt hv]
    rfl
  · rw [exec_registerWrite_register h ho (accessServed hs ha), Nat.mod_eq_of_lt hv]

/-! ### Nothing else stops (R423, R454) -/

theorem State.windowWrite_cases (s : State) (offset value : Nat) : (∃ t, s.windowWrite offset value = .next t) ∨
    (Config.windowOverride offset value = none ∧ s.windowWrite offset value = .refused .diagnosticWindow) := by
  unfold State.windowWrite
  cases Config.windowOverride offset value with
  | some i => exact .inl ⟨_, rfl⟩
  | none => exact .inr ⟨rfl, rfl⟩

/-- Settles O23: every other command answers a next state by its definition, and a register write does so on every path but one. -/
theorem nothingElseStops : Obligations.NothingElseStops := by
  intro c s
  by_cases hc : ∀ offset size value, c ≠ .registerWrite offset size value
  · exact .inl (exec_next hc s)
  · push Not at hc
    obtain ⟨offset, size, value, rfl⟩ := hc
    cases hw : s.w0Open with
    | false => exact .inl ⟨_, exec_registerWrite_closed hw offset size value⟩
    | true =>
      by_cases hbar : 0x400000 ≤ offset
      · exact .inl ⟨_, exec_registerWrite_outside hw hbar size value⟩
      by_cases hbad : (size ≠ 4 ∧ size ≠ 8) ∨ offset % size ≠ 0
      · exact .inl ⟨_, exec_registerWrite_badAccess hw (by omega) hbad value⟩
      by_cases hwin : 0x100000 ≤ offset
      · rw [exec_registerWrite_window hw hwin (by omega) hbad]
        cases hd : s.diagOpen with
        | false => exact .inl ⟨_, rfl⟩
        | true =>
          obtain ⟨t, ht⟩ | ⟨hnone, href⟩ := (s.ladderEvent .w0Access).windowWrite_cases offset (value % 2 ^ (8 * size))
          · exact .inl ⟨t, ht⟩
          · exact .inr ⟨offset, size, value, rfl, hwin, by omega, rfl, rfl, hnone, href⟩
      · exact .inl ⟨_, exec_registerWrite_register hw (by omega) hbad value⟩

end Sys2Proof.Machine
end

section
/-!
# Command packets of the device: a card whose checks pass runs (Tables 11-13 to 11-15)

Each card is a list of checks and an effect. The two lemmas below take a packet that is taken to the effect of its card; a statement about
one command then names the proof that its checks pass.
-/

namespace Sys2Proof.Machine

open Sys2Proof

/-! ### A card whose checks pass -/

/-- A device command that is taken ends as its card's run does. -/
theorem State.runCard_device_eq {s t : State} {c : Cmd} {card : Card} {ms : List Mode} {needs : Bool}
    (h : takesDevice s c ms needs) (hm : takenIn card.modes ms = true)
    (hcard : card.session = needs ∧ card.names = false ∧ card.waits = false) (hl : card.lengthOk c.params = true)
    (hrun : card.run c (cmdOf s c card.opcode) (taken s c card.opcode) = t) : s.runCard card c = t := by
  obtain ⟨hs, hn, hw⟩ := hcard
  rw [runCard_device h hm hs hn hw hl, hrun]

/-- A command of a pasture that is taken ends as its card's run does. -/
theorem State.runCard_pasture_eq {s t : State} {c : Cmd} {card : Card} (h : takesPasture s c)
    (hcard : takenIn card.modes [.service, .emulate] = true ∧ card.names = true)
    (hw : card.waits = true → s.pstate c.pasture ≠ .recovering) (hl : card.lengthOk c.params = true)
    (hrun : card.run c (cmdOf s c card.opcode) (taken s c card.opcode) = t) : s.runCard card c = t := by
  obtain ⟨hm, hn⟩ := hcard
  rw [runCard_pasture h hm hn hw hl, hrun]

theorem lenIs_of_length {n : Nat} {bs : List Byte} (h : bs.length = n) : lenIs n bs = true := by simp [lenIs, h]

/-! ### Fields that are zero -/

theorem paramZero_iff {c : Cmd} {lo n : Nat} : paramZero c lo n ↔ ∀ i < n, c.params.getD (lo + i) 0 = 0 := by
  refine ⟨fun h i hi => paramZero_getD h i hi, fun h => ?_⟩
  unfold paramZero zeroAt
  rw [List.all_eq_true]
  intro x hx
  obtain ⟨i, hi, rfl⟩ := List.getElem_of_mem hx
  have hin : i < n := by rwa [slice_length] at hi
  have hz := h i hin
  rw [← slice_getD c.params lo n i hin, List.getD_eq_getElem?_getD, List.getElem?_eq_getElem hi] at hz
  simpa using hz

/-- Two fields side by side that are zero are one. -/
theorem paramZero_join {c : Cmd} {lo n m : Nat} (h : paramZero c lo n) (k : paramZero c (lo + n) m) : paramZero c lo (n + m) := by
  rw [paramZero_iff] at *
  intro i hi
  by_cases hin : i < n
  · exact h i hin
  · have := k (i - n) (by omega)
    rwa [show lo + n + (i - n) = lo + i by omega] at this

theorem leNat_eq_zero {bs : List Byte} (h : ∀ b ∈ bs, b = 0) : leNat bs = 0 := by
  induction bs with
  | nil => rfl
  | cons b r ih =>
    rw [leNat, ih fun x hx => h x (List.mem_cons_of_mem _ hx), h b List.mem_cons_self]
    rfl

theorem param_eq_zero {c : Cmd} {o n : Nat} (h : paramZero c o n) : param c o n = 0 :=
  leNat_eq_zero fun b hb => by simpa using List.all_eq_true.mp h b hb

/-! ### The identity and the time base (Table 11-13, R378, R379) -/

/-- Settles O3. -/
theorem identityAndTimeCommandsComplete : Obligations.IdentityAndTimeCommandsComplete := by
  refine ⟨fun s c => ⟨fun h hl hz hr => ?_, fun h hl => ?_, fun h hl hz hr => ?_⟩, fun s c h hl hz => ⟨fun h0 hs => ?_, fun h0 hs => ?_,
    fun hlo hhi => ?_⟩⟩
  · refine congrArg Host.Outcome.next (State.runCard_device_eq (card := deviceInfoCard) h (by decide) ⟨rfl, rfl, rfl⟩ (lenIs_of_length hl) ?_)
    dsimp only [deviceInfoCard]
    exact checked_ok (append_ok (reservedZero_ok hz) (resultChecks_ok hr))
  · exact congrArg Host.Outcome.next (State.runCard_device_eq (card := echoCard) h (by decide) ⟨rfl, rfl, rfl⟩ (lenIs_of_length hl) rfl)
  · refine congrArg Host.Outcome.next (State.runCard_device_eq (card := laneStatusCard) h (by decide) ⟨rfl, rfl, rfl⟩ (lenIs_of_length hl) ?_)
    dsimp only [laneStatusCard]
    exact checked_ok (append_ok (reservedZero_ok hz) (resultChecks_ok hr))
  · refine congrArg Host.Outcome.next (State.runCard_device_eq (card := timeAcceptCard) h (by decide) ⟨rfl, rfl, rfl⟩ (lenIs_of_length hl) ?_)
    dsimp only [timeAcceptCard]
    rw [checked_ok (reservedZero_ok (paramZero_join h0 hz)), if_pos (by exact hs)]
  · refine congrArg Host.Outcome.next (State.runCard_device_eq (card := timeAcceptCard) h (by decide) ⟨rfl, rfl, rfl⟩ (lenIs_of_length hl) ?_)
    dsimp only [timeAcceptCard]
    rw [checked_ok (reservedZero_ok (paramZero_join h0 hz)), if_neg (by exact hs)]
  · have hrange : (fieldAt c.params 0 4 == 0 || decide (1000000000 < fieldAt c.params 0 4)) = false := by
      unfold param at hlo hhi
      simp only [Bool.or_eq_false_iff, beq_eq_false_iff_ne, decide_eq_false_iff_not]
      omega
    refine congrArg Host.Outcome.next (State.runCard_device_eq (card := timeConfigCard) h (by decide) ⟨rfl, rfl, rfl⟩ (lenIs_of_length hl) ?_)
    dsimp only [timeConfigCard]
    exact checked_ok (append_ok (reservedZero_ok hz) (range_ok hrange nil_ok))

/-! ### Firmware (R425, R426, R460) -/

theorem State.lcIs_eq_false {s : State} {l : List Nat} (h : ∀ x ∈ l, s.fuses.lcState ≠ x) : s.lcIs l = false := by
  unfold State.lcIs
  simpa using fun hmem => h _ hmem rfl

theorem State.stageJudge_eq (s : State) (g : Prog) : s.stageJudge g =
    if fwVerifies s.flash.inactive.bytes = false then s.complete g 0x040A []
    else if fieldAt s.flash.inactive.bytes 8 4 < s.fuses.svnMin then s.complete g 0x040F []
    else State.complete { s with flash := { s.flash.modInactive FwSlot.verified with staged := true } } g 0 [] := by
  unfold State.stageJudge
  simp only [Bool.not_eq_true]

theorem State.activateFw_eq {s : State} (h : s.dev.mode ∈ [Mode.service, .emulate]) :
    s.activateFw = State.beginRestart { s with flash := { s.flash with preferB := !s.flash.activeB } } 0 := by
  refine if_neg fun hm => ?_
  rw [hm] at h
  exact absurd h (by decide)

/-- Settles O4. -/
theorem firmwareCommandsComplete : Obligations.FirmwareCommandsComplete := by
  refine fun s c => ⟨fun h hlo hhi hz ho ht hmax hlc => ?_, fun h hl hz hst => ?_⟩
  · have hchecks : ∀ x ∈ reservedZero c 8 8 ++ [rangeCheck (fieldAt c.params 0 4 % 65536 != 0 ||
        decide (fieldAt c.params 4 4 ≤ fieldAt c.params 0 4)) 0, rangeCheck (decide (maxImage < fieldAt c.params 4 4)) 4,
        stateCheck (s.lcIs [lcEnded]) 0x0413], x.1 = false := by
      unfold param at ho ht hmax
      refine append_ok (reservedZero_ok hz) (range_ok ?_ (range_ok ?_ (state_ok (State.lcIs_eq_false ?_) nil_ok)))
      · simp [ho, ht]
      · exact decide_eq_false (by unfold maxImage; omega)
      · simpa [lcEnded] using hlc
    refine congrArg Host.Outcome.next (State.runCard_device_eq (card := fwStageCard) h (by decide) ⟨rfl, rfl, rfl⟩ (by simp [fwStageCard, hlo, hhi]) ?_)
    dsimp only [fwStageCard]
    refine (checked_ok hchecks).trans ?_
    unfold param
    by_cases hlast : fieldAt c.params 0 4 + (c.params.drop 16).length < fieldAt c.params 4 4
    · rw [if_pos hlast, if_neg (by omega)]
    · rw [if_neg hlast, if_pos (by omega), State.stageJudge_eq]
      rfl
  · obtain ⟨_, hmode, _⟩ := id h
    refine congrArg Host.Outcome.next (State.runCard_device_eq (card := fwActivateCard) h (by decide) ⟨rfl, rfl, rfl⟩ (lenIs_of_length hl) ?_)
    dsimp only [fwActivateCard]
    rw [checked_ok (append_ok (reservedZero_ok hz) (state_ok (by simp [hst]) nil_ok))]
    exact State.activateFw_eq hmode

/-! ### WIPE and LC_TRANSITION (R422, R424) -/

/-- Every check of LC_TRANSITION but that of the signature passes: the signature decides. -/
theorem lcTransitionCard_run_signature {s : State} {c : Cmd} (g : Prog) (hz : paramZero c 2 6) (hsigner : param c 1 1 ≤ 1)
    (hkey : param c 1 1 = 1 → paramZero c 8 96) (hlive : s.anyLive = false) (hended : s.fuses.lcState ≠ 4)
    (hto : (lcSigner s.fuses.lcState (param c 0 1)).isSome = true)
    (hreturns : ¬ (s.fuses.lcState = 2 ∧ param c 0 1 = 3 ∧ 4 ≤ s.fuses.returns)) :
    lcTransitionCard.run c g s =
      if s.lcAuthentic (param c 0 1) (param c 1 1) (slice c.params 8 96) (slice c.params 104 96) = true then
        (s.complete g 0 []).enterErase (.lifeCycle (param c 0 1) (slice c.params 8 96))
      else s.complete g 0x040B [] := by
  have hown : ∀ x ∈ (if param c 1 1 = 1 then reservedZero c 8 96 else []), x.1 = false := by
    split_ifs with h
    · exact reservedZero_ok (hkey h)
    · exact nil_ok
  have hlcEnded : s.lcIs [lcEnded] = false := State.lcIs_eq_false (by simpa [lcEnded] using hended)
  have hcount : (s.fuses.lcState == lcField && param c 0 1 == lcReturn && decide (4 ≤ s.fuses.returns)) = false := by
    simpa [lcField, lcReturn] using fun h2 h3 h4 => hreturns ⟨h2, h3, h4⟩
  rw [lcTransitionCard_run, State.checked_append s g _ (append_ok (reservedZero_ok hz) hown),
    State.checked_append s g _ (range_ok (by simpa using hsigner) (state_ok (by simp [hlcEnded, hto]) nil_ok))]
  rw [show ∀ (l : List Check) (x : Check), x :: l = [x] ++ l from fun _ _ => rfl,
    State.checked_append s g _ (state_ok hlive nil_ok)]
  unfold lcLateChecks
  rw [show ∀ (x y z : Check), [x, y, z] = [x, y] ++ [z] from fun _ _ _ => rfl,
    State.checked_append s g _ (state_ok (by simp [hto]) (state_ok hcount nil_ok))]
  split_ifs with hsig
  · exact checked_ok (state_ok (by simp [hsig]) nil_ok)
  · exact State.checked_stateCheck s g _ [] (by simp [hsig]) (by decide)

/-- Settles O5. -/
theorem wipeAndTransitionEnterErase : Obligations.WipeAndTransitionEnterErase := by
  refine fun s c => ⟨fun h hl hz hlive => ?_, fun h hl hz hsigner hkey hlive hended hto hreturns => ?_⟩
  · refine congrArg Host.Outcome.next (State.runCard_device_eq (card := wipeCard) h (by decide) ⟨rfl, rfl, rfl⟩ (lenIs_of_length hl) ?_)
    rw [wipeCard_run]
    exact checked_ok (append_ok (reservedZero_ok hz) (state_ok hlive nil_ok))
  · exact congrArg Host.Outcome.next (State.runCard_device_eq (card := lcTransitionCard) h (by decide) ⟨rfl, rfl, rfl⟩ (lenIs_of_length hl)
      (lcTransitionCard_run_signature _ hz hsigner hkey hlive hended hto hreturns))

end Sys2Proof.Machine
end

section
/-!
# Command packets of the device, continued: power, trace, links, edge regions, sessions (R336, R352, R396, R413–R417, R440–R444, R469–R473)
-/

namespace Sys2Proof.Machine

open Sys2Proof

/-! ### Power (R440, R441, R444) -/

theorem State.selectLadder_step (s : State) {n : Nat} (h : n < 4) : s.selectLadder n = s.enterLadder n := by
  unfold State.selectLadder
  rw [if_neg (by omega), if_neg (by omega)]

theorem powerCapCard_eq {s : State} {c : Cmd} (h : takesDevice s c [.service, .emulate, .minimal] false)
    (hl : c.params.length = 8) (hz : paramZero c 2 6) (hw : param c 0 2 = 0 ∨ (300 ≤ param c 0 2 ∧ param c 0 2 ≤ 1000)) :
    s.runCard powerCapCard c = (
      let t := (taken s c 0x0901).modPwr (fun x => { x with cap := param c 0 2 })
      let t := if param c 0 2 = 0 then
          (List.range 4).foldl (fun t d => t.modDie d (fun x => { x with powCap := maxMhz }))
            (t.modPwr (fun x => { x with capUnmet := false }))
        else t
      t.settleClocks.complete (cmdOf s c 0x0901) 0 []) := by
  refine State.runCard_device_eq (card := powerCapCard) h (by decide) ⟨rfl, rfl, rfl⟩ (lenIs_of_length hl) ?_
  dsimp only [powerCapCard]
  refine checked_ok (append_ok (reservedZero_ok hz) (range_ok ?_ nil_ok))
  change (param c 0 2 != 0 && (decide (param c 0 2 < 300) || decide (1000 < param c 0 2))) = false
  simp only [Bool.and_eq_false_iff, Bool.or_eq_false_iff, bne_eq_false_iff_eq, decide_eq_false_iff_not]
  omega

theorem ladderSelectCard_eq {s : State} {c : Cmd} {ms : List Mode} (h : takesDevice s c ms false)
    (hms : takenIn "SM" ms = true) (hl : c.params.length = 8) (hz : paramZero c 1 7) (hn : param c 0 1 ≤ 4 ∨ param c 0 1 = 0xFF)
    (hall : param c 0 1 = 0xFF → s.dev.mode ≠ .minimal) :
    s.runCard ladderSelectCard c = ((taken s c 0x0903).complete (cmdOf s c 0x0903) 0 []).selectLadder (param c 0 1) := by
  refine State.runCard_device_eq (card := ladderSelectCard) h hms ⟨rfl, rfl, rfl⟩ (lenIs_of_length hl) ?_
  dsimp only [ladderSelectCard]
  refine checked_ok (append_ok (reservedZero_ok hz) (range_ok ?_ (state_ok ?_ nil_ok)))
  · change (decide (4 < param c 0 1) && param c 0 1 != 0xFF) = false
    simp only [Bool.and_eq_false_iff, bne_eq_false_iff_eq, decide_eq_false_iff_not]
    omega
  · change (param c 0 1 == 0xFF && s.dev.mode == .minimal) = false
    simpa using hall

/-- Settles O7. -/
theorem powerCommandsComplete : Obligations.PowerCommandsComplete := by
  intro s c hz hl
  have hrest : paramZero c 1 3 → paramZero c 1 7 := fun h => paramZero_join h hz
  refine ⟨fun h h2 hw => ?_, fun h h2 hw => ?_, fun h h1 hd hm => ?_, fun h1 hn h => ?_, fun h1 hn h => ?_, fun h1 hn h => ?_,
    fun h1 hb h hon hok => ?_⟩
  · refine congrArg Host.Outcome.next ((powerCapCard_eq h hl (paramZero_join h2 hz) (.inr hw)).trans ?_)
    dsimp only
    rw [if_neg (by omega)]
  · refine congrArg Host.Outcome.next ((powerCapCard_eq h hl (paramZero_join h2 hz) (.inl hw)).trans ?_)
    dsimp only
    rw [if_pos hw, hw]
    rfl
  · refine congrArg Host.Outcome.next (State.runCard_device_eq (card := clockFloorCard) h (by decide) ⟨rfl, rfl, rfl⟩ (lenIs_of_length hl) ?_)
    dsimp only [clockFloorCard]
    refine checked_ok (append_ok (append_ok (reservedZero_ok h1) (reservedZero_ok hz))
      (range_ok (decide_eq_false (Nat.not_le.mpr hd)) (range_ok ?_ nil_ok)))
    change (param c 2 2 != 0 && (decide (param c 2 2 < 500) || decide (1250 < param c 2 2))) = false
    simp only [Bool.and_eq_false_iff, Bool.or_eq_false_iff, bne_eq_false_iff_eq, decide_eq_false_iff_not]
    omega
  · refine congrArg Host.Outcome.next ((ladderSelectCard_eq h (by decide) hl (hrest h1) (.inl (by omega)) (by omega)).trans ?_)
    exact State.selectLadder_step _ hn
  · refine congrArg Host.Outcome.next ((ladderSelectCard_eq h (by decide) hl (hrest h1) (.inl (by omega)) (by omega)).trans ?_)
    exact if_pos hn
  · obtain ⟨_, hmode, _⟩ := id h
    refine congrArg Host.Outcome.next ((ladderSelectCard_eq h (by decide) hl (hrest h1) (.inr hn) fun _ hmin => ?_).trans ?_)
    · rw [hmin] at hmode
      exact absurd hmode (by decide)
    · exact (if_neg (by omega)).trans (if_pos hn)
  · refine congrArg Host.Outcome.next (State.runCard_device_eq (card := padReleaseCard) h (by decide) ⟨rfl, rfl, rfl⟩ (lenIs_of_length hl) ?_)
    dsimp only [padReleaseCard]
    refine checked_ok (append_ok (reservedZero_ok (hrest h1)) (range_ok (decide_eq_false (Nat.not_le.mpr hb)) (state_ok ?_ nil_ok)))
    change (!((s.domain (602 + param c 0 1)).state == .on) || !(s.bank (param c 0 1)).ok) = false
    simp [hon, hok]

/-! ### The core trace (R336, R469, R470, R473) -/

theorem traceCard_eq {s : State} {c : Cmd} {checks : Cmd → List Check} {act : Cmd → State → State}
    (h : takesDevice s c [.service, .emulate, .minimal] false) (hl : c.params.length = 64) (hok : ∀ x ∈ checks c, x.1 = false) :
    s.runCard (traceCard checks act) c = (act c (taken s c 0x0C01)).complete (cmdOf s c 0x0C01) 0 [] := by
  have hmodes : takenIn "SEM" [.service, .emulate, .minimal] = true := by decide
  refine State.runCard_device_eq (card := traceCard checks act) h hmodes ⟨rfl, rfl, rfl⟩ (lenIs_of_length hl) ?_
  dsimp only [traceCard]
  exact checked_ok hok

/-- Every field of a list lies in a range that is zero. -/
theorem zeroFields_sub {c : Cmd} {l : List (Nat × Nat)} {a n : Nat} (h : paramZero c a n)
    (hl : ∀ f ∈ l, a ≤ f.1 ∧ f.1 + f.2 ≤ a + n) : ∀ x ∈ zeroFields c l, x.1 = false :=
  zeroFields_ok fun f hf => paramZero_sub h (hl f hf).1 (hl f hf).2

theorem armChecks_ok {c : Cmd} (ht : traceTarget c = 0) (ha : traceAction c = 1) (hd : param c 4 1 ≤ 2) (hf : param c 5 1 ≤ 1)
    (hlo : 10 ≤ param c 6 1) (hhi : param c 6 1 ≤ 30) (hz : paramZero c 9 7) (hk : ∀ k < 4, param c (32 + 8 * k) 8 < 2 ^ 54) :
    ∀ x ∈ armChecks c, x.1 = false := by
  have hts : (decide (fieldAt c.params 6 1 < 10) || decide (30 < fieldAt c.params 6 1)) = false := by
    unfold param at hlo hhi
    simp only [Bool.or_eq_false_iff, decide_eq_false_iff_not]
    omega
  refine append_ok (append_ok (range_ok (decide_eq_false (by omega)) (range_ok (decide_eq_false (by omega))
    (range_ok (decide_eq_false (Nat.not_lt.mpr hd)) (range_ok (decide_eq_false (Nat.not_lt.mpr hf)) (range_ok hts nil_ok)))))
    (zeroFields_ok (by simpa using hz))) fun x hx => ?_
  obtain ⟨k, hk4, rfl⟩ := List.mem_map.mp hx
  exact decide_eq_false (Nat.not_le.mpr (hk k (List.mem_range.mp hk4)))

theorem probeChecks_ok {c : Cmd} (ha : traceAction c < 8) (hb : param c 3 1 < 64) (hm : bitsOf (param c 3 1) 1 3 ≠ 7)
    (hz : paramZero c 4 4) (hz' : paramZero c 24 40) : ∀ x ∈ probeChecks c, x.1 = false := by
  have hmode : (decide (64 ≤ fieldAt c.params 3 1) || bitsOf (fieldAt c.params 3 1) 1 3 == 7) = false := by
    unfold param at hb hm
    simpa [hm] using hb
  exact append_ok (range_ok (decide_eq_false (by omega)) (range_ok hmode nil_ok))
    (append_ok (l := zeroFields c [(4, 1), (5, 1), (6, 1), (7, 1)]) (m := zeroFields c [(24, 8), (32, 32)])
      (zeroFields_sub hz (by decide)) (zeroFields_sub hz' (by decide)))

theorem exec_traceArm {c : Cmd} (ht : traceTarget c = 0) (ha : traceAction c = 1) (s : State) :
    exec (.traceArm c) s = .next (s.runCard (traceCard armChecks (fun c s => s.armTrace (traceCfgOf c))) c) :=
  congrArg _ (if_neg (by omega))

theorem exec_traceDisable {c : Cmd} (ht : traceTarget c = 0) (ha : traceAction c = 0) (s : State) :
    exec (.traceDisable c) s =
      .next (s.runCard (traceCard (fun c => zeroFields c [(9, 7)]) (fun _ s => s.traceTo .idle 0xFF)) c) :=
  congrArg _ (if_pos ⟨ht, ha⟩)

theorem exec_traceStop {c : Cmd} (ht : traceTarget c = 0) (ha : traceAction c = 2) (s : State) :
    exec (.traceStop c) s = .next (s.runCard (traceCard (fun c => zeroFields c stopFields)
      (fun _ s => if s.trace.state = .tracing then s.traceTo .stopping 0xFF else s)) c) :=
  congrArg _ (if_pos ⟨ht, ha⟩)

theorem exec_probeConfig {c : Cmd} (ht : traceTarget c = 1) (s : State) :
    exec (.probeConfig c) s = .next (s.runCard (traceCard probeChecks
      (fun c s => s.setProbe (traceAction c) (probeOf c (s.nocProbe (traceAction c))))) c) :=
  congrArg _ (if_pos ht)

/-- Settles O8. -/
theorem traceCommandsComplete : Obligations.TraceCommandsComplete := by
  refine fun s c h => ⟨fun hl ht ha hd hf hlo hhi hz hk => ?_, fun hl ht ha hz => ?_, fun hl ht ha hz hst => ?_,
    fun hl ht ha hb hm hz hz' => ?_, fun hl hz hr ho hn8 hn hend => ?_⟩
  · rw [exec_traceArm ht ha, traceCard_eq h hl (armChecks_ok ht ha hd hf hlo hhi hz hk)]
  · rw [exec_traceDisable ht ha, traceCard_eq h hl (zeroFields_ok (by simpa using hz))]
  · rw [exec_traceStop ht ha, traceCard_eq h hl (zeroFields_sub hz (by decide)), if_pos (by exact hst)]
  · rw [exec_probeConfig ht, traceCard_eq h hl (probeChecks_ok ha hb hm hz hz')]
    rfl
  · refine congrArg Host.Outcome.next (State.runCard_device_eq (card := traceReadCard) h (by decide) ⟨rfl, rfl, rfl⟩ (lenIs_of_length hl) ?_)
    dsimp only [traceReadCard]
    refine checked_ok (append_ok (append_ok (reservedZero_ok hz) (resultChecks_ok hr)) (range_ok ?_ (range_ok ?_ nil_ok)))
    · change (param c 16 4 % 8 != 0 || decide (4194304 ≤ param c 16 4)) = false
      simp only [Bool.or_eq_false_iff, bne_eq_false_iff_eq, decide_eq_false_iff_not]
      omega
    · change (param c 20 4 % 8 != 0 || decide (param c 20 4 < 8) || decide (4194304 < param c 16 4 + param c 20 4)) = false
      simp only [Bool.or_eq_false_iff, bne_eq_false_iff_eq, decide_eq_false_iff_not]
      omega

end Sys2Proof.Machine
end

section
/-!
# Command packets of the device, continued: links, edge regions and sessions (R350–R353, R360, R396, R413–R417)
-/

namespace Sys2Proof.Machine

open Sys2Proof

/-! ### Links (Table 11-13, R350, R352, R353, R360) -/

theorem bringupCard_eq {s : State} {c : Cmd} {act : Nat → State → State} {states : Bool}
    (h : takesDevice s c [.service, .emulate] false) (hl : c.params.length = 8) (hz : paramZero c 2 6) (hp : param c 0 1 < 128)
    (ha : param c 1 1 ≤ 2)
    (hbusy : (states && ((s.portHolder (param c 0 1)).map (fun p => (s.pstate p).evaluates)).getD false) = false) :
    s.runCard (bringupCard act states) c = (act (param c 0 1) (taken s c 0x0701)).complete (cmdOf s c 0x0701) 0 [] := by
  have hmodes : takenIn "SE" [.service, .emulate] = true := by decide
  refine State.runCard_device_eq (card := bringupCard act states) h hmodes ⟨rfl, rfl, rfl⟩ (lenIs_of_length hl) ?_
  dsimp only [bringupCard]
  exact checked_ok (append_ok (append_ok (reservedZero_ok hz) (range_ok (decide_eq_false (Nat.not_le.mpr hp))
    (range_ok (decide_eq_false (Nat.not_lt.mpr ha)) nil_ok))) (state_ok hbusy nil_ok))

theorem exec_laneBringup {c : Cmd} (ha : param c 1 1 = 0) (s : State) :
    exec (.laneBringup c) s = .next (s.runCard (bringupCard (fun p s => s.bringUp p) false) c) := by
  have : ¬ (laneAction c = 1 ∨ laneAction c = 2) := by
    change ¬ (param c 1 1 = 1 ∨ param c 1 1 = 2)
    omega
  exact congrArg _ (if_neg this)

theorem exec_laneRetrain {c : Cmd} (ha : param c 1 1 = 1) (s : State) :
    exec (.laneRetrain c) s = .next (s.runCard (bringupCard (fun p s => s.retrainCmd p) false) c) := congrArg _ (if_pos ha)

theorem exec_laneTakeDown {c : Cmd} (ha : param c 1 1 = 2) (s : State) :
    exec (.laneTakeDown c) s = .next (s.runCard (bringupCard (fun p s => s.takeDown p) true) c) := congrArg _ (if_pos ha)

theorem laneEqCard_eq {s : State} {c : Cmd} (h : takesDevice s c [.service, .emulate] false) (hl : c.params.length = 8)
    (hz : paramZero c 3 5) (hm : param c 1 1 ≤ 1) (hk : param c 2 1 < 16) :
    s.runCard laneEqCard c = ((taken s c 0x0702).modLane (param c 0 1) (fun x => { x with
      pinPend := some (param c 1 1 == 1), pinReq := if param c 1 1 = 1 then some (param c 2 1) else none })).complete
        (cmdOf s c 0x0702) 0 [] := by
  refine State.runCard_device_eq (card := laneEqCard) h (by decide) ⟨rfl, rfl, rfl⟩ (lenIs_of_length hl) ?_
  dsimp only [laneEqCard]
  exact checked_ok (append_ok (reservedZero_ok hz) (range_ok (decide_eq_false (Nat.not_lt.mpr hm))
    (range_ok (decide_eq_false (Nat.not_lt.mpr (Nat.le_of_lt_succ hk))) nil_ok)))

/-! ### Edge regions (R396, R397) -/

theorem PState.releases_of_mem {x : PState} (h : x ∈ [PState.loaded, .running, .stepping, .frozen]) : x.releases = true := by
  revert h
  cases x <;> decide

theorem State.regionFor_eq {s : State} {ring region p : Nat} (ho : (s.region region).owner = some p)
    (hsid : s.ringSid ring = some (s.pas p).comp.sid) (hp : s.pstate p ≠ .empty) : s.regionFor ring region = some p := by
  simp [State.regionFor, ho, hsid, hp]

theorem exec_fabricRelease {s : State} {c : Cmd} {p : Nat} (hr : s.regionFor c.ring (param c 0 1) = some p)
    (hp : s.pstate p ≠ .recovering) : exec (.fabricRelease c) s = .next (s.runCard fabricReleaseCard c) := by
  refine congrArg _ (if_neg ?_)
  unfold param at hr
  simp [State.releaseWaits, hr, hp]

/-- Settles O9. -/
theorem laneAndFabricCommandsComplete : Obligations.LaneAndFabricCommandsComplete := by
  refine ⟨fun s c hl hz => ⟨fun h h2 hp => ⟨fun ha => ?_, fun ha => ?_, fun ha hrest => ?_⟩, fun h hm hk => ?_, fun h hm hk => ?_,
    fun h h2 hn hn' hfree => ?_, fun h h2 ht hm hfree => ?_⟩, fun s c p h hl hz hr ho hsid hheld hp => ?_⟩
  · rw [exec_laneBringup ha, bringupCard_eq h hl (paramZero_join h2 hz) hp (by omega) rfl]
  · rw [exec_laneRetrain ha, bringupCard_eq h hl (paramZero_join h2 hz) hp (by omega) rfl]
  · rw [exec_laneTakeDown ha, bringupCard_eq h hl (paramZero_join h2 hz) hp (by omega)]
    cases hh : s.portHolder (param c 0 1) with
    | none => rfl
    | some q => exact hrest q hh
  · refine congrArg Host.Outcome.next ((laneEqCard_eq h hl hz (by omega) hk).trans ?_)
    simp [hm]
  · refine congrArg Host.Outcome.next ((laneEqCard_eq h hl hz (by omega) hk).trans ?_)
    simp [hm]
  · refine congrArg Host.Outcome.next (State.runCard_device_eq (card := laneBitslipCard) h (by decide) ⟨rfl, rfl, rfl⟩ (lenIs_of_length hl) ?_)
    dsimp only [laneBitslipCard]
    refine checked_ok (append_ok (reservedZero_ok (paramZero_join h2 hz)) (range_ok ?_ (state_ok ?_ nil_ok)))
    · change (param c 1 1 == 0 || decide (65 < param c 1 1)) = false
      simp only [Bool.or_eq_false_iff, beq_eq_false_iff_ne, decide_eq_false_iff_not]
      omega
    · change (s.portState (param c 0 1 / 2) == .active && (s.portHolder (param c 0 1 / 2)).isSome) = false
      obtain hst | hnone := hfree
      · simp [hst]
      · simp [hnone]
  · refine congrArg Host.Outcome.next (State.runCard_device_eq (card := laneLoopbackCard) h (by decide) ⟨rfl, rfl, rfl⟩ (lenIs_of_length hl) ?_)
    dsimp only [laneLoopbackCard]
    exact checked_ok (append_ok (reservedZero_ok (paramZero_join h2 hz)) (range_ok (decide_eq_false (Nat.not_le.mpr ht))
      (range_ok (decide_eq_false (Nat.not_lt.mpr hm)) (state_ok (congrArg Option.isSome hfree) nil_ok))))
  · have hlive : s.pstate p ≠ .empty := fun he => absurd (he ▸ hp) (by decide)
    have hrec : s.pstate p ≠ .recovering := fun he => absurd (he ▸ hp) (by decide)
    rw [exec_fabricRelease (State.regionFor_eq ho hsid hlive) hrec]
    refine congrArg Host.Outcome.next (State.runCard_device_eq (card := fabricReleaseCard) h (by decide) ⟨rfl, rfl, rfl⟩ (lenIs_of_length hl) ?_)
    have hfor : (taken s c 0x0801).regionFor c.ring (fieldAt c.params 0 1) = some p :=
      State.regionFor_eq ho ((taken_ringSid s c 0x0801 c.ring).trans hsid) hlive
    dsimp only [fabricReleaseCard]
    rw [hfor]
    refine checked_ok (append_ok (reservedZero_ok hz) (range_ok ?_ (state_ok ?_ nil_ok)))
    · simpa [param] using hr
    · change ((s.region (param c 0 1)).state != .held || !(s.pstate p).releases) = false
      simp [hheld, PState.releases_of_mem hp]

/-! ### Sessions (R413–R417) -/

theorem State.lcIs_live {s : State} (h0 : s.fuses.lcState ≠ 0) (h4 : s.fuses.lcState ≠ 4) : s.lcIs [lcBlank, lcEnded] = false :=
  State.lcIs_eq_false (by simpa [lcBlank, lcEnded] using ⟨h0, h4⟩)

theorem sessionOpenChecks_ok {s : State} {c : Cmd} {own : List Check} (h12 : paramZero c 12 4) (h17 : paramZero c 17 7)
    (hown : ∀ x ∈ own, x.1 = false) (hr : resultFits c 288) (hm : param c 16 1 ≤ 1) (h0 : s.fuses.lcState ≠ 0)
    (h4 : s.fuses.lcState ≠ 4) (hb : (s.ring c.ring).bound = none) : ∀ x ∈ sessionOpenChecks s c own, x.1 = false :=
  append_ok (append_ok (append_ok (append_ok (reservedZero_ok h12) (reservedZero_ok h17)) hown) (resultChecks_ok hr))
    (range_ok (decide_eq_false (Nat.not_lt.mpr hm)) (state_ok (State.lcIs_live h0 h4) (state_ok (by simp [hb]) nil_ok)))

/-- Two last state checks, of statuses outside family 0x01xx, decide between two refusals and the effect. -/
theorem State.checked_two {s : State} (g : Prog) (f : State → State) {l : List Check} (hok : ∀ x ∈ l, x.1 = false) (a b : Bool)
    {m n : Nat} (hm : m / 256 ≠ 1) (hn : n / 256 ≠ 1) :
    s.checked g (l ++ [stateCheck a m, stateCheck b n]) f =
      if a = true then s.complete g m [] else if b = true then s.complete g n [] else f s := by
  rw [State.checked_append s g f hok]
  split_ifs with ha hb
  · exact State.checked_stateCheck s g f _ ha hm
  · rw [show [stateCheck a m, stateCheck b n] = [stateCheck a m] ++ [stateCheck b n] from rfl,
      State.checked_append s g f (state_ok (by simpa using ha) nil_ok)]
    exact State.checked_stateCheck s g f [] hb hn
  · exact checked_ok (state_ok (by simpa using ha) (state_ok (by simpa using hb) nil_ok))

theorem sessionOpenCard_run {s : State} {c : Cmd} (g : Prog) (hok : ∀ x ∈ sessionOpenChecks s c [], x.1 = false)
    (hn : s.host.sessions.length < 64) : sessionOpenCard.run c g s =
      if (!ecOnCurve (ecOfBytes (slice c.params 24 96)) || !ecOnCurve (ecOfBytes (slice c.params 152 96))) = true then
        s.complete g 0x0409 []
      else if (!ecdsaVerify (ecOfBytes (slice c.params 152 96)) (slice c.params 24 224 ++ padTo 16 s.ident.serial)
          (slice c.params 248 96)) = true then s.complete g 0x0407 []
      else s.openSession g c := by
  have hcount : ∀ x ∈ sessionOpenChecks s c [] ++ [stateCheck (decide (Config.maxSessions ≤ s.host.sessions.length)) 0x0408],
      x.1 = false := append_ok hok (state_ok (decide_eq_false (Nat.not_le.mpr hn)) nil_ok)
  dsimp only [sessionOpenCard]
  rw [show ∀ (l : List Check) (x y z : Check), l ++ [x, y, z] = (l ++ [x]) ++ [y, z] from fun _ _ _ _ => by simp]
  exact State.checked_two g _ hcount _ _ (by decide) (by decide)

theorem sessionRebindCard_run {s : State} {c : Cmd} {x : Session} (g : Prog)
    (hok : ∀ y ∈ sessionOpenChecks s c (reservedZero c 80 264), y.1 = false) (hx : s.session (param c 24 8) = some x)
    (hproof : s.rebindProof c.ring x = slice c.params 32 48) : sessionRebindCard.run c g s =
      ((s.modHost (fun h => { h with
        sessions := h.sessions.map (fun y => if y.sid = param c 24 8 then { y with rebind := y.rebind + 1 } else y) })).bindRing
          c.ring (param c 24 8) (x.rebind + 1)).completeResult g c []
            (sessionHead (param c 24 8) (x.rebind + 1) [] [] [] ++ padTo 96 []) false := by
  unfold param at hx ⊢
  dsimp only [sessionRebindCard]
  simp only [hx, hproof]
  exact checked_ok (append_ok hok (state_ok (by simp) nil_ok))

/-- Settles O10. -/
theorem sessionCommandsComplete : Obligations.SessionCommandsComplete := by
  refine fun s c => ⟨fun h hl hz hr h0 h4 => ?_, fun h hl h12 h17 hm hr h0 h4 hb hn => ?_,
    fun x h hl h12 h17 h80 hm hr h0 h4 hb hx hproof => ?_, fun sid h hl hz hsid hfree => ?_⟩
  · refine congrArg Host.Outcome.next (State.runCard_device_eq (card := attestCard) h (by decide) ⟨rfl, rfl, rfl⟩ (lenIs_of_length hl) ?_)
    dsimp only [attestCard]
    exact checked_ok (append_ok (append_ok (reservedZero_ok hz) (resultChecks_ok hr)) (state_ok (State.lcIs_live h0 h4) nil_ok))
  · have hopen : exec (.sessionOpen c) s = .next (s.runCard sessionOpenCard c) :=
      congrArg _ (if_neg (by change ¬ param c 16 1 = 1; omega))
    rw [hopen]
    refine congrArg Host.Outcome.next (State.runCard_device_eq (card := sessionOpenCard) h (by decide) ⟨rfl, rfl, rfl⟩ (lenIs_of_length hl) ?_)
    refine (sessionOpenCard_run (s := taken s c 0x0B02) _ (sessionOpenChecks_ok h12 h17 nil_ok hr (by omega) h0 h4 (by simpa using hb)) hn).trans ?_
    simp only [Bool.or_eq_true, Bool.not_eq_true']
    rfl
  · have hrebind : exec (.sessionRebind c) s = .next (s.runCard sessionRebindCard c) := congrArg _ (if_pos hm)
    rw [hrebind]
    refine congrArg Host.Outcome.next (State.runCard_device_eq (card := sessionRebindCard) h (by decide) ⟨rfl, rfl, rfl⟩ (lenIs_of_length hl) ?_)
    exact sessionRebindCard_run _ (sessionOpenChecks_ok h12 h17 (reservedZero_ok h80) hr (by omega) h0 h4 (by simpa using hb)) hx hproof
  · refine congrArg Host.Outcome.next (State.runCard_device_eq (card := sessionCloseCard) h (by decide) ⟨rfl, rfl, rfl⟩ (lenIs_of_length hl) ?_)
    dsimp only [sessionCloseCard]
    rw [taken_ringSid, hsid]
    exact checked_ok (append_ok (reservedZero_ok hz) (state_ok hfree nil_ok))

end Sys2Proof.Machine
end

section
/-!
# Command packets of a pasture: load, unload and run control (R126, R161, R162, R186–R200, R314)
-/

namespace Sys2Proof.Machine

open Sys2Proof

/-! ### LOAD and LOAD_ABORT -/

theorem loadLength_header {bs : List Byte} (hp : fieldAt bs 0 1 = 0) (hl : bs.length = 264) : loadLength bs = true := by
  simp [loadLength, hp, hl]

theorem loadLength_chunk {bs : List Byte} (hp : fieldAt bs 0 1 = 1) (hlo : 32 ≤ bs.length) (hhi : bs.length ≤ 65560) :
    loadLength bs = true := by
  simp [loadLength, hp, hlo, hhi]

theorem loadRun_header {s : State} {c : Cmd} (g : Prog) (hp : param c 0 1 = 0) (hz : paramZero c 1 3) (hi : param c 4 4 = 0)
    (he : s.pstate c.pasture = .empty) (h1 : s.stage1 c.ring c.pasture (slice c.params 8 256) = none) :
    loadRun c g s = (s.beginLoad c.pasture c.ring (slice c.params 8 256)).complete g 0 [] := by
  unfold param at hp hi
  unfold loadRun
  dsimp only
  rw [checked_ok, if_pos hp, h1]
  exact append_ok (reservedZero_ok hz) (range_ok (by simp [hp]) (range_ok (by simp [hi]) (state_ok (by simp [he])
    (state_ok (by simp [hp]) nil_ok))))

theorem State.openChunk_ok {s : State} {l : PLoad} {body pt : List Byte} (hi : l.nextChunk < hdrChunks l.header)
    (hl : body.length = chunkLen l.header l.nextChunk + 16)
    (ho : gcmOpen (s.kImg (hdrSid l.header)) (hdrNonce l.header ++ beBytes 4 l.nextChunk) l.header
      (body.take (chunkLen l.header l.nextChunk)) (body.drop (chunkLen l.header l.nextChunk)) = some pt) :
    s.openChunk l l.nextChunk body = .ok pt := by
  unfold State.openChunk
  dsimp only
  rw [if_neg (by rintro (h | h | h) <;> first | exact h rfl | omega), ho]

/-- A chunk that is not the last, in its place and with a tag that holds, goes to the staging area. -/
theorem State.takeChunk_next {s : State} (g : Prog) (p : Nat) {l : PLoad} {body pt : List Byte}
    (hi : l.nextChunk + 1 < hdrChunks l.header) (ho : s.openChunk l l.nextChunk body = .ok pt) :
    s.takeChunk g p l l.nextChunk body =
      (State.modPas { s with hbm := memWrite s.hbm (l.staging + chunkBytes * l.nextChunk) pt } p
        (fun x => { x with load := some { l with nextChunk := l.nextChunk + 1 } })).complete g 0 [] := by
  unfold State.takeChunk
  rw [ho]
  exact if_pos hi

theorem loadRun_chunk {s : State} {c : Cmd} {l : PLoad} (g : Prog) (hp : param c 0 1 = 1) (hz : paramZero c 1 3)
    (hst : s.pstate c.pasture = .loading) (hload : (s.pas c.pasture).load = some l) (hring : l.ring = c.ring) :
    loadRun c g s = s.takeChunk g c.pasture l (param c 4 4) (c.params.drop 8) := by
  unfold param at hp ⊢
  unfold loadRun
  dsimp only
  rw [checked_ok, if_neg (by omega), hload]
  exact append_ok (reservedZero_ok hz) (range_ok (by simp [hp]) (range_ok (by simp [hp])
    (state_ok (by simp [hload, hring]) (state_ok (by simp [hst]) nil_ok))))

/-- Settles O11. -/
theorem loadPacketsComplete : Obligations.LoadPacketsComplete := by
  refine fun s c h => ⟨fun hl hp hz hi he h1 => ?_, fun l pt hlo hhi hp hz hst hload hring hi hnext hlen ho => ?_,
    fun l hl hst hload hring => ?_⟩
  · have hexec : exec (.loadHeader c) s = .next (s.runCard loadCard c) :=
      congrArg _ (if_neg (by change ¬ param c 0 1 = 1; omega))
    rw [hexec]
    refine congrArg Host.Outcome.next (State.runCard_pasture_eq (card := loadCard) h ⟨by decide, rfl⟩ (fun _ => by rw [he]; decide)
      (loadLength_header hp hl) ?_)
    exact loadRun_header (s := taken s c 0x0201) _ hp hz hi he h1
  · have hexec : exec (.loadChunk c) s = .next (s.runCard loadCard c) := congrArg _ (if_pos hp)
    rw [hexec]
    refine congrArg Host.Outcome.next (State.runCard_pasture_eq (card := loadCard) h ⟨by decide, rfl⟩ (fun _ => by rw [hst]; decide)
      (loadLength_chunk hp hlo hhi) ?_)
    have hopen : (taken s c 0x0201).openChunk l l.nextChunk (c.params.drop 8) = .ok pt :=
      State.openChunk_ok (by omega) (by rw [List.length_drop]; omega) ho
    refine (loadRun_chunk (s := taken s c 0x0201) _ hp hz hst hload hring).trans ?_
    rw [hi]
    exact State.takeChunk_next _ _ hnext hopen
  · refine congrArg Host.Outcome.next (State.runCard_pasture_eq (card := loadAbortCard) h ⟨by decide, rfl⟩ (fun _ => by rw [hst]; decide)
      (lenIs_of_length hl) ?_)
    dsimp only [loadAbortCard]
    refine checked_ok (state_ok ?_ (state_ok ?_ nil_ok))
    · simp [hst]
    · simp [hload, hring]

/-! ### UNLOAD (R200) -/

theorem PState.unloads_of_mem {x : PState} (h : x ∈ [PState.loaded, .running, .stepping, .frozen, .faulted]) :
    x.unloads = true ∧ x ≠ .recovering := by
  revert h
  cases x <;> decide

theorem exec_unloadWipeComplete {s : State} {p : Nat} (hst : s.pstate p = .draining) (hm : s.dev.mode ≠ .hold)
    (hb : s.engineBusy p = false) : exec (.unloadWipeComplete p) s =
      .next ((((s.wipePasture p).setPState p .empty).finishAll 0x0101 p 0).sweepSessions) := by
  change execUnloadWipeComplete p s = _
  rw [execUnloadWipeComplete, if_pos ⟨hst, hm, by rw [hb]; decide⟩]

/-- Settles O12. -/
theorem unloadDrainsAndEmpties : Obligations.UnloadDrainsAndEmpties := by
  refine ⟨fun s c h hl hst => ?_, fun s p hst hm hb => exec_unloadWipeComplete hst hm hb⟩
  obtain ⟨hun, hrec⟩ := PState.unloads_of_mem hst
  refine congrArg Host.Outcome.next (State.runCard_pasture_eq (card := unloadCard) h ⟨by decide, rfl⟩ (fun _ => hrec) (lenIs_of_length hl) ?_)
  dsimp only [unloadCard]
  exact checked_ok (state_ok (by simp [hun]) nil_ok)

/-! ### RUN, FREEZE and SET_WDOG (R126, R188–R190, R197) -/

/-- A FREEZE is pending once a packet is in progress where one was, or where the packet is a FREEZE. -/
theorem taken_freezePending (s : State) (c : Cmd) (op p : Nat) :
    (taken s c op).freezePending p = (s.freezePending p || (op == 0x0302 && c.pasture == p)) := by
  simp [State.freezePending, taken, State.begin_, State.modRing, State.modHost]

/-- With MODE 0, ASSERT_ACTION 0 and every other field zero, the ranges of RUN hold (R189). -/
theorem runRanges_free {s : State} {c : Cmd} (hm : param c 0 1 = 0) (ha : param c 1 1 = 0) (hz : paramZero c 2 30) :
    ∀ x ∈ s.runRanges c, x.1 = false := by
  have hsub : ∀ o n, 2 ≤ o → o + n ≤ 32 → fieldAt c.params o n = 0 := fun o n h1 h2 =>
    param_eq_zero (paramZero_sub hz h1 (by omega))
  unfold param at hm ha
  unfold State.runRanges
  simp [rangeCheck, hm, ha, hsub]

theorem runCard_run (c : Cmd) (g : Prog) (s : State) : runCard_.run c g s =
    s.checked g (reservedZero c 5 3 ++ reservedZero c 21 3 ++ s.runRanges c ++ s.runStates c)
      (fun s => (s.startRun c).complete g 0 []) := rfl

theorem runStates_ok {s : State} {c : Cmd} (hm : param c 0 1 = 0) (hst : s.pstate c.pasture ∈ [PState.loaded, .frozen])
    (hf : s.freezePending c.pasture = false) (hspan : s.spanning c.pasture = false)
    (hlast : (s.pas c.pasture).stat.lastStatus ≠ 0x0701) : ∀ x ∈ s.runStates c, x.1 = false := by
  have hrests : ((s.pas c.pasture).stat.state == .loaded || (s.pas c.pasture).stat.state == .frozen) = true := by
    simpa [State.pstate] using hst
  unfold param at hm
  unfold State.runStates
  dsimp only
  refine state_ok (by simp [hrests, hf]) (state_ok (by simp [hspan]) (state_ok (by simp [hspan]) (state_ok (by simp [hm])
    (state_ok (by simpa using hlast) (cons_ok (by simp [hm]) nil_ok)))))

/-- RUN while a FREEZE is pending: the first check of the state fails (R188). -/
theorem runCard_run_freezePending {s : State} {c : Cmd} (g : Prog) (h5 : paramZero c 5 3) (h21 : paramZero c 21 3)
    (hr : ∀ x ∈ s.runRanges c, x.1 = false) (hf : s.freezePending c.pasture = true) :
    runCard_.run c g s = s.complete g 0x0201 [] := by
  rw [runCard_run, State.checked_append s g _ (append_ok (append_ok (reservedZero_ok h5) (reservedZero_ok h21)) hr)]
  exact State.checked_stateCheck s g _ _ (by simp [hf]) (by decide)

/-- Settles O14. -/
theorem runRefusedWhileFreezePends : Obligations.RunRefusedWhileFreezePends := by
  intro s c h hrec hl h5 h21 hr hf
  refine congrArg Host.Outcome.next (State.runCard_pasture_eq (card := runCard_) h ⟨by decide, rfl⟩ (fun _ => hrec) (lenIs_of_length hl) ?_)
  refine runCard_run_freezePending (s := taken s c 0x0301) _ h5 h21 hr ?_
  rw [taken_freezePending, hf, Bool.true_or]

theorem freezeCard_run {s : State} {c : Cmd} (g : Prog) (hspan : s.spanning c.pasture = false)
    (hst : s.pstate c.pasture ∈ [PState.loaded, .frozen] ∨ (s.pstate c.pasture).evaluates = true) :
    freezeCard.run c g s =
      if s.pstate c.pasture ∈ [PState.loaded, .frozen] then s.complete g 0 [] else s.freeze c.pasture := by
  have hrests : (s.pstate c.pasture == .loaded || s.pstate c.pasture == .frozen) = decide (s.pstate c.pasture ∈ [PState.loaded, .frozen]) := by
    cases s.pstate c.pasture <;> decide
  dsimp only [freezeCard]
  rw [hrests]
  refine (checked_ok (state_ok ?_ (state_ok (by simp [hspan]) nil_ok))).trans (by simp)
  obtain h | h := hst <;> simp [h]

theorem exec_freeze {s : State} {c : Cmd} (h : takesPasture s c) (hl : c.params.length = 0) (hspan : s.spanning c.pasture = false)
    (hst : s.pstate c.pasture ∈ [PState.loaded, .frozen] ∨ (s.pstate c.pasture).evaluates = true) :
    exec (.freeze c) s = .next (if s.pstate c.pasture ∈ [PState.loaded, .frozen] then (taken s c 0x0302).complete (cmdOf s c 0x0302) 0 []
      else (taken s c 0x0302).freeze c.pasture) :=
  congrArg _ (State.runCard_pasture_eq (card := freezeCard) h ⟨by decide, rfl⟩ (fun hw => absurd hw (by decide)) (lenIs_of_length hl)
    (freezeCard_run (s := taken s c 0x0302) _ hspan hst))

theorem PState.evaluates_of_mem {x : PState} (h : x ∈ [PState.running, .stepping, .recovering]) :
    x.evaluates = true ∧ x ∉ [PState.loaded, .frozen] := by
  revert h
  cases x <;> decide

/-- Settles O13. -/
theorem runControlCommandsComplete : Obligations.RunControlCommandsComplete := by
  refine fun s c h => ⟨fun hl hm ha hz hst hf hspan hlast => ?_, fun hl hst hspan => ?_, fun hl hst hspan => ?_,
    fun hl hv hz he hrec => ?_⟩
  · have hrec : s.pstate c.pasture ≠ .recovering := fun he => absurd (he ▸ hst) (by decide)
    refine congrArg Host.Outcome.next (State.runCard_pasture_eq (card := runCard_) h ⟨by decide, rfl⟩ (fun _ => hrec) (lenIs_of_length hl) ?_)
    have hpending : (taken s c 0x0301).freezePending c.pasture = false := by
      rw [taken_freezePending, hf]
      rfl
    have h5 : paramZero c 5 3 := paramZero_sub hz (by decide) (by decide)
    have h21 : paramZero c 21 3 := paramZero_sub hz (by decide) (by decide)
    rw [runCard_run]
    exact checked_ok (append_ok (append_ok (append_ok (reservedZero_ok h5) (reservedZero_ok h21)) (runRanges_free hm ha hz))
      (runStates_ok (s := taken s c 0x0301) hm hst hpending hspan hlast))
  · rw [exec_freeze h hl hspan (.inl hst), if_pos hst]
  · obtain ⟨hev, hrest⟩ := PState.evaluates_of_mem hst
    rw [exec_freeze h hl hspan (.inr hev), if_neg hrest]
  · refine congrArg Host.Outcome.next (State.runCard_pasture_eq (card := setWdogCard) h ⟨by decide, rfl⟩ (fun _ => hrec) (lenIs_of_length hl) ?_)
    dsimp only [setWdogCard]
    exact checked_ok (append_ok (append_ok (cons_ok (decide_eq_false (Nat.not_le.mpr hv)) nil_ok) (reservedZero_ok hz))
      (state_ok (by simpa using he) nil_ok))

end Sys2Proof.Machine
end

section
/-!
# Command packets of a pasture, continued: flows, rings, acquisition and diagnostics (R134, R136, R228–R237, R248–R261, R288, R315, R419)
-/

namespace Sys2Proof.Machine

open Sys2Proof

/-! ### Flows and rings (R228, R230, R237, R288) -/

theorem PState.kicks_of_mem {x : PState} (h : x ∈ [PState.loaded, .running, .stepping, .frozen]) :
    x.kicks = true ∧ x ≠ .recovering := by
  revert h
  cases x <;> decide

theorem PState.ringInfo_of_mem {x : PState} (h : x ∈ [PState.loaded, .running, .stepping, .frozen, .faulted]) :
    x.ringInfo = true ∧ x.acqs = true ∧ x ≠ .recovering := by
  revert h
  cases x <;> decide

/-- A check for each of a row of numbers, none of which fails. -/
theorem mapRange_ok {n : Nat} {f : Nat → Check} (h : ∀ i < n, (f i).1 = false) : ∀ x ∈ (List.range n).map f, x.1 = false := by
  intro x hx
  obtain ⟨i, hi, rfl⟩ := List.mem_map.mp hx
  exact h i (List.mem_range.mp hi)

/-- Settles O15. -/
theorem flowAndRingCommandsComplete : Obligations.FlowAndRingCommandsComplete := by
  refine ⟨fun s c => ⟨fun h hl hz hr => ?_, fun h hl hz ho hst => ?_, fun h hl h12 h18 hrest hr hq ht hqo hto he hrec => ?_⟩,
    fun s c h hon => ⟨fun hl hz hr hst => ?_, fun hl hst => ?_⟩⟩
  · refine congrArg Host.Outcome.next (State.runCard_device_eq (card := flowHoldingsCard) h (by decide) ⟨rfl, rfl, rfl⟩
      (lenIs_of_length hl) ?_)
    dsimp only [flowHoldingsCard]
    exact checked_ok (append_ok (reservedZero_ok hz) (resultChecks_ok hr))
  · obtain ⟨hk, hrec⟩ := PState.kicks_of_mem hst
    refine congrArg Host.Outcome.next (State.runCard_pasture_eq (card := taskKickCard) h ⟨by decide, rfl⟩ (fun _ => hrec)
      (lenIs_of_length hl) ?_)
    dsimp only [taskKickCard]
    refine checked_ok (append_ok (reservedZero_ok hz) (range_ok ?_ (state_ok ?_ nil_ok)))
    · change ((s.task (param c 0 2)).owner != some c.pasture) = false
      simp [ho]
    · simp [hk]
  · refine congrArg Host.Outcome.next (State.runCard_pasture_eq (card := flowTalliesCard) h ⟨by decide, rfl⟩ (fun _ => hrec) hl ?_)
    dsimp only [flowTalliesCard]
    refine checked_ok (append_ok (append_ok (append_ok (append_ok (append_ok (append_ok (append_ok (reservedZero_ok h12)
      (reservedZero_ok h18)) (reservedZero_ok hrest)) (resultChecks_ok hr)) (range_ok (decide_eq_false (Nat.not_lt.mpr hq))
      (range_ok (decide_eq_false (Nat.not_lt.mpr ht)) nil_ok))) (mapRange_ok fun i hi => ?_)) (mapRange_ok fun i hi => ?_))
      (state_ok (by simpa using he) nil_ok))
    · exact bne_eq_false_iff_eq.mpr (hqo i hi)
    · exact bne_eq_false_iff_eq.mpr (hto i hi)
  · obtain ⟨hri, _, hrec⟩ := PState.ringInfo_of_mem hst
    refine congrArg Host.Outcome.next (State.runCard_pasture_eq (card := ringInfoCard) h ⟨by decide, rfl⟩ (fun _ => hrec)
      (lenIs_of_length hl) ?_)
    dsimp only [ringInfoCard]
    exact checked_ok (append_ok (append_ok (reservedZero_ok hz) (resultChecks_ok hr))
      (state_ok (by simp [hri]) (state_ok (by simp [hon]) nil_ok)))
  · refine congrArg Host.Outcome.next (State.runCard_pasture_eq (card := ringRollbackCard) h ⟨by decide, rfl⟩
      (fun _ => by rw [hst]; decide) (lenIs_of_length hl) ?_)
    dsimp only [ringRollbackCard]
    exact checked_ok (state_ok (by simp [hst]) (state_ok (by simp [hon]) nil_ok))

/-! ### Acquisition (R243, R248, R260, R261, R419) -/

theorem acqChecks_ok {s : State} {p : Nat} {l : List AcqState} (hst : (s.pstate p).acqs = true) (ha : (s.acqOf p).state ∈ l) :
    ∀ x ∈ s.acqChecks p l, x.1 = false :=
  state_ok (by simp [hst]) (state_ok (by simpa using ha) nil_ok)

theorem acqCard_eq {s : State} {c : Cmd} {op : Nat} {l : List AcqState} {act : Cmd → Prog → State → State} (h : takesPasture s c)
    (hst : s.pstate c.pasture ∈ [PState.loaded, .running, .stepping, .frozen, .faulted]) (hl : c.params.length = 0)
    (ha : (s.acqOf c.pasture).state ∈ l) : s.runCard (acqCard op l act) c = act c (cmdOf s c op) (taken s c op) := by
  obtain ⟨_, hacqs, hrec⟩ := PState.ringInfo_of_mem hst
  have hmodes : takenIn "SE" [.service, .emulate] = true := by decide
  refine State.runCard_pasture_eq (card := acqCard op l act) h ⟨hmodes, rfl⟩ (fun _ => hrec) (lenIs_of_length hl) ?_
  dsimp only [acqCard]
  exact checked_ok (acqChecks_ok (s := taken s c op) hacqs ha)

theorem acqReadCard_run {s : State} {c : Cmd} (g : Prog) (h12 : paramZero c 12 4) (h17 : paramZero c 17 7) (h36 : paramZero c 36 4)
    (haddr : param c 0 8 % 64 = 0) (hsize : s.areaLen c ≤ param c 8 4) (harea : param c 16 1 ≤ 2) (hholds : s.areaHolds c = true)
    (hst : (s.pstate c.pasture).acqs = true) (ha : (s.acqOf c.pasture).state ∈ [AcqState.idle, .armed, .post, .done])
    (hn : (s.pas c.pasture).flow.readNo < 2 ^ 32) : acqReadCard.run c g s = s.acqReadBack c g := by
  unfold param at haddr hsize harea
  dsimp only [acqReadCard]
  refine checked_ok (append_ok (append_ok (append_ok (append_ok (append_ok (reservedZero_ok h12) (reservedZero_ok h17))
    (reservedZero_ok h36)) (range_ok ?_ (range_ok ?_ (cons_ok ?_ (cons_ok ?_ nil_ok))))) (acqChecks_ok hst ha))
    (state_ok (decide_eq_false (Nat.not_le.mpr hn)) nil_ok))
  · simp [haddr]
  · simp [hsize]
  · exact Bool.and_eq_false_iff.mpr (.inr (decide_eq_false (Nat.not_lt.mpr harea)))
  · simp [hholds]

/-- Settles O16. -/
theorem acquisitionCommandsComplete : Obligations.AcquisitionCommandsComplete := by
  intro s c h hst
  obtain ⟨_, hacqs, hrec⟩ := PState.ringInfo_of_mem hst
  refine ⟨fun hl ha => congrArg Host.Outcome.next (acqCard_eq h hst hl ha), fun hl ha => congrArg Host.Outcome.next (acqCard_eq h hst hl ha),
    fun hl ha => congrArg Host.Outcome.next (acqCard_eq h hst hl (by simp [ha])), fun hl h12 h17 h36 haddr hsize harea hholds ha hn => ?_,
    fun hl ha hbody => ?_⟩
  · exact congrArg Host.Outcome.next (State.runCard_pasture_eq (card := acqReadCard) h ⟨by decide, rfl⟩ (fun _ => hrec) (lenIs_of_length hl)
      (acqReadCard_run (s := taken s c 0x0504) _ h12 h17 h36 haddr hsize harea hholds hacqs ha hn))
  · refine congrArg Host.Outcome.next (State.runCard_pasture_eq (card := acqProgramCard) h ⟨by decide, rfl⟩ (fun _ => hrec)
      (lenIs_of_length hl) ?_)
    have hplan : (acqBodyFault ((s.acqOf c.pasture).program c.params).plan (s.probeFolds c.pasture)).isSome = false := by rw [hbody]; rfl
    dsimp only [acqProgramCard]
    exact checked_ok (append_ok (cons_ok (Bool.and_eq_false_iff.mpr (.inr hplan)) nil_ok)
      (acqChecks_ok (s := taken s c 0x0505) hacqs ha))

/-! ### Diagnostics (R134, R136, R140, R315) -/

/-- Where no check fails, DIAG's denial is not counted either. -/
theorem State.checked_diagDenied {s : State} {g : Prog} {l : List Check} {f : State → State} (hok : ∀ x ∈ l, x.1 = false) (p : Nat)
    (write : Bool) :
    (s.diagDenied p ((firstFail l).map Prod.fst != some 0x0109) write).checked g l f = f s := by
  rw [firstFail_none hok]
  exact checked_ok hok

theorem State.diagGo_now {s : State} {j : DiagJob} (h : s.diagNow j = true) : s.diagGo j = s.diagRest j := if_pos h
theorem State.diagGo_wait {s : State} {j : DiagJob} (h : s.diagNow j = false) : s.diagGo j = s.diagWait j := if_neg (by simp [h])

/-- A read command that goes on at once returns the bytes of its whole range. -/
theorem State.diagRest_read (s : State) (c : Cmd) (g : Prog) :
    s.diagRest { cmd := c, prog := g, write := false, next := 0, got := [] } = (
      let d := ((rangePads (param c 16 8) (param c 24 4)).foldl (fun w x => w.padTake x.1 x.2) s).diagBytes (param c 16 8) (param c 24 4)
      d.2.diagFinishRead { cmd := c, prog := g, write := false, next := 0, got := [] } d.1) := by
  simp [State.diagRest, DiagJob.addr, DiagJob.size, param]

/-- A write command that goes on at once stores its whole range. -/
theorem State.diagRest_write (s : State) (c : Cmd) (g : Prog) :
    s.diagRest { cmd := c, prog := g, write := true, next := 0, got := [] } = (
      let v := (rangePads (param c 0 8) (param c 8 4)).foldl (fun w x => w.padTake x.1 x.2) s
      (v.diagStore c.pasture (param c 0 8) (slice c.params 16 (param c 8 4))).complete g 0 []) := by
  simp [State.diagRest, DiagJob.addr, DiagJob.size, DiagJob.pasture, param]

theorem diagMemReadCard_run {s : State} {c : Cmd} (g : Prog) (h12 : paramZero c 12 4) (h28 : paramZero c 28 4)
    (hr : resultFits c (param c 24 4)) (ha : param c 16 8 % 2 = 0) (hlo : 2 ≤ param c 24 4) (hhi : param c 24 4 ≤ 1048576)
    (heven : param c 24 4 % 2 = 0) (hp : s.diagPermits c.pasture (param c 16 8) (param c 24 4) false = true)
    (hst : s.diagState c.pasture (param c 16 8) false = true) (hn : (s.pas c.pasture).flow.readNo < 2 ^ 32) :
    diagMemReadCard.run c g s = s.diagGo { cmd := c, prog := g, write := false, next := 0, got := [] } := by
  unfold param at hr ha hlo hhi heven hp hst
  dsimp only [diagMemReadCard]
  refine State.checked_diagDenied (append_ok (append_ok (append_ok (reservedZero_ok h12) (reservedZero_ok h28)) (resultChecks_ok hr))
    (range_ok ?_ (cons_ok ?_ (range_ok ?_ (state_ok ?_ (state_ok (decide_eq_false (Nat.not_le.mpr hn)) nil_ok)))))) _ _
  · simp [ha]
  · simp [hp]
  · simp [hlo, hhi, heven]
  · simp [hst]

theorem diagMemWriteCard_run {s : State} {c : Cmd} (g : Prog) (hlo : 2 ≤ param c 8 4) (heven : param c 8 4 % 2 = 0)
    (hlen : c.params.length = 16 + (param c 8 4 + 7) / 8 * 8) (h12 : paramZero c 12 4)
    (hpad : paramZero c (16 + param c 8 4) (c.params.length - (16 + param c 8 4))) (ha : param c 0 8 % 2 = 0)
    (hp : s.diagPermits c.pasture (param c 0 8) (param c 8 4) true = true) (hst : s.diagState c.pasture (param c 0 8) true = true) :
    diagMemWriteCard.run c g s = s.diagGo { cmd := c, prog := g, write := true, next := 0, got := [] } := by
  unfold param at hlo heven hlen hpad ha hp hst
  have hsized : (decide (2 ≤ fieldAt c.params 8 4) && fieldAt c.params 8 4 % 2 == 0 &&
      16 + (fieldAt c.params 8 4 + 7) / 8 * 8 == c.params.length) = true := by simp [hlo, heven, ← hlen]
  dsimp only [diagMemWriteCard]
  rw [hsized]
  refine State.checked_diagDenied (append_ok (append_ok (reservedZero_ok h12) (reservedZero_ok hpad))
    (range_ok ?_ (cons_ok ?_ (range_ok rfl (state_ok ?_ nil_ok))))) _ _
  · simp [ha]
  · simp [hp]
  · simp [hst]

theorem diagWriteLength_ok {c : Cmd} (hhi : c.params.length ≤ 262160) (hlo : 2 ≤ param c 8 4)
    (hlen : c.params.length = 16 + (param c 8 4 + 7) / 8 * 8) : diagWriteLength c.params = true := by
  simp only [diagWriteLength, Bool.and_eq_true, decide_eq_true_eq]
  omega

/-- Who holds an address does not depend on the packet in progress: each table that is asked for it stays. -/
theorem taken_targetHolder (s : State) (c : Cmd) (op a n : Nat) : (taken s c op).targetHolder a n = s.targetHolder a n := by
  have hf (k : Nat) : (taken s c op).fold k = s.fold k := rfl
  have hh : (taken s c op).hbmHolder a n = s.hbmHolder a n := rfl
  have hflow : (taken s c op).flow = s.flow := rfl
  have hj : (taken s c op).jobHolder a n = s.jobHolder a n := by
    have htask : (taken s c op).task = s.task := rfl
    unfold State.jobHolder
    rw [hflow, htask]
  have hd : (taken s c op).dirHolder a n = s.dirHolder a n := by
    have hr : (taken s c op).ringsOn = s.ringsOn := rfl
    unfold State.dirHolder
    rw [hr]
  simp only [State.targetHolder, hf, hh, hj, hd]

theorem taken_regionPermits (s : State) (c : Cmd) (op m p a n : Nat) (w b : Bool) :
    (taken s c op).regionPermits m p a n w b = s.regionPermits m p a n w b := rfl

theorem taken_diagPermits (s : State) (c : Cmd) (op p a n : Nat) (w : Bool) :
    (taken s c op).diagPermits p a n w = s.diagPermits p a n w := by
  simp only [State.diagPermits, taken_targetHolder, taken_regionPermits]

/-- Settles O17. -/
theorem diagnosticCommandsComplete : Obligations.DiagnosticCommandsComplete := by
  refine fun s c => ⟨fun v h hl hz hv => ?_, fun h hrec hl h12 h28 hr ha hlo hhi heven hp hst hn => ?_,
    fun h hrec hhi hlo heven hlen h12 hpad ha hp hst => ?_⟩
  · refine congrArg Host.Outcome.next (State.runCard_device_eq (card := diagRegReadCard) h (by decide) ⟨rfl, rfl, rfl⟩
      (lenIs_of_length hl) ?_)
    unfold param at hv
    dsimp only [diagRegReadCard]
    rw [hv]
    exact checked_ok (append_ok (reservedZero_ok hz) (range_ok rfl (range_ok rfl (state_ok rfl nil_ok))))
  · rw [← taken_diagPermits s c 0x0D02] at hp
    have hexec : exec (.diagMemRead c) s = .next ((taken s c 0x0D02).diagGo
        { cmd := c, prog := cmdOf s c 0x0D02, write := false, next := 0, got := [] }) :=
      congrArg Host.Outcome.next (State.runCard_pasture_eq (card := diagMemReadCard) h ⟨by decide, rfl⟩ (fun _ => hrec)
        (lenIs_of_length hl) (diagMemReadCard_run (s := taken s c 0x0D02) _ h12 h28 hr ha hlo hhi heven hp hst hn))
    dsimp only
    rw [hexec]
    exact ⟨fun hnow => by rw [State.diagGo_now hnow, State.diagRest_read], fun hwait => by rw [State.diagGo_wait hwait]⟩
  · rw [← taken_diagPermits s c 0x0D03] at hp
    have hexec : exec (.diagMemWrite c) s = .next ((taken s c 0x0D03).diagGo
        { cmd := c, prog := cmdOf s c 0x0D03, write := true, next := 0, got := [] }) :=
      congrArg Host.Outcome.next (State.runCard_pasture_eq (card := diagMemWriteCard) h ⟨by decide, rfl⟩ (fun _ => hrec)
        (diagWriteLength_ok hhi hlo hlen) (diagMemWriteCard_run (s := taken s c 0x0D03) _ hlo heven hlen h12 hpad ha hp hst))
    dsimp only
    rw [hexec]
    exact ⟨fun hnow => by rw [State.diagGo_now hnow, State.diagRest_write], fun hwait => by rw [State.diagGo_wait hwait]⟩

/-! ### A packet without its session (R299) -/

/-- A packet of a card that needs a session, taken without one, completes with 0x0406. -/
theorem State.runCard_sessionless {s : State} {c : Cmd} {card : Card} (hr : ringReady s c) (hm : s.dev.mode ∈ [Mode.service, .emulate])
    (hc : c.session = false) (hrec : s.pstate c.pasture ≠ .recovering) (hs : card.session = true)
    (hmodes : takenIn card.modes [.service, .emulate] = true) :
    s.runCard card c = (taken s c card.opcode).complete (cmdOf s c card.opcode) 0x0406 [] := by
  have hv := modeVerdict_take hm hmodes
  have htakes : s.takes card c = true := by
    simp [State.takes, ringServes_of_ready hr, hv, State.pastureWaits, hrec]
  have href : s.cardRefusal card c = some (0x0406, 0) := by
    simp [State.cardRefusal, hv, hs, hc]
  unfold State.runCard
  rw [if_neg (by simp [htakes]), href, hc]
  simp [State.refuse, taken, cmdOf, hc]

/-- Settles O18. -/
theorem sessionIsRequired : Obligations.SessionIsRequired := by
  intro s c hr hm hc hrec
  have refused (card : Card) (hs : card.session = true) (hmodes : takenIn card.modes [.service, .emulate] = true) :
      s.runCard card c = (taken s c card.opcode).complete (cmdOf s c card.opcode) 0x0406 [] :=
    State.runCard_sessionless hr hm hc hrec hs hmodes
  have hse : takenIn "SE" [.service, .emulate] = true := by decide
  exact ⟨congrArg Host.Outcome.next (refused runCard_ rfl hse), congrArg Host.Outcome.next (refused unloadCard rfl hse),
    congrArg Host.Outcome.next (refused loadAbortCard rfl hse), congrArg Host.Outcome.next (refused setWdogCard rfl hse),
    congrArg Host.Outcome.next (refused taskKickCard rfl hse), congrArg Host.Outcome.next (refused (acqCard 0x0501 _ _) rfl hse),
    congrArg Host.Outcome.next (refused ringInfoCard rfl hse), congrArg Host.Outcome.next (refused diagMemReadCard rfl hse),
    congrArg Host.Outcome.next (refused sessionCloseCard rfl (by decide))⟩

end Sys2Proof.Machine
end

section
/-!
# Completions and reset (R26, R303, R304, R449)

A completion without a result writes one entry of 64 bytes and moves CPL_TAIL; what follows it (the vector, the command's leaving and the
end of sessions) touches neither the host's memory nor another ring.
-/

namespace Sys2Proof.Machine

open Sys2Proof

/-! ### Byte strings -/

theorem leBytes_length (n x : Nat) : (leBytes n x).length = n := by
  induction n generalizing x with
  | zero => rfl
  | succ n ih => simp [leBytes, ih]

theorem padTo_length (n : Nat) (bs : List Byte) : (padTo n bs).length = n := slice_length bs 0 n

theorem padTo_of_length {n : Nat} {bs : List Byte} (h : bs.length = n) : padTo n bs = bs := by
  simp [padTo, slice, ← h]

/-! ### The entry (Table 11-10, R303) -/

/-- The 64 bytes of an entry in the clear without a result. -/
def State.clearEntry (s : State) (g : Prog) (status : Nat) (detail : List Byte) : List Byte :=
  cplHead g status (phaseBit (s.ring g.ring).cplTail (s.ring g.ring).cplLog2) 0 ++ padTo 24 detail ++ padTo 16 []

/-- The address of the next entry of a ring. -/
def CmdRing.entryAddr (r : CmdRing) : Nat := r.cplBase + 64 * (r.cplTail % 2 ^ r.cplLog2)

theorem State.clearEntry_length (s : State) (g : Prog) (status : Nat) (detail : List Byte) :
    (s.clearEntry g status detail).length = 64 := by
  simp [State.clearEntry, cplHead, leBytes_length, padTo_length]

/-- The entry of a command that was not authenticated, byte by byte. -/
theorem State.clearEntry_eq (s : State) {g : Prog} (hclear : g.session = false) (status : Nat) (detail : List Byte) :
    s.clearEntry g status detail = leBytes 2 g.opcode ++ leBytes 2 status ++ leBytes 4 g.tag ++ leBytes 1 g.pasture ++
      leBytes 1 g.ring ++ leBytes 1 (1 - (s.ring g.ring).cplTail / 2 ^ (s.ring g.ring).cplLog2 % 2) ++ leBytes 1 0 ++
      leBytes 4 0 ++ leBytes 8 g.seq ++ padTo 24 detail ++ padTo 16 [] := by
  rw [State.clearEntry, cplHead, hclear]
  rfl

theorem State.raiseVector_eq (s : State) (v : Nat) :
    ∃ m o, s.raiseVector v = { s with host := { s.host with msix := m }, out := o } := by
  unfold State.raiseVector
  split_ifs
  · exact ⟨_, _, rfl⟩
  · exact ⟨_, _, rfl⟩
  · exact ⟨_, _, rfl⟩
  · exact ⟨_, _, rfl⟩

theorem State.putEntry_eq (s : State) (g : Prog) (status : Nat) (detail : List Byte) :
    ∃ m o, s.putEntry g status 0 (padTo 24 detail) [] = { s with
      host := { s.host with
        mem := memWrite s.host.mem (s.ring g.ring).entryAddr (s.clearEntry g status detail)
        rings := tmod s.host.rings CmdRing.init g.ring (fun r => { r with cplTail := wrapTo 32 (r.cplTail + 1) })
        msix := m }
      out := o } := by
  unfold State.putEntry
  rw [padTo_of_length (padTo_length 24 detail)]
  dsimp only
  split_ifs
  · exact ⟨_, _, rfl⟩
  · obtain ⟨m, o, h⟩ := State.raiseVector_eq ((s.hostWrite (s.ring g.ring).entryAddr (s.clearEntry g status detail)).modRing g.ring
      (fun r => { r with cplTail := wrapTo 32 (r.cplTail + 1) })) (1 + g.ring)
    exact ⟨m, o, h⟩

/-- A completion in the clear, of a command that is live and that nothing holds, is the writing of its entry and the command's leaving. -/
theorem State.complete_clear {s : State} {g : Prog} (hlive : g.live = true) (hclear : g.session = false)
    (hd : s.host.d3hot = false) (hr : s.dev.restarting = false) (status : Nat) (detail : List Byte) :
    s.complete g status detail =
      (((s.putEntry g status 0 (padTo 24 detail) []).dropProg g).quiesceRing g.ring).sweepSessions := by
  have hcpl : s.writeCpl (plainJob g status detail) = s.putEntry g status 0 (padTo 24 detail) [] := by
    simp [State.writeCpl, plainJob, hclear, List.take_of_length_le, padTo_length]
  unfold State.complete State.finish
  rw [hcpl]
  simp [plainJob, hlive, hd, hr]

/-! ### What a completion leaves -/

/-- A state differs from another in what the host sees of the device alone. -/
def State.HostOnly (s t : State) : Prop := t = { s with host := t.host, out := t.out }

theorem State.HostOnly.trans {s t u : State} (h : s.HostOnly t) (k : t.HostOnly u) : s.HostOnly u :=
  calc u = { t with host := u.host, out := u.out } := k
    _ = { s with host := u.host, out := u.out } := congrArg (fun x : State => { x with host := u.host, out := u.out }) h

@[simp] theorem State.ring_dropProg (s : State) (g : Prog) (n : Nat) : (s.dropProg g).ring n = s.ring n := rfl
@[simp] theorem State.dropProg_mem (s : State) (g : Prog) : (s.dropProg g).host.mem = s.host.mem := rfl

theorem State.quiesceRing_frame (s : State) (n : Nat) :
    (s.quiesceRing n).host.mem = s.host.mem ∧ ((s.quiesceRing n).ring n).cplTail = (s.ring n).cplTail ∧
    (∀ m, m ≠ n → (s.quiesceRing n).ring m = s.ring m) ∧ s.HostOnly (s.quiesceRing n) := by
  unfold State.quiesceRing
  split_ifs
  · exact ⟨rfl, rfl, fun _ _ => rfl, rfl⟩
  · exact ⟨rfl, by rw [State.ring_modRing_self], fun _ hm => by rw [State.ring_modRing, if_neg hm], rfl⟩

theorem State.putEntry_frame (s : State) (g : Prog) (status : Nat) (detail : List Byte) :
    let t := s.putEntry g status 0 (padTo 24 detail) []
    t.host.mem = memWrite s.host.mem (s.ring g.ring).entryAddr (s.clearEntry g status detail) ∧
    (t.ring g.ring).cplTail = wrapTo 32 ((s.ring g.ring).cplTail + 1) ∧ (∀ n, n ≠ g.ring → t.ring n = s.ring n) ∧
    s.HostOnly t := by
  obtain ⟨m, o, h⟩ := s.putEntry_eq g status detail
  have hrings (n : Nat) : (s.putEntry g status 0 (padTo 24 detail) []).ring n =
      tget (tmod s.host.rings CmdRing.init g.ring (fun r => { r with cplTail := wrapTo 32 (r.cplTail + 1) })) CmdRing.init n := by
    rw [h]
    rfl
  refine ⟨by rw [h], ?_, fun n hn => ?_, by rw [h]; rfl⟩
  · rw [hrings, tget_tmod, if_pos rfl]
    rfl
  · rw [hrings, tget_tmod, if_neg hn]
    rfl

/-- Settles O57. -/
theorem completionEntries : Obligations.CompletionEntries := by
  intro s g status detail hlive hclear hd hr
  dsimp only
  obtain ⟨hmem, htail, hring, heq⟩ := s.putEntry_frame g status detail
  obtain ⟨qmem, qtail, qring, qeq⟩ := ((s.putEntry g status 0 (padTo 24 detail) []).dropProg g).quiesceRing_frame g.ring
  have hentry := s.clearEntry_length g status detail
  rw [State.complete_clear hlive hclear hd hr]
  refine ⟨s.clearEntry_eq hclear status detail ▸ hentry, fun b => ?_, ?_, fun n hn => ?_, ?_⟩
  · rw [State.sweepSessions_mem, qmem, State.dropProg_mem, hmem, memGet_memWrite, hentry, State.clearEntry_eq s hclear]
    rfl
  · rw [State.sweepSessions_ring, qtail, State.ring_dropProg, htail]
    rfl
  · rw [State.sweepSessions_ring, qring n hn, State.ring_dropProg, hring n hn]
  · have hdrop : (s.putEntry g status 0 (padTo 24 detail) []).HostOnly ((s.putEntry g status 0 (padTo 24 detail) []).dropProg g) := rfl
    exact ((heq.trans hdrop).trans qeq).trans rfl

/-! ### The state after reset (R26, R449) -/

/-- Settles O58: each register is read off `State.reset`. -/
theorem resetState : Obligations.ResetState :=
  ⟨rfl, rfl, rfl, rfl, rfl, rfl, rfl, rfl, rfl, rfl, rfl, rfl, rfl, rfl, by decide⟩

end Sys2Proof.Machine
end

section
/-!
# Folds: the seven BP operations and what they leave (R36, R48, R77, R78)
-/

namespace Sys2Proof.Machine

open Sys2Proof

/-! ### An update at a fold that is known -/

/-- What an update makes of the record it finds is all that counts. -/
theorem State.modFold_congr {s : State} {f : Nat} {g h : Fold → Fold} (e : g (s.fold f) = h (s.fold f)) :
    s.modFold f g = s.modFold f h := by
  unfold State.modFold tmod
  exact congrArg (fun x => { s with folds := tput s.folds Fold.init f x }) e

/-! ### What each op does (Table 2-2) -/

theorem Fold.execBp_nop {x : Fold} {bp : Nat} (h : (x.instrNow bp).op = opNop) :
    x.execBp bp = { x with seq := { x.seq with done := bp :: x.seq.done } } := by
  simp [Fold.execBp, h]

/-- A BP that executes an op other than NOP, from the effect of its op: what the op writes stands among the writes of the slot, the import
last. -/
theorem Fold.execBp_effect {x : Fold} {bp : Nat} (h : (x.instrNow bp).op ≠ opNop) {e : BpEffect}
    (he : bpEval (x.instrNow bp) (x.read bp (x.instrNow bp).a) (x.read bp (x.instrNow bp).b) (x.read bp (x.instrNow bp).c)
      (x.read bp (x.instrNow bp).d) = e) :
    x.execBp bp = { bpDone x bp e.out e.cur with seq := { (bpDone x bp e.out e.cur).seq with
      nx0 := x.seq.nx0 ++ (e.next.map (fun v => { bp := bp, entry := (x.instrNow bp).dst, val := v })).toList
      ev0 := if e.event then x.seq.ev0 ++ [(bp, (x.instrNow bp).dst)] else x.seq.ev0 } } := by
  unfold Fold.execBp
  dsimp only
  rw [if_neg h, he]
  obtain ⟨out, cur, next, event⟩ := e
  cases cur <;> cases next <;> rfl

theorem bpEval_evals {i : BpInstr} (h : i.op = opEvals) (a b c d : Bool) : bpEval i a b c d =
    { out := bitOf i.tt (ttIndex a b c d), cur := none, next := some (bitOf i.tt (ttIndex a b c d)), event := false } := by
  simp [bpEval, h, opEvals, opEval]

theorem bpEval_evale {i : BpInstr} (h : i.op = opEvale) (a b c d : Bool) : bpEval i a b c d =
    { out := bitOf i.tt (ttIndex a b c false), cur := if d then some (bitOf i.tt (ttIndex a b c false)) else none,
      next := none, event := false } := by
  simp [bpEval, h, opEvale, opEvals, opEval]

theorem bpEval_check {i : BpInstr} (h : i.op = opCheck) (a b c d : Bool) : bpEval i a b c d =
    { out := bitOf i.tt (ttIndex a b c d), cur := none, next := none, event := bitOf i.tt (ttIndex a b c d) } := by
  simp [bpEval, h, opCheck, opEvale, opEvals, opEval]

theorem bpEval_copy {i : BpInstr} (h : i.op = opCopy) (a b c d : Bool) : bpEval i a b c d =
    { out := a, cur := some a, next := none, event := false } := by
  simp [bpEval, h, opCopy, opCheck, opEvale, opEvals, opEval]

theorem bpEval_xonly {i : BpInstr} (h : i.op = opXonly) (a b c d : Bool) : bpEval i a b c d =
    { out := false, cur := none, next := none, event := false } := by
  simp [bpEval, h, opXonly, opCopy, opCheck, opEvale, opEvals, opEval]

theorem ttIndex_eq (a b c d : Bool) : ttIndex a b c d = 8 * b2n d + 4 * b2n c + 2 * b2n b + b2n a := rfl
theorem ttIndex_d_false (a b c : Bool) : ttIndex a b c false = 4 * b2n c + 2 * b2n b + b2n a := by
  rw [ttIndex_eq]
  simp [b2n]

/-- A BP operation that is ready, in terms of the fold as its slot is prepared. -/
theorem bpStep_ready_eq {s : State} {f bp p op : Nat} (h : bpReady s f bp p op) {g : Fold → Fold}
    (hg : (((s.prepare f p).fold f).instrNow bp).op = op →
      ((s.prepare f p).fold f).execBp bp = g ((s.prepare f p).fold f)) :
    bpStep op f bp s = (s.prepare f p).modFold f g := by
  rw [bpStep_ready h]
  refine State.modFold_congr (hg ?_)
  obtain ⟨_, _, hop, _⟩ := h
  rw [State.prepare_instrNow, hop]

/-- Settles O24: each op's row of Table 2-2 is an equation of `bpEval`. -/
theorem bpOperations : Obligations.BpOperations := by
  intro s f bp p
  dsimp only
  refine ⟨fun h => ?_, fun h => ?_, fun h => ?_, fun h => ?_, fun h => ?_, fun h => ?_, fun h => ?_⟩
  · exact congrArg Host.Outcome.next (bpStep_ready_eq h Fold.execBp_nop)
  · refine congrArg Host.Outcome.next (bpStep_ready_eq h fun hop => ?_)
    rw [Fold.execBp_effect (by rw [hop]; decide) (if_pos hop)]
    simp [bpDone, ttIndex_eq]
    rfl
  · refine congrArg Host.Outcome.next (bpStep_ready_eq h fun hop => ?_)
    rw [Fold.execBp_effect (by rw [hop]; decide) (bpEval_evals hop _ _ _ _)]
    simp [bpDone, ttIndex_eq]
    rfl
  · refine congrArg Host.Outcome.next (bpStep_ready_eq h fun hop => ?_)
    rw [Fold.execBp_effect (by rw [hop]; decide) (bpEval_evale hop _ _ _ _)]
    simp [bpDone, ttIndex_d_false]
  · refine congrArg Host.Outcome.next (bpStep_ready_eq h fun hop => ?_)
    rw [Fold.execBp_effect (by rw [hop]; decide) (bpEval_check hop _ _ _ _)]
    simp [bpDone, ttIndex_eq]
    exact ⟨rfl, rfl⟩
  · refine congrArg Host.Outcome.next (bpStep_ready_eq h fun hop => ?_)
    rw [Fold.execBp_effect (by rw [hop]; decide) (bpEval_copy hop _ _ _ _)]
    simp [bpDone]
  · refine congrArg Host.Outcome.next (bpStep_ready_eq h fun hop => ?_)
    rw [Fold.execBp_effect (by rw [hop]; decide) (bpEval_xonly hop _ _ _ _)]
    simp [bpDone]

/-! ### What a BP operation leaves (R48) -/

/-- The part of a fold that no BP operation touches: its stores, port, cells and latch, the place in its schedule, and what each other BP's
entries will hold once the slot's writes are seen. -/
def Fold.SameBut (x y : Fold) (bp : Nat) : Prop :=
  y.store = x.store ∧ y.seq.slot = x.seq.slot ∧ y.dm = x.dm ∧
  (∀ b k, b ≠ bp → k < 512 → y.readAfter b k = x.readAfter b k) ∧ y.nrf = x.nrf ∧ y.latch = x.latch

theorem Fold.SameBut.refl (x : Fold) (bp : Nat) : x.SameBut x bp := ⟨rfl, rfl, rfl, fun _ _ _ _ => rfl, rfl, rfl⟩

theorem Fold.SameBut.trans {x y z : Fold} {bp : Nat} (h : x.SameBut y bp) (k : y.SameBut z bp) : x.SameBut z bp := by
  obtain ⟨h1, h2, h3, h4, h5, h6⟩ := h
  obtain ⟨k1, k2, k3, k4, k5, k6⟩ := k
  exact ⟨k1.trans h1, k2.trans h2, k3.trans h3, fun b e hb he => (k4 b e hb he).trans (h4 b e hb he), k5.trans h5, k6.trans h6⟩

/-- The fields that name an entry fit the 512 entries of a BP (Table 3-3). -/
theorem Fold.instrNow_entries (x : Fold) (bp : Nat) : (x.instrNow bp).dst < 512 ∧ 448 + (x.instrNow bp).xdst < 512 := by
  have hd := bitsOf_lt (tget x.store.instr 0 (256 * x.seq.slot + bp)) 14 9
  have hx := bitsOf_lt (tget x.store.instr 0 (256 * x.seq.slot + bp)) 0 6
  refine ⟨hd, ?_⟩
  change 448 + bitsOf _ 0 6 < 512
  omega

/-- A BP adds to the writes of its slot only writes of its own entries. -/
theorem Fold.execBp_wr0 (x : Fold) (bp : Nat) :
    ∃ l, (x.execBp bp).seq.wr0 = x.seq.wr0 ++ l ∧ ∀ w ∈ l, w.bp = bp ∧ w.entry < 512 := by
  obtain ⟨hd, hx⟩ := x.instrNow_entries bp
  by_cases h : (x.instrNow bp).op = opNop
  · rw [Fold.execBp_nop h]
    exact ⟨[], (List.append_nil _).symm, by simp⟩
  · rw [Fold.execBp_effect h rfl]
    refine ⟨_, List.append_assoc _ _ _, fun w hw => ?_⟩
    rcases List.mem_append.mp hw with hw | hw
    · rw [Option.mem_toList, Option.map_eq_some_iff] at hw
      obtain ⟨v, _, rfl⟩ := hw
      exact ⟨rfl, hd⟩
    · rw [List.mem_singleton.mp hw]
      exact ⟨rfl, hx⟩

/-- Writes of one BP's entries leave those of every other BP. -/
theorem Nrf.tget_commit_other (n : Nrf) {ws : List NrfWrite} {bp b k : Nat} (hw : ∀ w ∈ ws, w.bp = bp ∧ w.entry < 512)
    (hb : b ≠ bp) (hk : k < 512) : tget (n.commit ws).cur false (nrfKey b k) = tget n.cur false (nrfKey b k) := by
  rw [Nrf.tget_commit_cur n hk fun w h => (hw w h).2]
  have hnone : ws.reverse.find? (fun w => w.bp == b && w.entry == k) = none := by
    refine List.find?_eq_none.mpr fun w h => ?_
    have hne : w.bp ≠ b := fun he => hb (he ▸ (hw w (List.mem_reverse.mp h)).1)
    simp [hne]
  rw [lastWrite, hnone]
  rfl

theorem Fold.execBp_sameBut (x : Fold) (bp : Nat) : x.SameBut (x.execBp bp) bp := by
  obtain ⟨hnrf, hlatch, hwr1, _, hstore, hdm, hslot, _⟩ := x.execBp_facts bp
  obtain ⟨l, hwr0, hl⟩ := x.execBp_wr0 bp
  refine ⟨hstore, hslot, hdm, fun b k hb hk => ?_, hnrf, hlatch⟩
  unfold Fold.readAfter
  rw [hnrf, hwr1, hwr0, Nrf.commit_append]
  exact Nrf.tget_commit_other _ hl hb hk

/-- A state differs from another in one fold alone, and there as `SameBut` says. -/
def State.BpOnly (s t : State) (f bp : Nat) : Prop :=
  t = { s with folds := t.folds } ∧ (∀ g, g ≠ f → t.fold g = s.fold g) ∧ (s.fold f).SameBut (t.fold f) bp

theorem State.BpOnly.refl (s : State) (f bp : Nat) : s.BpOnly s f bp := ⟨rfl, fun _ _ => rfl, .refl _ _⟩

theorem State.BpOnly.trans {s t u : State} {f bp : Nat} (h : s.BpOnly t f bp) (k : t.BpOnly u f bp) : s.BpOnly u f bp := by
  obtain ⟨h1, h2, h3⟩ := h
  obtain ⟨k1, k2, k3⟩ := k
  exact ⟨k1.trans (congrArg (fun x : State => { x with folds := u.folds }) h1), fun g hg => (k2 g hg).trans (h2 g hg), h3.trans k3⟩

theorem State.modFold_bpOnly {s : State} {f bp : Nat} {g : Fold → Fold} (h : (s.fold f).SameBut (g (s.fold f)) bp) :
    s.BpOnly (s.modFold f g) f bp :=
  ⟨rfl, fun k hk => by rw [State.fold_modFold, if_neg hk], by rwa [State.fold_modFold_self]⟩

theorem State.prepare_bpOnly (s : State) (f p bp : Nat) : s.BpOnly (s.prepare f p) f bp := by
  obtain ⟨d, h | h⟩ := State.prepare_eq s f p <;> rw [h]
  · exact .refl s f bp
  · exact State.modFold_bpOnly ⟨rfl, rfl, rfl, fun _ _ _ _ => rfl, rfl, rfl⟩

theorem bpStep_bpOnly (op f bp : Nat) (s : State) : s.BpOnly (bpStep op f bp s) f bp := by
  obtain h | ⟨p, _, h | ⟨c, h⟩⟩ := bpStep_cases op f bp s <;> rw [h]
  · exact .refl s f bp
  · exact (s.prepare_bpOnly f p bp).trans (State.modFold_bpOnly (Fold.execBp_sameBut _ bp))
  · exact (s.prepare_bpOnly f p bp).trans (State.modFold_bpOnly ⟨rfl, rfl, rfl, fun _ _ _ _ => rfl, rfl, rfl⟩)

/-- The seven BP commands are steps of one BP. -/
theorem exec_bp_op {s t : State} {f bp : Nat} {c : Instr}
    (hc : c ∈ [Instr.nop f bp, .eval f bp, .evals f bp, .evale f bp, .check f bp, .copy f bp, .xonly f bp])
    (h : exec c s = .next t) : ∃ op, t = bpStep op f bp s := by
  rcases List.mem_cons.mp hc with rfl | hc
  · exact ⟨opNop, (Host.Outcome.next.inj h).symm⟩
  · obtain ⟨op, hop⟩ : ∃ op, (op, c) ∈ importOps f bp := by
      simpa [importOps, exists_or, or_imp] using hc
    exact ⟨op, (Host.Outcome.next.inj ((exec_importOps hop s).symm.trans h)).symm⟩

/-- Settles O27. -/
theorem bpFrame : Obligations.BpFrame := by
  intro s t f bp c hc ht
  obtain ⟨op, rfl⟩ := exec_bp_op hc ht
  obtain ⟨heq, hother, hstore, hslot, hdm, hread, hnrf, hlatch⟩ := bpStep_bpOnly op f bp s
  exact ⟨heq, hother, hstore, hslot, hdm, hread, hnrf, hlatch⟩

end Sys2Proof.Machine
end

section
/-!
# What completions, events, modes and faults leave: the cells of the device's units

`State.cells` gathers what no completion, event, mode change or fault touches. One lemma per shared operation of the model, as its
own `kept` lemmas do for the identity and the fuses.
-/

namespace Sys2Proof.Machine

open Sys2Proof

/-- The folds, the memories, the flows, the acquisition, the lanes, the time, the edge and the power domains. -/
def State.cells (s : State) : Tab Fold × Tab Pair × Mem × FlowSide × Tab Acq × Tab Snap × Tab Lane × TimeBase × Tab EthPort × Edge × Pwr :=
  (s.folds, s.pairs, s.hbm, s.flow, s.acq, s.snaps, s.lanes, s.time, s.eth, s.edge, s.pwr)

theorem State.fold_of_cells {s t : State} (h : t.cells = s.cells) (f : Nat) : t.fold f = s.fold f :=
  congrArg (tget · Fold.init f) (congrArg Prod.fst h)

theorem foldl_cells {α : Type} {g : State → α → State} (h : ∀ s x, (g s x).cells = s.cells) (l : List α) (s : State) :
    (l.foldl g s).cells = s.cells := by
  induction l generalizing s with
  | nil => rfl
  | cons a l ih => exact (ih _).trans (h s a)
@[simp] theorem ite_cells (c : Prop) [Decidable c] (a b : State) :
    (if c then a else b).cells = if c then a.cells else b.cells := apply_ite State.cells c a b

@[simp] theorem State.modDev_cells (s : State) (f : Dev → Dev) : (s.modDev f).cells = s.cells := rfl
@[simp] theorem State.modHost_cells (s : State) (f : HostSide → HostSide) : (s.modHost f).cells = s.cells := rfl
@[simp] theorem State.modNoc_cells (s : State) (f : Noc → Noc) : (s.modNoc f).cells = s.cells := rfl
@[simp] theorem State.modTrace_cells (s : State) (f : Trace → Trace) : (s.modTrace f).cells = s.cells := rfl
@[simp] theorem State.modRing_cells (s : State) (k : Nat) (f : CmdRing → CmdRing) : (s.modRing k f).cells = s.cells := rfl
@[simp] theorem State.modPort_cells (s : State) (n : Nat) (f : LinkPort → LinkPort) : (s.modPort n f).cells = s.cells := rfl
@[simp] theorem State.modPas_cells (s : State) (p : Nat) (f : Pasture → Pasture) : (s.modPas p f).cells = s.cells := rfl
@[simp] theorem State.modStat_cells (s : State) (p : Nat) (f : PStat → PStat) : (s.modStat p f).cells = s.cells := rfl
@[simp] theorem State.modRun_cells (s : State) (p : Nat) (f : PRun → PRun) : (s.modRun p f).cells = s.cells := rfl
@[simp] theorem State.modCk_cells (s : State) (p : Nat) (f : PRing → PRing) : (s.modCk p f).cells = s.cells := rfl
@[simp] theorem State.modMsix_cells (s : State) (v : Nat) (f : Msix → Msix) : (s.modMsix v f).cells = s.cells := rfl
@[simp] theorem State.send_cells (s : State) (o : Output) : (s.send o).cells = s.cells := rfl
@[simp] theorem State.msiOut_cells (s : State) (v : Nat) : (s.msiOut v).cells = s.cells := rfl
@[simp] theorem State.hostWrite_cells (s : State) (a : Nat) (bs : List Byte) : (s.hostWrite a bs).cells = s.cells := rfl
@[simp] theorem State.logAer_cells (s : State) : s.logAer.cells = s.cells := rfl
@[simp] theorem State.dropProg_cells (s : State) (g : Prog) : (s.dropProg g).cells = s.cells := rfl
@[simp] theorem State.sweepSessions_cells (s : State) : s.sweepSessions.cells = s.cells := rfl
@[simp] theorem State.clearDat_cells (s : State) : s.clearDat.cells = s.cells := rfl
@[simp] theorem State.setLastStatus_cells (s : State) (p st : Nat) : (s.setLastStatus p st).cells = s.cells := rfl
@[simp] theorem State.setReport_cells (s : State) (p : Nat) (r : PFault) : (s.setReport p r).cells = s.cells := rfl
@[simp] theorem State.noteFault_cells (s : State) (p st : Nat) : (s.noteFault p st).cells = s.cells := rfl
@[simp] theorem State.enqueue_cells (s : State) (link ctype body : Nat) (data : List (Nat × List (BitVec 16))) :
    (s.enqueue link ctype body data).cells = s.cells := rfl

@[simp] theorem State.traceTo_cells (s : State) (st : TraceState) (src : Nat) : (s.traceTo st src).cells = s.cells := by
  simp [State.traceTo]
@[simp] theorem State.traceBegin_cells (s : State) (src : Nat) : (s.traceBegin src).cells = s.cells := by
  simp [State.traceBegin]
@[simp] theorem State.traceEvent_cells (s : State) (bit : Nat) : (s.traceEvent bit).cells = s.cells := by
  unfold State.traceEvent
  split <;> simp
@[simp] theorem State.raiseVector_cells (s : State) (v : Nat) : (s.raiseVector v).cells = s.cells := by
  simp [State.raiseVector]
@[simp] theorem State.devEvent_cells (s : State) (bit : Nat) : (s.devEvent bit).cells = s.cells := by
  simp [State.devEvent]
@[simp] theorem State.setMode_cells (s : State) (m : Mode) : (s.setMode m).cells = s.cells := by
  simp [State.setMode]
@[simp] theorem State.settleMode_cells (s : State) : s.settleMode.cells = s.cells := by
  simp [State.settleMode]
@[simp] theorem State.quiesceRing_cells (s : State) (ring : Nat) : (s.quiesceRing ring).cells = s.cells := by
  simp [State.quiesceRing]
@[simp] theorem State.putEntry_cells (s : State) (g : Prog) (status len : Nat) (detail ctag : List Byte) :
    (s.putEntry g status len detail ctag).cells = s.cells := by
  simp [State.putEntry]
@[simp] theorem State.writeCpl_cells (s : State) (j : CplJob) : (s.writeCpl j).cells = s.cells := by
  simp [State.writeCpl]
@[simp] theorem State.finish_cells (s : State) (j : CplJob) : (s.finish j).cells = s.cells := by
  simp [State.finish]
@[simp] theorem State.finishAll_cells (s : State) (opcode p status : Nat) : (s.finishAll opcode p status).cells = s.cells :=
  foldl_cells (fun s g => s.finish_cells (plainJob g status [])) _ _
@[simp] theorem State.pasEvent_cells (s : State) (p bit : Nat) : (s.pasEvent p bit).cells = s.cells := by
  simp [State.pasEvent]
@[simp] theorem State.setPState_cells (s : State) (p : Nat) (st : PState) : (s.setPState p st).cells = s.cells := by
  unfold State.setPState
  cases st <;> simp
@[simp] theorem State.freezeAt_cells (s : State) (p cause : Nat) : (s.freezeAt p cause).cells = s.cells := by
  simp [State.freezeAt]
@[simp] theorem State.linkTx_cells (s : State) (link ctype body : Nat) (data : List (Nat × List (BitVec 16))) :
    (s.linkTx link ctype body data).cells = s.cells := by
  simp [State.linkTx]
@[simp] theorem State.faultPas_cells (s : State) (p status : Nat) (port : Option Nat) :
    (s.faultPas p status port).cells = s.cells := by
  simp [State.faultPas, foldl_cells]
@[simp] theorem State.faultReported_cells (s : State) (p : Nat) (r : PFault) : (s.faultReported p r).cells = s.cells := by
  simp [State.faultReported]
@[simp] theorem State.undoPad_cells (s : State) (p pair key : Nat) (old : BitVec 16) : (s.undoPad p pair key old).cells = s.cells := by
  simp [State.undoPad]

end Sys2Proof.Machine
end

section
/-!
# Scratchpads: grants and the port (R84, R111, R127–R133)
-/

namespace Sys2Proof.Machine

open Sys2Proof

/-! ### What the evaluation of a slot leaves -/

/-- The side word of the present slot and the operations granted in it are as they were. -/
def Fold.SameIssue (x y : Fold) : Prop := y.sideNow = x.sideNow ∧ y.seq.issued = x.seq.issued

theorem Fold.SameIssue.refl (x : Fold) : x.SameIssue x := ⟨rfl, rfl⟩
theorem Fold.SameIssue.trans {x y z : Fold} (h : x.SameIssue y) (k : y.SameIssue z) : x.SameIssue z :=
  ⟨k.1.trans h.1, k.2.trans h.2⟩

theorem Fold.execBp_sameIssue (x : Fold) (bp : Nat) : x.SameIssue (x.execBp bp) := by
  unfold Fold.execBp
  dsimp only
  split <;> exact ⟨rfl, rfl⟩

theorem Fold.execBps_sameIssue (x : Fold) : x.SameIssue x.execBps := by
  unfold Fold.execBps
  generalize x.bpsAt x.seq.slot = l
  induction l generalizing x with
  | nil => exact .refl x
  | cons b l ih =>
    refine Fold.SameIssue.trans ?_ (ih _)
    dsimp only
    split
    · exact .refl x
    · exact x.execBp_sameIssue b

theorem State.modFold_sameIssue {s : State} {f : Nat} {h : Fold → Fold} (e : ∀ x : Fold, x.SameIssue (h x)) (g : Nat) :
    (s.fold g).SameIssue ((s.modFold f h).fold g) := by
  rw [State.fold_modFold]
  split
  · next hg => exact hg ▸ e _
  · exact .refl _

theorem State.prepare_sameIssue (s : State) (f p g : Nat) : (s.fold g).SameIssue ((s.prepare f p).fold g) := by
  obtain ⟨d, h | h⟩ := s.prepare_eq f p <;> rw [h]
  · exact .refl _
  · exact State.modFold_sameIssue (h := fun x => { x with seq := { x.seq with delivered := d, prepared := true } })
      (fun _ => ⟨rfl, rfl⟩) g

theorem State.evaluate_sameIssue (s : State) (f p g : Nat) : (s.fold g).SameIssue ((s.evaluate f p).fold g) := by
  unfold State.evaluate
  dsimp only
  refine (s.prepare_sameIssue f p g).trans ?_
  split
  · exact State.modFold_sameIssue Fold.execBps_sameIssue g
  · exact .refl _

theorem grantState_sameIssue (s : State) (f p g : Nat) : (s.fold g).SameIssue ((grantState s f p).fold g) := by
  unfold grantState
  dsimp only
  refine (s.evaluate_sameIssue f p g).trans ?_
  split
  · split
    · exact State.evaluate_sameIssue _ _ _ g
    · exact .refl _
  · exact .refl _

/-! ### Grants -/

/-- The operation of SPA or SPB of a fold's slot is decided in the state of its grant. -/
theorem spStep_eq {s : State} {f p : Nat} {b : Bool} {op : SpOp} (hs : s.inSlot f = some p)
    (hk : ((s.fold f).sideNow.sp b).kind = some op) (hi : b2n b ∉ (s.fold f).seq.issued) :
    spStep op f b s =
      let v := grantState s f p
      let w := v.grantPad (pairOf f) ((v.fold f).sideNow.sp b).spx (v.fold f).seq.slot
      if (w.fold f).spWaits b then w.noteCause f p else w := by
  have hw : (s.fold f).spWaits b = true := by simp [Fold.spWaits, hk, hi]
  obtain ⟨hside, _⟩ := grantState_sameIssue s f p f
  dsimp only
  rw [hside]
  unfold spStep
  rw [hs]
  exact if_pos ⟨hk, hw⟩

/-- The operations of a row, granted. -/
def State.grantRow (s : State) (row : List SpAccess) : State :=
  row.foldl (fun w x => w.modSeq x.fold (fun y => { y with issued := b2n x.b :: y.issued })) s

theorem State.grantRow_fold (row : List SpAccess) (s : State) (f : Nat) : ((s.grantRow row).fold f).sideNow = (s.fold f).sideNow ∧
    ∀ i, i ∈ ((s.grantRow row).fold f).seq.issued ↔ i ∈ (s.fold f).seq.issued ∨ ∃ x ∈ row, x.fold = f ∧ b2n x.b = i := by
  induction row generalizing s with
  | nil => exact ⟨rfl, fun i => by simp [State.grantRow]⟩
  | cons a row ih =>
    obtain ⟨hside, hiss⟩ := ih (s.modSeq a.fold (fun y => { y with issued := b2n a.b :: y.issued }))
    change ((s.modSeq a.fold _).grantRow row |>.fold f).sideNow = _ ∧ ∀ i, i ∈ ((s.modSeq a.fold _).grantRow row |>.fold f).seq.issued ↔ _
    rw [hside]
    simp only [hiss, State.fold_modSeq]
    split
    · next h =>
      subst h
      refine ⟨rfl, fun i => ?_⟩
      simp [eq_comm, or_assoc, or_left_comm]
    · next h =>
      refine ⟨rfl, fun i => ?_⟩
      simp [Ne.symm h]

theorem b2n_inj {a b : Bool} : b2n a = b2n b ↔ a = b := by cases a <;> cases b <;> decide

/-- Whether an operation that has not been granted waits on, once a row is granted. -/
theorem State.grantRow_spWaits {s : State} {f : Nat} {b : Bool} (hw : (s.fold f).spWaits b = true) (row : List SpAccess) :
    ((s.grantRow row).fold f).spWaits b = true ↔ ∀ x ∈ row, ¬ (x.fold = f ∧ x.b = b) := by
  obtain ⟨hside, hiss⟩ := s.grantRow_fold row f
  have h0 : ((s.fold f).sideNow.sp b).kind.isSome = true ∧ b2n b ∉ (s.fold f).seq.issued := by
    simpa [Fold.spWaits] using hw
  obtain ⟨hkind, hnot⟩ := h0
  simp [Fold.spWaits, hside, hkind, hiss, hnot, b2n_inj]

theorem State.spWaits_of_cells {s t : State} (h : t.cells = s.cells) (f : Nat) (b : Bool) :
    (t.fold f).spWaits b = (s.fold f).spWaits b := by
  rw [State.fold_of_cells h]

/-- The operations that are served with the first candidate. -/
def rowOf (a : SpAccess) (l : List SpAccess) : List SpAccess := (a :: l).filter (fun x => x.addr / 16 == a.addr / 16)

/-- A row without conflict is granted and waits at the port. -/
def State.rowGranted (s : State) (q : Nat) (row : List SpAccess) : State :=
  (s.grantRow row).modPair q (fun x => { x with port := x.port ++ row })

theorem State.grantPad_none {s : State} {q k t : Nat} (h : s.padCandidates q k t = none) : s.grantPad q k t = s := by
  unfold State.grantPad
  rw [h]

theorem State.grantPad_granted {s : State} {q k t : Nat} {a : SpAccess} {l : List SpAccess}
    (h : s.padCandidates q k t = some (a :: l)) (hno : conflicts (rowOf a l) = []) :
    s.grantPad q k t = s.rowGranted q (rowOf a l) := by
  unfold State.grantPad
  rw [h]
  exact if_pos (List.isEmpty_iff.mpr hno)

theorem State.grantPad_conflict {s : State} {q k t p : Nat} {a : SpAccess} {l : List SpAccess}
    (h : s.padCandidates q k t = some (a :: l)) (hyes : conflicts (rowOf a l) ≠ []) (hp : (s.fold a.fold).pasture = some p) :
    s.grantPad q k t = s.faultReported p {
      status := 0x0607, unit := q, slot := t, index := k, fields := conflictFields (conflicts (rowOf a l)), dir := false,
      valid := true, ecycle := (s.pas p).stat.ecycle } := by
  unfold State.grantPad
  rw [h]
  refine (if_neg (mt List.isEmpty_iff.mp hyes)).trans ?_
  rw [hp]
  rfl

/-- Settles O28: the cases are those of the candidates and of the conflicts in the row served. -/
theorem scratchpadGrants : Obligations.ScratchpadGrants := by
  intro s f p b op c hc hs hk hi
  have hexec : exec c s = .next (spStep op f b s) := by
    simp only [List.mem_cons, Prod.mk.injEq, List.not_mem_nil, or_false] at hc
    obtain ⟨rfl, rfl⟩ | ⟨rfl, rfl⟩ | ⟨rfl, rfl⟩ | ⟨rfl, rfl⟩ | ⟨rfl, rfl⟩ := hc <;> rfl
  rw [hexec, spStep_eq hs hk hi]
  obtain ⟨hside, hiss⟩ := grantState_sameIssue s f p f
  generalize grantState s f p = v at *
  have hw : (v.fold f).spWaits b = true := by simp [Fold.spWaits, hside, hiss, hk, hi]
  refine ⟨fun a l hl => ⟨fun hno hx => ?_, fun hno hx => ?_, fun hyes p' hp => ?_⟩, fun hl => ?_⟩
  · dsimp only
    rw [State.grantPad_granted hl hno]
    obtain ⟨x, hmem, hx⟩ := hx
    exact congrArg Host.Outcome.next (if_neg (mt (State.grantRow_spWaits hw _).mp fun hall => hall x hmem hx))
  · dsimp only
    rw [State.grantPad_granted hl hno]
    exact congrArg Host.Outcome.next (if_pos ((State.grantRow_spWaits hw _).mpr hx))
  · dsimp only
    rw [State.grantPad_conflict hl hyes hp]
    refine congrArg Host.Outcome.next (if_pos ?_)
    rwa [State.spWaits_of_cells (State.faultReported_cells _ _ _)]
  · dsimp only
    rw [State.grantPad_none hl]
    exact congrArg Host.Outcome.next (if_pos hw)

end Sys2Proof.Machine
end

section
/-!
# The port of a scratchpad (R84, R111, R128)
-/

namespace Sys2Proof.Machine

open Sys2Proof

/-! ### The words that one access leaves -/

/-- What a write-class operation makes of a word. -/
def SpOp.join (op : SpOp) (old d : BitVec 16) : BitVec 16 :=
  match op with
  | .set => old ||| d
  | .clr => old &&& ~~~d
  | _ => d

/-- Whether a write of an access covers the word of a key. -/
def SpAccess.covers (a : SpAccess) (k key : Nat) : Bool :=
  a.op.writes && decide (padKey k a.addr ≤ key) && decide (key < padKey k a.addr + a.n)

theorem Pair.word_setWord (x : Pair) (key j : Nat) (v : BitVec 16) : (x.setWord key v).word j = if j = key then v else x.word j := by
  unfold Pair.word Pair.setWord
  split
  · next h => rw [h]; exact tget_tput_self _ _ _ _
  · next h => exact tget_tput_ne _ _ _ h

/-- A write-class access joins its data to its words, one after the other. -/
theorem Pair.write_eq (x : Pair) {a : SpAccess} (h : a.op.writes = true) : x.write a = (List.range a.n).foldl (fun q i =>
    q.setWord (padKey a.pad (a.addr + i)) (a.op.join (q.word (padKey a.pad (a.addr + i))) (a.data.getD i 0))) x := by
  obtain ⟨fold, b, op, pad, addr, n, data, slot, due, rg⟩ := a
  cases op
  case rd => cases h
  case wide => cases h
  all_goals rfl

theorem padKey_add (k a i : Nat) : padKey k (a + i) = padKey k a + i := (Nat.add_assoc _ _ _).symm

theorem Pair.write_word (x : Pair) {a : SpAccess} (h : a.op.writes = true) : (x.write a).port = x.port ∧ ∀ key, (x.write a).word key =
    if a.covers a.pad key then a.op.join (x.word key) (a.data.getD (key - padKey a.pad a.addr) 0) else x.word key := by
  rw [x.write_eq h]
  unfold SpAccess.covers
  rw [h]
  simp only [padKey_add, Bool.true_and, Bool.and_eq_true, decide_eq_true_eq]
  generalize padKey a.pad a.addr = base
  generalize a.n = n
  induction n with
  | zero => exact ⟨rfl, fun key => (if_neg (by omega)).symm⟩
  | succ n ih =>
    obtain ⟨hport, hword⟩ := ih
    rw [List.range_succ, List.foldl_append, List.foldl_cons, List.foldl_nil]
    refine ⟨hport, fun key => ?_⟩
    rw [Pair.word_setWord, hword, hword]
    by_cases hk : key = base + n
    · subst hk
      rw [if_pos rfl, if_neg (by omega), if_pos (by omega), Nat.add_sub_cancel_left]
    · rw [if_neg hk]
      exact if_congr (by omega) rfl rfl

/-- The accesses of a row, performed at the words; reads leave them. -/
def Pair.writeRow (x : Pair) (row : List SpAccess) : Pair := row.foldl (fun x a => if a.op.writes then x.write a else x) x

theorem Pair.writeRow_cons (x : Pair) (a : SpAccess) (row : List SpAccess) :
    x.writeRow (a :: row) = (if a.op.writes then x.write a else x).writeRow row := rfl

theorem Pair.writeRow_port (x : Pair) (row : List SpAccess) : (x.writeRow row).port = x.port := by
  induction row generalizing x with
  | nil => rfl
  | cons a row ih =>
    rw [Pair.writeRow_cons, ih]
    split
    · next h => exact (x.write_word h).1
    · rfl

theorem Pair.writeOne_word (x : Pair) {a : SpAccess} {k : Nat} (hk : a.pad = k) (key : Nat) :
    (if a.op.writes then x.write a else x).word key =
      if a.covers k key then a.op.join (x.word key) (a.data.getD (key - padKey k a.addr) 0) else x.word key := by
  subst hk
  split
  · next h => exact (x.write_word h).2 key
  · next h => simp [SpAccess.covers, h]

/-- A word that no write of the row covers stays. -/
theorem Pair.writeRow_uncovered {row : List SpAccess} {k key : Nat} (hk : ∀ a ∈ row, a.pad = k)
    (h : row.filter (fun a => a.covers k key) = []) (x : Pair) : (x.writeRow row).word key = x.word key := by
  induction row generalizing x with
  | nil => rfl
  | cons a row ih =>
    obtain ⟨ha, hrow⟩ : ¬a.covers k key = true ∧ row.filter (fun a => a.covers k key) = [] := by
      rw [List.filter_cons] at h
      split at h
      · cases h
      · exact ⟨‹_›, h⟩
    rw [Pair.writeRow_cons, ih (fun a h => hk a (List.mem_cons_of_mem _ h)) hrow,
      Pair.writeOne_word x (hk a (List.mem_cons_self ..)), if_neg ha]

/-- A word that one write of the row covers takes what that write joins to it. -/
theorem Pair.writeRow_covered {row : List SpAccess} {k key : Nat} {a : SpAccess} (hk : ∀ a ∈ row, a.pad = k)
    (h : row.filter (fun a => a.covers k key) = [a]) (x : Pair) :
    (x.writeRow row).word key = a.op.join (x.word key) (a.data.getD (key - padKey k a.addr) 0) := by
  induction row generalizing x with
  | nil => cases h
  | cons b row ih =>
    have hb := hk b (List.mem_cons_self ..)
    have hrow := fun a h => hk a (List.mem_cons_of_mem b h)
    rw [Pair.writeRow_cons]
    by_cases hc : b.covers k key = true
    · rw [List.filter_cons, if_pos hc] at h
      obtain ⟨rfl, hnil⟩ := List.cons.inj h
      rw [Pair.writeRow_uncovered hrow hnil, Pair.writeOne_word x hb, if_pos hc]
    · rw [List.filter_cons, if_neg hc] at h
      rw [ih hrow h, Pair.writeOne_word x hb, if_neg hc]

/-! ### One access of the port -/

/-- The words that the reads of a row deliver, from the words that stood there. -/
def padReads (before : Pair) (k : Nat) (a : SpAccess) : List DueWord :=
  (List.range a.n).map (fun i => { slot := a.due, group := a.rg + i, word := before.word (padKey k (a.addr + i)) })

/-- The reads of a row add their words to those due at their folds, and change nothing else. -/
theorem State.foldl_reads (before : Pair) (k : Nat) (row : List SpAccess) (s : State) :
    let t := row.foldl (fun s a => if a.op.writes then s
      else s.modSeq a.fold (fun x => { x with spDue := x.spDue ++ padReads before k a })) s
    t = { s with folds := t.folds } ∧ ∀ g, t.fold g = { s.fold g with seq := { (s.fold g).seq with
      spDue := (s.fold g).seq.spDue ++ (row.filter (fun a => a.fold == g && !a.op.writes)).flatMap (padReads before k) } } := by
  induction row generalizing s with
  | nil => exact ⟨rfl, fun g => by simp⟩
  | cons a row ih =>
    by_cases ha : a.op.writes = true
    · have hskip : (a.fold == · && !a.op.writes) = fun _ => false := by simp [ha]
      rw [List.foldl_cons, if_pos ha]
      obtain ⟨heq, hfold⟩ := ih s
      exact ⟨heq, fun g => by simpa [List.filter_cons, ha] using hfold g⟩
    · rw [List.foldl_cons, if_neg ha]
      obtain ⟨heq, hfold⟩ := ih (s.modSeq a.fold (fun x => { x with spDue := x.spDue ++ padReads before k a }))
      refine ⟨heq, fun g => (hfold g).trans ?_⟩
      rw [State.fold_modSeq]
      by_cases hg : g = a.fold
      · subst hg
        simp [ha]
      · simp [hg, Ne.symm hg]

/-- A state differs from another in its pastures alone. -/
def State.PasOnly (s t : State) : Prop := t = { s with pastures := t.pastures }

theorem State.PasOnly.refl (s : State) : s.PasOnly s := rfl
theorem State.PasOnly.trans {s t u : State} (h : s.PasOnly t) (k : t.PasOnly u) : s.PasOnly u :=
  Eq.trans k (congrArg (fun x : State => { x with pastures := u.pastures }) h)

theorem foldl_pasOnly {α : Type} {g : State → α → State} (h : ∀ (s : State) x, s.PasOnly (g s x)) (l : List α) (s : State) :
    s.PasOnly (l.foldl g s) := by
  induction l generalizing s with
  | nil => exact .refl s
  | cons a l ih => exact (h s a).trans (ih _)

theorem State.undoPad_pasOnly (s : State) (p pair key : Nat) (old : BitVec 16) : s.PasOnly (s.undoPad p pair key old) := by
  unfold State.undoPad
  split <;> rfl

/-- The writes of a row change the words of their pair, and what the undo log keeps of them. -/
theorem State.foldl_writes {q : Nat} {g : State → SpAccess → State} (row : List SpAccess)
    (hwrite : ∀ (s : State) (a : SpAccess), a.op.writes = true →
      ∃ u, s.PasOnly u ∧ g s a = u.modPair q (fun x => x.write a))
    (hread : ∀ (s : State) (a : SpAccess), ¬a.op.writes = true → g s a = s) (s : State) :
    let t := row.foldl g s
    t = { s with pastures := t.pastures, pairs := t.pairs } ∧ t.pair q = (s.pair q).writeRow row ∧
      ∀ r, r ≠ q → t.pair r = s.pair r := by
  induction row generalizing s with
  | nil => exact ⟨rfl, rfl, fun _ _ => rfl⟩
  | cons a row ih =>
    obtain ⟨heq, hq, hr⟩ := ih (g s a)
    dsimp only
    rw [List.foldl_cons]
    by_cases ha : a.op.writes = true
    · obtain ⟨u, hs, hu⟩ := hwrite s a ha
      have hpair : ∀ r, (g s a).pair r = if r = q then (s.pair q).write a else s.pair r := fun r => by
        rw [hu, State.pair_modPair, hs]
        rfl
      refine ⟨heq.trans ?_, hq.trans ?_, fun r h => (hr r h).trans ?_⟩
      · rw [hu, hs]
        rfl
      · rw [hpair, if_pos rfl, Pair.writeRow_cons, if_pos ha]
      · rw [hpair, if_neg h]
    · rw [hread s a ha] at heq hq hr ⊢
      rw [Pair.writeRow_cons, if_neg ha]
      exact ⟨heq, hq, hr⟩

/-- The operations that the port serves with the oldest one that waits. -/
def servedWith (k : Nat) (h : SpAccess) (a : SpAccess) : Bool := a.pad == k && a.slot == h.slot && a.addr / 16 == h.addr / 16

/-- An access of the port in its parts: it takes the row, its reads see the words before, and each write goes with its undo entries. -/
theorem State.performPad_eq {s : State} {q k : Nat} {h : SpAccess} (hfind : (s.pair q).port.find? (fun a => a.pad == k) = some h) :
    let row := (s.pair q).port.filter (servedWith k h)
    ∃ g : State → SpAccess → State,
      (∀ (s : State) (a : SpAccess), a.op.writes = true → ∃ u, s.PasOnly u ∧ g s a = u.modPair q (fun x => x.write a)) ∧
      (∀ (s : State) (a : SpAccess), ¬a.op.writes = true → g s a = s) ∧
      s.performPad q k = row.foldl g (row.foldl (fun t a => if a.op.writes then t
        else t.modSeq a.fold (fun x => { x with spDue := x.spDue ++ padReads (s.pair q) k a }))
          (s.modPair q (fun x => { x with port := x.port.filter (fun a => !servedWith k h a) }))) := by
  unfold State.performPad
  dsimp only
  rw [hfind]
  refine ⟨_, fun s a ha => ?_, fun s a ha => ?_, rfl⟩
  · rw [if_pos ha]
    cases (s.fold a.fold).pasture with
    | none => exact ⟨s, .refl s, rfl⟩
    | some p => exact ⟨_, foldl_pasOnly (fun s i => s.undoPad_pasOnly p q _ _) _ s, rfl⟩
  · exact if_neg ha

/-- One access of the port: it serves a row, and nothing but the pair, the folds of its reads and the undo logs changes. -/
theorem State.performPad_spec {s : State} {q k : Nat} {h : SpAccess} (hfind : (s.pair q).port.find? (fun a => a.pad == k) = some h) :
    let row := (s.pair q).port.filter (servedWith k h)
    let t := s.performPad q k
    t = { s with folds := t.folds, pairs := t.pairs, pastures := t.pastures } ∧
    t.pair q = Pair.writeRow { s.pair q with port := (s.pair q).port.filter (fun a => !servedWith k h a) } row ∧
    (∀ r, r ≠ q → t.pair r = s.pair r) ∧
    ∀ g, t.fold g = { s.fold g with seq := { (s.fold g).seq with
      spDue := (s.fold g).seq.spDue ++ (row.filter (fun a => a.fold == g && !a.op.writes)).flatMap (padReads (s.pair q) k) } } := by
  obtain ⟨g, hwrite, hread, hperform⟩ := State.performPad_eq hfind
  dsimp only
  rw [hperform]
  obtain ⟨hreads, hfold⟩ := State.foldl_reads (s.pair q) k ((s.pair q).port.filter (servedWith k h))
    (s.modPair q (fun x => { x with port := x.port.filter (fun a => !servedWith k h a) }))
  generalize List.foldl _ (s.modPair q _) _ = u at *
  obtain ⟨hwrites, hq, hr⟩ := State.foldl_writes ((s.pair q).port.filter (servedWith k h)) hwrite hread u
  generalize List.foldl g u _ = t at *
  have hfolds : t.folds = u.folds := (congrArg State.folds hwrites).trans rfl
  have hpair : ∀ r, u.pair r = (s.modPair q (fun x => { x with port := x.port.filter (fun a => !servedWith k h a) })).pair r :=
    fun r => (congrArg (State.pair · r) hreads).trans rfl
  refine ⟨?_, ?_, fun r hne => ?_, fun g => ?_⟩
  · refine (hwrites.trans (congrArg (fun x : State => { x with pastures := t.pastures, pairs := t.pairs }) hreads)).trans ?_
    rw [hfolds]
    rfl
  · rw [hq, hpair, State.pair_modPair_self]
  · rw [hr r hne, hpair, State.pair_modPair, if_neg hne]
  · exact (congrArg (tget · Fold.init g) hfolds).trans (hfold g)

/-- Settles O29: the port performs the row of its oldest operation, and each word of it takes what the one write that covers it joins. -/
theorem scratchpadPortPerforms : Obligations.ScratchpadPortPerforms := by
  intro s q k h hfind
  obtain ⟨heq, hq, hr, hfold⟩ := State.performPad_spec hfind
  have hpad : ∀ a ∈ (s.pair q).port.filter (servedWith k h), a.pad = k := fun a ha => by
    have hserved := (List.mem_filter.mp ha).2
    simp only [servedWith, Bool.and_eq_true, beq_iff_eq] at hserved
    exact hserved.1.1
  refine ⟨fun hmode => ⟨s.performPad q k, congrArg Host.Outcome.next (if_neg hmode), ?_, fun key hno => ?_, fun key a hone => ?_,
    fun g => ?_, hr, fun g => ?_, ?_, ?_⟩, fun hmode => congrArg Host.Outcome.next (if_pos hmode)⟩
  · rw [hq, Pair.writeRow_port]
    rfl
  · rw [hq]
    exact Pair.writeRow_uncovered hpad hno _
  · rw [hq]
    refine (Pair.writeRow_covered hpad hone _).trans ?_
    cases a.op <;> rfl
  · rw [hfold]
    rfl
  · rw [hfold]
    exact ⟨rfl, rfl⟩
  · exact (congrArg State.hbm heq).trans rfl
  · exact (congrArg State.host heq).trans rfl

end Sys2Proof.Machine
end

section
/-!
# Channel operations, word arrivals and the flags of a slot (R47, R87, R99, R104, R108–R110)
-/

namespace Sys2Proof.Machine

open Sys2Proof

/-! ### An issue of the slot -/

/-- Where nothing holds the slot back, the operation acts in the evaluated state. -/
theorem issueStep_runs {s : State} {f p : Nat} {has : Fold → Bool} {act : State → Nat → State} (h : slotRuns s f p)
    (hhas : has (s.fold f) = true) : issueStep f has act s = act (s.evaluate f p) p := by
  obtain ⟨hslot, hcause⟩ := h
  unfold issueStep
  rw [hslot]
  exact (if_pos hhas).trans (if_pos hcause)

/-- Where something does, the fold stalls with the cause. -/
theorem issueStep_stalls {s : State} {f p : Nat} {has : Fold → Bool} {act : State → Nat → State} (h : s.inSlot f = some p)
    (hhas : has (s.fold f) = true) (hcause : (s.evaluate f p).stallCause f p ≠ 0) :
    issueStep f has act s = (s.evaluate f p).noteCause f p := by
  unfold issueStep
  rw [h]
  exact (if_pos hhas).trans (if_neg hcause)

/-- An operation of the slot that is not issued is due. -/
theorem due_of_not_issued {v : Bool} {i : Nat} {l : List Nat} (hv : v = true) (hi : i ∉ l) : (v && !l.contains i) = true := by
  simp [hv, hi]

theorem State.issueSnd_due {v : State} {f p c : Nat} {k : Bool} (hv : ((v.fold f).sideNow.snd k).v = true)
    (hi : (2 + b2n k) ∉ (v.fold f).seq.issued) (hc : (v.pas p).chanFrom f ((v.fold f).sideNow.snd k).ep = some c) :
    v.issueSnd f p k = ((v.modChan p c (fun h => { h with
      srcFifo := h.srcFifo ++ [busGroup (v.fold f).seq.bus ((v.fold f).sideNow.snd k).g], sent := h.sent + 1 })).noteSend p c).markIssued
        f (2 + b2n k) := by
  unfold State.issueSnd
  dsimp only
  rw [if_pos (due_of_not_issued hv hi), hc]

theorem State.issueRcv_due {v : State} {f p c : Nat} {k : Bool} (hv : ((v.fold f).sideNow.rcv k).v = true)
    (hi : (5 + b2n k) ∉ (v.fold f).seq.issued) (hc : (v.pas p).chanInto f ((v.fold f).sideNow.rcv k).ep = some c) :
    v.issueRcv f p k = (v.modChan p c (fun h => { h with dstFifo := h.dstFifo.tail })).markIssued f (5 + b2n k) := by
  unfold State.issueRcv
  dsimp only
  rw [if_pos (due_of_not_issued hv hi), hc]

/-! ### Word arrivals -/

theorem exec_channelWordArrival {s : State} {p c : Nat} (hm : s.pathsMove p = true) (hc : c < (s.pas p).chans.length) :
    exec (.channelWordArrival p c) s = .next (s.wordArrives p c) :=
  congrArg Host.Outcome.next (if_pos (by rw [hm]; simpa using hc))

/-- At a fold the oldest word of a path enters the FIFO where the ends are ready and room is there, and waits otherwise. -/
theorem State.wordArrives_path {s : State} {p c n : Nat} {w : BitVec 16} {r : List (Nat × BitVec 16)}
    (hdst : ((s.pas p).chan c).dstKind = .fold) (hsrc : ((s.pas p).chan c).srcKind ≠ .link)
    (hpath : ((s.pas p).chan c).path = (n, w) :: r) :
    s.wordArrives p c = if s.endsReady ((s.pas p).chan c) = true ∧ ((s.pas p).chan c).dstFifo.length < 16 then
      s.modChan p c (fun h => { h with path := r, dstFifo := h.dstFifo ++ [w] }) else s := by
  unfold State.wordArrives
  dsimp only
  have hl : ((s.pas p).chan c).dstKind ≠ .link := by rw [hdst]; decide
  rw [if_neg hl, if_neg hsrc, if_neg (by simp [hpath]), hpath, hdst]
  dsimp only
  by_cases he : s.endsReady ((s.pas p).chan c) = true
  · rw [if_neg (not_not_intro he)]
    exact if_congr (by simp [he, fifoCap]) rfl rfl
  · rw [if_pos he, if_neg fun h => he h.1]

/-- Over a link the word comes from the buffer of the receiving port. -/
theorem State.wordArrives_link {s u : State} {p c : Nat} {w : BitVec 16} (hdst : ((s.pas p).chan c).dstKind = .fold)
    (hsrc : ((s.pas p).chan c).srcKind = .link) (htake : s.takeLinkWord p c = some (w, u))
    (hends : s.endsReady ((s.pas p).chan c) = true) (hroom : ((s.pas p).chan c).dstFifo.length < 16) (hmove : s.pathsMove p = true) :
    s.wordArrives p c = u.modChan p c (fun h => { h with dstFifo := h.dstFifo ++ [w] }) := by
  unfold State.wordArrives
  dsimp only
  have hl : ((s.pas p).chan c).dstKind ≠ .link := by rw [hdst]; decide
  rw [if_neg hl, if_pos hsrc]
  refine (if_pos ⟨hdst, hroom, hends, hmove⟩).trans ?_
  rw [htake]

/-! ### The flags -/

/-- What a fold in a slot is. -/
theorem State.inSlot_spec {s : State} {f p : Nat} (h : s.inSlot f = some p) :
    (s.fold f).pasture = some p ∧ s.running p = true ∧ (s.fold f).seq.arrived = false ∧ (s.fold f).seq.ended = false := by
  unfold State.inSlot at h
  cases hp : (s.fold f).pasture with
  | none => rw [hp] at h; cases h
  | some p' =>
    rw [hp] at h
    dsimp only at h
    split at h
    · next hc =>
      obtain ⟨_, hrun, _, _, harr, hend⟩ := hc
      obtain rfl := Option.some.inj h
      exact ⟨rfl, hrun, Bool.eq_false_iff.mpr harr, Bool.eq_false_iff.mpr hend⟩
    · cases h

theorem exec_probeLatch_slot {s : State} {f p : Nat} (h : s.inSlot f = some p) :
    exec (.probeLatch f) s = .next (issueStep f (fun x => x.sideNow.probe) (fun s _ => s.issueProbe f) s) := by
  obtain ⟨hp, hrun, harr, hend⟩ := State.inSlot_spec h
  change Host.Outcome.next _ = _
  rw [hp]
  exact congrArg Host.Outcome.next (if_neg (by simp [harr, hend]))

/-- Settles O30. -/
theorem channelOperationsAndFlags : Obligations.ChannelOperationsAndFlags := by
  refine ⟨fun s f p c k => ?_, fun s f p h => ?_⟩
  · obtain ⟨hside, _⟩ := s.evaluate_sameIssue f p f
    refine ⟨fun h hv hi hc => ?_, fun h hv hi hc => ?_, fun h hcause => ⟨fun hv => ?_, fun hv => ?_⟩,
      fun hmove hlen hdst => ⟨fun n w r hsrc hpath => ⟨fun hends hroom => ?_, fun hno => ?_⟩, fun w u hsrc htake hends hroom => ?_⟩⟩
    · refine congrArg Host.Outcome.next ((issueStep_runs h hv).trans ?_)
      exact State.issueSnd_due (by rw [hside]; exact hv) hi hc
    · refine congrArg Host.Outcome.next ((issueStep_runs h hv).trans ?_)
      exact State.issueRcv_due (by rw [hside]; exact hv) hi hc
    · exact congrArg Host.Outcome.next (issueStep_stalls h hv hcause)
    · exact congrArg Host.Outcome.next (issueStep_stalls h hv hcause)
    · rw [exec_channelWordArrival hmove hlen, State.wordArrives_path hdst hsrc hpath, if_pos ⟨hends, hroom⟩]
    · rw [exec_channelWordArrival hmove hlen, State.wordArrives_path hdst hsrc hpath, if_neg]
      rintro ⟨hends, hroom⟩
      rcases hno with hno | hno
      · simp [hno] at hends
      · omega
    · rw [exec_channelWordArrival hmove hlen, State.wordArrives_link hdst hsrc htake hends hroom hmove]
  · obtain ⟨hside, _⟩ := s.evaluate_sameIssue f p f
    refine ⟨fun hv hi => ?_, fun hv hi => ?_, fun hv hi => ?_⟩
    · refine congrArg Host.Outcome.next ((issueStep_runs h hv).trans ?_)
      exact if_pos (due_of_not_issued (by rw [hside]; exact hv) hi)
    · refine congrArg Host.Outcome.next ((issueStep_runs h hv).trans ?_)
      exact if_pos (due_of_not_issued (by rw [hside]; exact hv) hi)
    · rw [exec_probeLatch_slot h.1]
      refine congrArg Host.Outcome.next ((issueStep_runs h hv).trans ?_)
      exact if_pos (due_of_not_issued (by rw [hside]; exact hv) hi)

end Sys2Proof.Machine
end

section
/-!
# Barriers: arrivals and releases (R47, R53, R113–R117)
-/

namespace Sys2Proof.Machine

open Sys2Proof

/-- A release that is committed is under way. -/
theorem Pasture.releasing_of_committed {x : Pasture} (h : x.committed = true) : x.releasing = true := by
  unfold Pasture.releasing
  unfold Pasture.committed at h
  rw [h, Bool.true_or]

theorem State.tryRelease_root {s : State} {p : Nat} (hroot : s.isRoot p = true) (hready : s.barrierReady p = true)
    (h : s.eventWait p = false ∨ (s.pas p).committed = true) :
    s.tryRelease p = (if (s.pas p).releasing then s else s.modExt p (fun x => { x with latched := false })).rootRelease p := by
  unfold State.tryRelease
  rw [if_pos hroot]
  refine if_pos ?_
  rcases h with h | h <;> simp [hready, h]

theorem State.tryRelease_member {s : State} {p : Nat} (hroot : s.isRoot p = false) (hrun : s.running p = true) (hmode : s.dev.mode ≠ .hold) :
    s.tryRelease p = s.memberRelease p := by
  unfold State.tryRelease
  rw [hroot, hrun]
  exact if_neg hmode

theorem State.memberRelease_none {s : State} {p : Nat} (h : (s.pas p).run.relTok = none) : s.memberRelease p = s := by
  unfold State.memberRelease
  rw [h]

theorem State.memberRelease_noRing {s : State} {p body : Nat} (h : (s.pas p).run.relTok = some body) (hring : bitOf body 12 = false) :
    s.memberRelease p = s.releaseBarrier p false (bitOf body 13) (bitOf body 14) := by
  unfold State.memberRelease
  rw [h]
  dsimp only
  rw [hring]
  exact if_neg (by simp)

/-- A barrier that is not complete is not released by its root. -/
theorem State.barrierReady_of_incomplete {s : State} {p : Nat} (h : s.barrierComplete p = false) : s.barrierReady p = false := by
  unfold State.barrierReady
  rw [h, Bool.and_false]
  rfl

/-- Settles O32. -/
theorem barriersArriveAndRelease : Obligations.BarriersArriveAndRelease := by
  intro s f p
  refine ⟨fun hp hend harr hrun => ?_, fun hp hseq hrun hno => ?_, fun hroot hready => ⟨fun hev hrel => ?_, fun hcom => ?_⟩,
    fun body hroot hrun hmode htok hring => ?_, fun hinc hwho => ?_⟩
  · change Host.Outcome.next _ = _
    rw [hp]
    exact congrArg Host.Outcome.next (if_pos ⟨hend, by simp [harr], hrun⟩)
  · change Host.Outcome.next _ = _
    rw [hp]
    refine congrArg Host.Outcome.next ((if_pos ⟨hrun, hseq.symm⟩).trans ?_)
    exact if_neg (by simp [hno])
  · refine congrArg Host.Outcome.next ((State.tryRelease_root hroot hready (.inl hev)).trans ?_)
    rw [hrel]
    rfl
  · refine congrArg Host.Outcome.next ((State.tryRelease_root hroot hready (.inr hcom)).trans ?_)
    rw [Pasture.releasing_of_committed hcom]
    rfl
  · exact congrArg Host.Outcome.next ((State.tryRelease_member hroot hrun hmode).trans (State.memberRelease_noRing htok hring))
  · refine congrArg Host.Outcome.next ?_
    unfold State.tryRelease
    split
    · rw [State.barrierReady_of_incomplete hinc]
      rfl
    · next hroot =>
      rw [State.memberRelease_none (hwho.resolve_left hroot)]
      split
      · exact ite_self s
      · rfl

end Sys2Proof.Machine
end

section
/-!
# Cycle starts, the watchdog, flows and tasks, and the scrubber (R55–R57, R124, R194, R219, R229, R235)
-/

namespace Sys2Proof.Machine

open Sys2Proof

/-! ### Cycle starts -/

/-- A cycle-start event of a port that one pasture listens to. -/
theorem exec_cycStart_single {s : State} {port p : Nat} (h : numsWhere 16 (fun q => (s.pas q).run.extPort == some port &&
    (s.pas q).comp.edgePorts.contains port && s.isRoot q) = [p]) :
    exec (.cycStart port) s = .next (s.cycStart p) ∧ s.isRoot p = true := by
  refine ⟨?_, ?_⟩
  · change Host.Outcome.next (s.cycEdge port) = _
    unfold State.cycEdge
    rw [h]
    rfl
  · have hmem : p ∈ numsWhere 16 (fun q => (s.pas q).run.extPort == some port &&
        (s.pas q).comp.edgePorts.contains port && s.isRoot q) := by rw [h]; exact List.mem_singleton_self p
    have hlisten := (List.mem_filter.mp hmem).2
    simp only [Bool.and_eq_true] at hlisten
    exact hlisten.2

theorem State.cycStart_extclk {s : State} {p : Nat} (hp : s.pstate p = .running) (hm : (s.pas p).stat.runMode = .extclk) :
    s.cycStart p = if s.pstate p = .running ∧ s.ready p ∧ ¬ (s.pas p).ext.latched ∧ s.isRoot p then
      (s.modExt p (fun e => { e with slackMin := min e.slackMin (satTo 16 ((s.pas p).ext.readyFor.getD 0)) })).modRun p (fun r => { r with
        cross := some 3, event := 1 })
      else s.overrun p := by
  unfold State.cycStart
  rw [hp]
  exact if_pos hm

theorem State.cycStart_held {s : State} {p : Nat} (hp : s.pstate p ∈ [PState.loaded, .frozen]) :
    s.cycStart p = s.modExt p (fun e => { e with heldEv := satTo 16 (e.heldEv + 1) }) := by
  unfold State.cycStart
  obtain h | h : s.pstate p = .loaded ∨ s.pstate p = .frozen := by simpa using hp
  · rw [h]
  · rw [h]

/-! ### The watchdog -/

/-- The folds of a pasture that wait, with what they wait for. -/
def State.waits (s : State) (p : Nat) : List (Nat × Wait) := (s.pasFolds p).filterMap (fun f => (s.waitOf f p).map (fun w => (f, w)))

theorem exec_watchdogExpiry {s : State} {p : Nat} (hev : (s.pstate p).evaluates = true) (hmode : s.dev.mode ≠ .hold)
    (hen : (s.pas p).wdog.enable = true) (hper : 2 ^ (max 16 (min 36 (s.pas p).wdog.periodLog2)) ≤ (s.pas p).wdog.counter) :
    exec (.watchdogExpiry p) s = .next (s.watchdogExpire p) :=
  congrArg Host.Outcome.next (if_pos ⟨hev, hmode, hen, hper⟩)

theorem State.watchdogExpire_edge {s : State} {p f : Nat} {w : Wait} (h : (s.waits p).find? (fun e => s.waitEdge p e.2) = some (f, w)) :
    s.watchdogExpire p = (((s.deadlockReport p f (some w)).modWdog p (fun d => { d with
      extWait := true, counter := 0 })).raiseVector (65 + p)).pasEvent p pevExtWait := by
  unfold State.waits at h
  unfold State.watchdogExpire
  dsimp only
  rw [h]

theorem State.watchdogExpire_inside {s : State} {p f : Nat} {w : Wait} {l : List (Nat × Wait)}
    (hno : ∀ e ∈ s.waits p, s.waitEdge p e.2 = false) (h : s.waits p = (f, w) :: l) :
    s.watchdogExpire p = ((s.deadlockReport p f (some w)).raiseVector (65 + p)).faultPas p 0x0605 none := by
  have hfind : (s.waits p).find? (fun e => s.waitEdge p e.2) = none :=
    List.find?_eq_none.mpr fun e he => Bool.eq_false_iff.mp (hno e he)
  unfold State.waits at h hfind
  unfold State.watchdogExpire
  dsimp only
  rw [hfind, h]

theorem State.watchdogExpire_none {s : State} {p f : Nat} {l : List Nat} (h : s.waits p = []) (hf : s.pasFolds p = f :: l) :
    s.watchdogExpire p = (((s.deadlockReport p f none).modWdog p (fun d => { d with
      counter := 0 })).raiseVector (65 + p)).controlFault p 0x0606 none := by
  have hfind : (s.waits p).find? (fun e => s.waitEdge p e.2) = none := by rw [h]; rfl
  unfold State.waits at h hfind
  unfold State.watchdogExpire
  dsimp only
  rw [hfind, h, hf]

/-- Settles O34. -/
theorem cycleStartsAndWatchdog : Obligations.CycleStartsAndWatchdog := by
  refine ⟨fun s port p hone => ?_, fun s p hev hmode hen hper => ⟨fun f w h => ?_, fun f w l hno h => ?_, fun f l h hf => ?_⟩⟩
  · obtain ⟨hexec, hroot⟩ := exec_cycStart_single hone
    rw [hexec]
    refine ⟨fun hp hm hready hl => ?_, fun hp hm hready => ?_, fun hp => ?_⟩
    · rw [State.cycStart_extclk hp hm, if_pos ⟨hp, hready, by simp [hl], hroot⟩]
    · rw [State.cycStart_extclk hp hm, if_neg fun h => by simp [hready] at h]
    · rw [State.cycStart_held hp]
  · rw [exec_watchdogExpiry hev hmode hen hper, State.watchdogExpire_edge h]
  · rw [exec_watchdogExpiry hev hmode hen hper, State.watchdogExpire_inside hno h]
  · rw [exec_watchdogExpiry hev hmode hen hper, State.watchdogExpire_none h hf]

end Sys2Proof.Machine
end

section
/-!
# Flows and tasks, and the scrubber (R55–R57, R200, R219, R229, R235)
-/

namespace Sys2Proof.Machine

open Sys2Proof

/-! ### Flows and tasks -/

theorem State.flowTake_done {s w : State} {p : Nat} (h : s.takeReady p = true)
    (htake : s.takePorts p (s.portsOf p rolePortOut) = (w, true)) :
    s.flowTake p = (w.modRun p (fun r => { r with taken := true })).modPFlow p (fun x => { x with bpWait := false }) := by
  unfold State.flowTake
  rw [if_pos h, htake]
  rfl

theorem State.flowTake_waits {s w : State} {p : Nat} (h : s.takeReady p = true)
    (htake : s.takePorts p (s.portsOf p rolePortOut) = (w, false)) (hp : w.pstate p ≠ .faulted) :
    s.flowTake p = w.modPFlow p (fun x => { x with
      bpWait := true, bpBarriers := if x.bpWait then x.bpBarriers else satTo 32 (x.bpBarriers + 1) }) := by
  unfold State.flowTake
  rw [if_pos h, htake]
  exact if_neg hp

/-- No entry of a run that is good is found bad. -/
theorem find_bad_none {n : Nat} {bad : Nat → Bool} (h : ∀ i < n, bad i = false) : (List.range n).find? bad = none :=
  List.find?_eq_none.mpr fun i hi => Bool.eq_false_iff.mp (h i (List.mem_range.mp hi))

/-- Settles O35. -/
theorem flowsAndTasksRun : Obligations.FlowsAndTasksRun := by
  intro s p e t n ns
  refine ⟨fun w h htake => ?_, fun w h htake hp => ?_, fun r hrun hmode hserved hready => ?_,
    fun hrun hown hmode hhot hdrain hgood => ?_, fun hrun hown hmode hhot hdrain hmoves hn hgood => ?_⟩
  · exact congrArg Host.Outcome.next (State.flowTake_done h htake)
  · exact congrArg Host.Outcome.next (State.flowTake_waits h htake hp)
  · refine congrArg Host.Outcome.next ((if_neg (by simp [hrun, hmode])).trans ?_)
    rw [hserved]
    dsimp only
    rw [hready] <;> rfl
  · have hfind := find_bad_none (n := min n (s.runCount (s.task t))) (bad := fun i => s.entryBad (s.task t) i ||
      (decide ((s.task t).op = opMoveIn ∨ (s.task t).op = opMoveOut) && none == some i)) fun i hi => by simp [hgood i hi]
    change Host.Outcome.next _ = _
    rw [hrun]
    dsimp only
    rw [hown]
    dsimp only
    rw [if_neg (by simp [hmode, hhot]), if_neg hdrain, hfind]
    simp
  · change Host.Outcome.next _ = _
    rw [hrun]
    dsimp only
    rw [hown]
    dsimp only
    rw [if_neg (by simp [hmode, hhot]), if_pos hdrain]
    unfold State.drainRun
    exact congrArg Host.Outcome.next (if_pos ⟨hmoves, Nat.ne_of_gt hn, by simp [hgood]⟩)

/-! ### The scrubber -/

/-- A slot read by the scrubber: the next index, and the errors found noted. -/
def State.scrubbed (s : State) (f : Nat) (found : List StoreErr) : State :=
  found.foldl (fun w e => w.modFold f (fun y => { y with ecc := y.ecc.note (s.fold f).ecc.scrubIdx e.bp e.double true }))
    (s.modFold f (fun y => { y with ecc := { y.ecc with scrubIdx := ((s.fold f).ecc.scrubIdx + 1) % 1024 } }))

/-- The scrubber and the notes it takes leave a fold its pasture. -/
theorem State.scrubbed_pasture (s : State) (f : Nat) (found : List StoreErr) :
    ((s.scrubbed f found).fold f).pasture = (s.fold f).pasture := by
  unfold State.scrubbed
  have hnotes (l : List StoreErr) (w : State) : ((l.foldl (fun w e => w.modFold f (fun y => { y with
      ecc := y.ecc.note (s.fold f).ecc.scrubIdx e.bp e.double true })) w).fold f).pasture = (w.fold f).pasture := by
    induction l generalizing w with
    | nil => rfl
    | cons e l ih => rw [List.foldl_cons, ih, State.fold_modFold_self]
  rw [hnotes, State.fold_modFold_self]

theorem exec_scrubRead_single {s : State} {f : Nat} {found : List StoreErr} (hfree : s.fetchFree f = true)
    (h : found.any StoreErr.double = false) : exec (.scrubRead f found) s = .next (s.scrubbed f found) := by
  refine congrArg Host.Outcome.next ((if_neg (not_not_intro hfree)).trans ?_)
  rw [h]
  rfl

theorem exec_scrubRead_double {s : State} {f p : Nat} {found : List StoreErr} (hfree : s.fetchFree f = true)
    (h : found.any StoreErr.double = true) (hp : (s.fold f).pasture = some p) :
    exec (.scrubRead f found) s = .next ((s.scrubbed f found).controlFault p 0x0601 none) := by
  have hpas := s.scrubbed_pasture f found
  refine congrArg Host.Outcome.next ((if_neg (not_not_intro hfree)).trans ?_)
  unfold State.scrubbed at *
  dsimp only at *
  rw [h, hpas, hp]

/-- Settles O36. -/
theorem scrubberReadsAndRewrites : Obligations.ScrubberReadsAndRewrites := by
  intro s f p bp found
  refine ⟨fun hfree => ⟨fun h => exec_scrubRead_single hfree h, fun h hp => exec_scrubRead_double hfree h hp, fun hnew => ?_,
    fun e hp hload herr => ⟨?_, ?_⟩⟩, fun good hfree => ⟨?_, ?_⟩⟩
  · rw [exec_scrubRead_single hfree rfl]
    refine congrArg Host.Outcome.next (State.modFold_congr ?_)
    rw [State.fold_modFold_self]
    simp [FoldEcc.note, hnew]
  · change Host.Outcome.next _ = _
    rw [herr, hp]
    exact congrArg Host.Outcome.next (if_pos ⟨hfree, hload⟩)
  · change Host.Outcome.next _ = _
    rw [herr, hp]
    exact congrArg Host.Outcome.next (if_pos ⟨hfree, hload⟩)
  · exact congrArg Host.Outcome.next (if_pos (by simp [hfree]))
  · change Host.Outcome.next _ = _
    refine congrArg Host.Outcome.next ?_
    cases (s.fold f).ecc.errs.find? (fun e => !e.2.2) with
    | none => rfl
    | some e =>
      cases (s.fold f).pasture with
      | none => rfl
      | some p => exact if_neg (by simp [hfree])

end Sys2Proof.Machine
end

section
/-!
# Rings, edge ports, acquisition and snapshots (R103, R246–R261, R269–R271, R285, R397, R400)
-/

namespace Sys2Proof.Machine

open Sys2Proof

/-! ### The same update at a list of folds -/

theorem State.foldl_modFold_rest (g : Fold → Fold) (l : List Nat) (s : State) :
    l.foldl (fun s f => s.modFold f g) s = { s with folds := (l.foldl (fun s f => s.modFold f g) s).folds } := by
  induction l generalizing s with
  | nil => rfl
  | cons f l ih => exact (ih (s.modFold f g)).trans rfl

/-- What the update never ends lasts at every fold. -/
theorem State.foldl_modFold_stays {q : Fold → Prop} {g : Fold → Fold} (hg : ∀ x, q x → q (g x)) (l : List Nat) {s : State} {f : Nat}
    (h : q (s.fold f)) : q ((l.foldl (fun s f => s.modFold f g) s).fold f) := by
  induction l generalizing s with
  | nil => exact h
  | cons a l ih =>
    refine ih ?_
    rw [State.fold_modFold]
    split
    · next ha => exact hg _ (ha ▸ h)
    · exact h

/-! ### Rings -/

theorem State.ringComplete_eq {s : State} {p : Nat} (hc : (s.pas p).ck.copying = true) (hr : s.ringReadsDone p = true)
    (hm : s.dev.mode ≠ .hold) :
    s.ringComplete p = (if s.spanning p then s.modCk p (fun k => { k with copying := false, kHeld := true }) else s.promote p).hostRing p :=
  if_pos ⟨hc, hr, hm⟩

/-- Without a ring point that the host has asked for, nothing is due. -/
theorem State.hostRing_idle {s : State} {p : Nat} (h : (s.pas p).ck.hostReq = false) : s.hostRing p = s := by
  have hdue : s.hostRingDue p = false := by
    unfold State.hostRingDue
    simp [h]
  unfold State.hostRing
  exact if_pos (.inl (by simp [hdue]))

/-- What a state keeps of a pasture and of the cells while ring K becomes ring C. -/
def State.Promoted (s t : State) (p : Nat) : Prop :=
  (t.pas p).ck.cEcycle = (s.pas p).ck.kEcycle ∧ (t.pas p).ck.completeNo = (s.pas p).ck.currentNo ∧
  (t.pas p).ck.copying = false ∧ (t.pas p).ck.hostReq = (s.pas p).ck.hostReq ∧ t.pstate p = s.pstate p ∧
  (∀ f, (t.fold f).nrf = (s.fold f).nrf ∧ (t.fold f).seq = (s.fold f).seq) ∧ t.hbm = s.hbm ∧ t.pairs = s.pairs

theorem State.promote_spec (s : State) (p : Nat) : s.Promoted (s.promote p) p := by
  have hfolds (l : List Nat) (u : State) (h : s.Promoted u p) :
      s.Promoted (l.foldl (fun s f => s.modFold f (fun y => { y with ringC := y.ringK, ringK := FoldRing.init })) u) p := by
    obtain ⟨h1, h2, h3, h4, h5, h6, h7, h8⟩ := h
    refine ⟨?_, ?_, ?_, ?_, ?_, fun f => ?_, ?_, ?_⟩
    case refine_6 =>
      refine State.foldl_modFold_stays (q := fun y => y.nrf = (s.fold f).nrf ∧ y.seq = (s.fold f).seq) ?_ l (h6 f)
      exact fun _ h => h
    all_goals rw [State.foldl_modFold_rest]; assumption
  unfold State.promote
  dsimp only
  refine hfolds _ _ ?_
  split
  · refine ⟨?_, ?_, ?_, ?_, ?_, fun _ => ⟨rfl, rfl⟩, rfl, rfl⟩ <;> simp [State.pas_modCk, State.pstate]
  · refine ⟨?_, ?_, ?_, ?_, ?_, fun _ => ⟨rfl, rfl⟩, rfl, rfl⟩ <;> simp [State.trimLog, State.pas_modCk, State.pstate]

/-- Settles O38. -/
theorem ringsCompleteAndRecoveriesEnd : Obligations.RingsCompleteAndRecoveriesEnd := by
  intro s p ns
  refine ⟨fun hc hr hm hh => ⟨fun hs => ?_, fun hs => ?_⟩, fun hno => ?_, fun r hrec hp hreach => ?_⟩
  · refine congrArg Host.Outcome.next ((State.ringComplete_eq hc hr hm).trans ?_)
    rw [if_pos hs]
    exact State.hostRing_idle (by simpa [State.pas_modCk] using hh)
  · obtain ⟨h1, h2, h3, h4, h5, h6, h7, h8⟩ := s.promote_spec p
    refine ⟨s.promote p, ?_, h1, h2, h3, h5, h6, h7, h8⟩
    refine congrArg Host.Outcome.next ((State.ringComplete_eq hc hr hm).trans ?_)
    rw [if_neg (by simp [hs])]
    exact State.hostRing_idle (h4.trans hh)
  · refine congrArg Host.Outcome.next (if_neg ?_)
    rintro ⟨hc, hr, hm⟩
    rcases hno with h | h | h <;> simp_all
  · change Host.Outcome.next _ = _
    rw [hrec]
    exact congrArg Host.Outcome.next (if_pos ⟨hp, hreach⟩)

/-! ### Edge ports -/

/-- Settles O39. -/
theorem edgePortsPassWords : Obligations.EdgePortsPassWords := by
  intro s port chan p c line w
  refine ⟨fun h => ?_, fun h => ?_, fun h => ?_, fun h => ?_, fun hl hm => ?_, fun hrel hw hg hown hm => ?_⟩
  · change Host.Outcome.next _ = _
    rw [h]
  · change Host.Outcome.next _ = _
    rw [h]
  · change Host.Outcome.next _ = _
    rw [h]
    rfl
  · change Host.Outcome.next _ = _
    rw [h]
  · exact congrArg Host.Outcome.next (if_pos ⟨hl, hm⟩)
  · exact congrArg Host.Outcome.next (if_pos ⟨hrel, hw, hg, hown, hm⟩)

/-! ### Captures and snapshots -/

/-- Settles O40. -/
theorem capturesAndSnapshots : Obligations.CapturesAndSnapshots := by
  intro s p c r
  dsimp only
  refine ⟨fun hw hwrap hheld => ?_, fun hw hwrap hdis => ⟨fun hst => ?_, fun hst => ?_⟩, fun hw hwrap hdis hspan => ?_,
    fun hw hwrap hdis hspan hforce => ?_, fun hact hmem hreads => ⟨fun hfit => ?_, fun hfit => ?_⟩⟩
  · change Host.Outcome.next (s.acqOne p) = _
    unfold State.acqOne
    dsimp only
    rw [hw]
    exact congrArg Host.Outcome.next ((if_pos hwrap).trans (if_pos (by simp [hheld])))
  · change Host.Outcome.next (s.acqOne p) = _
    unfold State.acqOne
    dsimp only
    rw [hw]
    exact congrArg Host.Outcome.next ((if_neg (by simp [hwrap])).trans ((if_pos hdis).trans (if_neg hst)))
  · change Host.Outcome.next (s.acqOne p) = _
    unfold State.acqOne
    dsimp only
    rw [hw]
    exact congrArg Host.Outcome.next ((if_neg (by simp [hwrap])).trans ((if_pos hdis).trans (if_pos hst)))
  · change Host.Outcome.next (s.acqOne p) = _
    unfold State.acqOne
    dsimp only
    rw [hw]
    exact congrArg Host.Outcome.next ((if_neg (by simp [hwrap])).trans ((if_neg (by simp [hdis])).trans (if_neg (by simp [hspan]))))
  · change Host.Outcome.next (s.acqOne p) = _
    unfold State.acqOne
    dsimp only
    rw [hw]
    refine congrArg Host.Outcome.next ((if_neg (by simp [hwrap])).trans ((if_neg (by simp [hdis])).trans ((if_pos hspan).trans ?_)))
    rw [hforce]
    simp
  · refine congrArg Host.Outcome.next ((if_pos ⟨hact, by simp [hmem], hreads⟩).trans ?_)
    exact if_neg (Nat.not_lt.mpr hfit)
  · refine congrArg Host.Outcome.next ((if_pos ⟨hact, by simp [hmem], hreads⟩).trans ?_)
    exact if_pos hfit

end Sys2Proof.Machine
end

section
/-!
# The management ports, their PTP messages and the time base (R369–R377)
-/

namespace Sys2Proof.Machine

open Sys2Proof

/-- What an update of a management port makes of the port it finds is all that counts. -/
theorem State.modEth_congr {s : State} {k : Nat} {g h : EthPort → EthPort} (e : g (s.ethPort k) = h (s.ethPort k)) :
    s.modEth k g = s.modEth k h := by
  unfold State.modEth tmod
  exact congrArg (fun x => { s with eth := tput s.eth EthPort.init k x }) e

/-! ### Announce messages -/

/-- Where an Announce is not taken: its master is not qualified, or the port's is better. -/
def EthPort.keeps (e : EthPort) (a : Announce) : Prop :=
  e.qualifies a = false ∨ ∃ b, e.best = some b ∧ b.gm ≠ a.gm ∧ betterMaster a b = false

theorem exec_announce {s : State} {port : Nat} {a : Announce} (hup : s.ethUp = true) : ∃ keep : Bool,
    exec (.announce port a) s =
      .next ((s.ethSeen port).modEth port (fun e => e.announced a keep)).followBest ∧
    (keep = true ↔ ((s.ethSeen port).ethPort port).keeps a) := by
  refine ⟨_, congrArg Host.Outcome.next (if_neg (not_not_intro hup)), ?_⟩
  unfold EthPort.keeps
  cases h : ((s.ethSeen port).ethPort port).best with
  | none => simp
  | some b => simp

/-! ### Samples -/

theorem State.halve_even {s : State} {x : Int} (h : x % 2 = 0) : s.halve x = (x / 2, s) := if_pos h

theorem State.sample_halves {s : State} {x y : Int} (hx : x % 2 = 0) (hy : y % 2 = 0) :
    ((s.halve x).2.halve y).2.sample (s.halve x).1 ((s.halve x).2.halve y).1 = s.sample (x / 2) (y / 2) := by
  rw [State.halve_even hx, State.halve_even hy]

/-- A Delay_Resp that completes the exchange of the followed port gives its offset and delay to the servo. -/
theorem exec_delayResp {s : State} {port t1 t3 t4 : Nat} {corr : Int} (hup : s.ethUp = true) (h1 : (s.ethPort port).t1 = some t1)
    (h3 : (s.ethPort port).t3 = some t3) (hport : s.time.port = (port == 1)) (hbest : (s.ethPort port).best.isSome = true) :
    let ms := sdiff (s.ethPort port).t2 t1 - (s.ethPort port).corr
    let sm := sdiff (t4 % 2 ^ 32) t3 - corr
    (ms - sm) % 2 = 0 → exec (.delayResp port t4 corr) s = .next
      (((s.ethSeen port).modEth port (fun e => { e with t1 := none, t3 := none })).sample ((ms - sm) / 2) ((ms + sm) / 2)) := by
  intro ms sm heven
  have hsum : (ms + sm) % 2 = 0 := by omega
  have hseen : (s.ethSeen port).ethPort port = { s.ethPort port with link := true } := State.ethPort_modEth_self
  refine congrArg Host.Outcome.next ((if_neg (not_not_intro hup)).trans ?_)
  dsimp only
  rw [hseen]
  dsimp only
  rw [h1, h3]
  dsimp only
  rw [if_pos ⟨hport, hbest⟩]
  exact State.sample_halves heven hsum

/-! ### Status datagrams -/

theorem exec_statusDatagram_bad {s : State} {port src : Nat} {req : List Byte} (hup : s.ethUp = true)
    (h : req.length < 16 ∨ fieldAt req 0 2 ≠ 1 ∨ fieldAt req 2 2 ≠ 0) :
    exec (.statusDatagramRequest port src req) s = .next ((s.ethSeen port).modEth port EthPort.drop) :=
  congrArg Host.Outcome.next ((if_neg (not_not_intro hup)).trans (if_pos h))

theorem EthPort.rate_none {e : EthPort} (h : 100 ≤ e.recent.length) : e.rate = none := if_neg (Nat.not_lt.mpr h)
theorem EthPort.rate_some {e : EthPort} (h : e.recent.length < 100) :
    e.rate = some { e with recent := e.recent ++ [secondTicks] } := if_pos h

/-- A well-formed request is one that is not malformed. -/
theorem datagram_good {req : List Byte} (hlen : 16 ≤ req.length) (hver : fieldAt req 0 2 = 1) (hkind : fieldAt req 2 2 = 0) :
    ¬ (req.length < 16 ∨ fieldAt req 0 2 ≠ 1 ∨ fieldAt req 2 2 ≠ 0) := by omega

/-- Settles O41. -/
theorem managementPortEvents : Obligations.ManagementPortEvents := by
  refine ⟨fun s port lane t1 t2 t3 t4 two corr a => ⟨fun hup => ⟨?_, ?_⟩, fun hup hbest => ?_, fun hup => ⟨fun hq hbetter => ?_, fun hno => ?_⟩,
    fun hup h1 h2 h3 hport hbest heven => ?_, fun hservo hres => ?_, fun hrun hwrap => ?_⟩,
    fun s port src req hup => ⟨fun hbad => ?_, fun hlen hver hkind hrate => ?_, fun hlen hver hkind hrate => ?_, ?_, ?_⟩⟩
  · exact congrArg Host.Outcome.next (if_neg (not_not_intro hup))
  · exact congrArg Host.Outcome.next (if_pos hup)
  · exact congrArg Host.Outcome.next (if_pos ⟨hup, hbest⟩)
  · obtain ⟨keep, hexec, hkeep⟩ := exec_announce (port := port) (a := a) hup
    have hfalse : keep = false := by
      refine Bool.eq_false_iff.mpr (mt hkeep.mp ?_)
      rintro (h | ⟨b, hb, hgm, hlt⟩)
      · exact absurd (hq.symm.trans h) (by decide)
      · rcases hbetter b hb with h | h
        · exact hgm h
        · exact absurd (h.symm.trans hlt) (by decide)
    rw [hexec, hfalse]
    exact congrArg (fun u : State => Host.Outcome.next u.followBest) (State.modEth_congr rfl)
  · obtain ⟨keep, hexec, hkeep⟩ := exec_announce (port := port) (a := a) hup
    rw [hexec, hkeep.mpr hno]
    exact congrArg (fun u : State => Host.Outcome.next u.followBest) (State.modEth_congr rfl)
  · subst h2
    exact exec_delayResp hup h1 h3 hport hbest heven
  · refine congrArg Host.Outcome.next (if_pos ⟨?_, by simp [hres]⟩)
    simpa using hservo
  · have hw : s.time.wraps = true := by
      unfold TimeBase.wraps
      rw [hrun]
      exact decide_eq_true hwrap
    refine congrArg Host.Outcome.next ((if_pos hw).trans ?_)
    exact (if_pos hrun).trans (if_pos hw)
  · exact exec_statusDatagram_bad hup hbad
  · refine congrArg Host.Outcome.next ((if_neg (not_not_intro hup)).trans ((if_neg (datagram_good hlen hver hkind)).trans ?_))
    dsimp only
    rw [EthPort.rate_none (e := (s.ethSeen port).ethPort port) hrate]
    rfl
  · refine congrArg Host.Outcome.next ((if_neg (not_not_intro hup)).trans ((if_neg (datagram_good hlen hver hkind)).trans ?_))
    dsimp only
    rw [EthPort.rate_some (e := (s.ethSeen port).ethPort port) hrate]
    dsimp only
    have hcount : (s.ethSeen port).modEth port (fun _ => { (s.ethSeen port).ethPort port with
        recent := ((s.ethSeen port).ethPort port).recent ++ [secondTicks]
        responses := wrapTo 16 (((s.ethSeen port).ethPort port).responses + 1) }) =
      (s.ethSeen port).modEth port (fun e => { e with
        recent := e.recent ++ [secondTicks], responses := wrapTo 16 (e.responses + 1) }) := State.modEth_congr rfl
    rw [hcount]
    rfl
  · exact congrArg Host.Outcome.next ((if_neg (not_not_intro hup)).trans (if_pos rfl))
  · exact congrArg Host.Outcome.next ((if_neg (not_not_intro hup)).trans (if_neg (by decide)))

end Sys2Proof.Machine
end

section
/-!
# The training of lanes (R350–R354, R358)
-/

namespace Sys2Proof.Machine

open Sys2Proof

/-! ### The best of the settings scanned (R351) -/

/-- The better of a setting so far and the next: the wider opening, then the higher. -/
def betterPeak (o : List (Nat × Nat)) (best : Nat) (e : (Nat × Nat) × Nat) : Nat :=
  let b := o.getD best (0, 0)
  if b.1 < e.1.1 ∨ (b.1 = e.1.1 ∧ b.2 < e.1.2) then e.2 else best

/-- A setting is as good as every one before `m`, and the first that is. -/
def BestBefore (o : List (Nat × Nat)) (m best : Nat) : Prop :=
  best ≤ m ∧ ∀ i < m, best < m ∧
    ((o.getD i (0, 0)).1 < (o.getD best (0, 0)).1 ∨ ((o.getD i (0, 0)).1 = (o.getD best (0, 0)).1 ∧
      ((o.getD i (0, 0)).2 < (o.getD best (0, 0)).2 ∨ ((o.getD i (0, 0)).2 = (o.getD best (0, 0)).2 ∧ best ≤ i))))

theorem betterPeak_bestBefore {o : List (Nat × Nat)} {m best : Nat} (hz : m = 0 → best = 0) (h : BestBefore o m best) :
    BestBefore o (m + 1) (betterPeak o best (o.getD m (0, 0), m)) := by
  obtain ⟨hle, hall⟩ := h
  have hlt : 0 < m → best < m := fun hm => (hall 0 hm).1
  unfold betterPeak
  dsimp only
  split
  · next hbetter =>
    refine ⟨by omega, fun i hi => ⟨by omega, ?_⟩⟩
    by_cases him : i = m
    · subst him
      exact .inr ⟨rfl, .inr ⟨rfl, Nat.le_refl _⟩⟩
    · have := (hall i (by omega)).2
      omega
  · next hworse =>
    refine ⟨by omega, fun i hi => ⟨by omega, ?_⟩⟩
    by_cases him : i = m
    · subst him
      omega
    · exact (hall i (by omega)).2

theorem foldl_betterPeak {o : List (Nat × Nat)} (l pre : List (Nat × Nat)) (ho : o = pre ++ l) {best : Nat}
    (hz : pre.length = 0 → best = 0) (h : BestBefore o pre.length best) :
    BestBefore o o.length ((l.zipIdx pre.length).foldl (betterPeak o) best) := by
  induction l generalizing pre best with
  | nil =>
    rw [List.append_nil] at ho
    subst ho
    exact h
  | cons e l ih =>
    have hget : o.getD pre.length (0, 0) = e := by simp [ho]
    rw [List.zipIdx_cons, List.foldl_cons]
    have hnext := betterPeak_bestBefore hz h
    rw [hget] at hnext
    have hlen : (pre ++ [e]).length = pre.length + 1 := by simp
    rw [← hlen] at hnext ⊢
    exact ih (pre ++ [e]) (by simp [ho]) (by simp) hnext

theorem bestPeak_bestBefore (o : List (Nat × Nat)) : BestBefore o o.length (bestPeak o) :=
  foldl_betterPeak o [] rfl (fun _ => rfl) ⟨Nat.le_refl _, fun i hi => absurd hi (Nat.not_lt_zero i)⟩

/-! ### Lanes of a port -/

/-- A port in TRAIN or LOCK has a lane that trains. -/
theorem State.lane_trains_of_portState {s : State} {t : Nat} (h : s.portState t ∈ [LaneState.train, .lock]) :
    (portLanes t).any (fun l => (s.lane l).state.trains) = true := by
  have hone : (s.portState t).trains = true := by
    rcases List.mem_cons.mp h with h | h
    · rw [h]; rfl
    · rw [List.mem_singleton.mp h]; rfl
  rw [List.any_eq_true]
  unfold State.portState at hone
  dsimp only at hone
  split at hone
  · exact ⟨2 * t, by simp [portLanes], hone⟩
  · exact ⟨2 * t + 1, by simp [portLanes], hone⟩

/-- Settles O42. -/
theorem lanesTrain : Obligations.LanesTrain := by
  refine ⟨fun o ho => ?_, fun s l t h v coarse ready => ?_⟩
  · obtain ⟨_, hall⟩ := bestPeak_bestBefore o
    rw [ho] at hall
    refine ⟨(hall 0 (by decide)).1, fun i hi => (hall i hi).2⟩
  dsimp only
  refine ⟨fun hst hdom => ⟨?_, ?_⟩, fun hst hpass => ⟨fun hh hv => ?_, fun hlow => ?_⟩, fun hst => ?_, fun hst => ?_, fun hst hh hv => ?_,
    fun hst hml hlow => ?_, fun hst => ?_, fun hst hdone => ?_, fun hlost hmode => ?_⟩
  · exact congrArg Host.Outcome.next (if_neg (by simp [hst, hdom]))
  · exact congrArg Host.Outcome.next (if_neg (by simp [hst, hdom]))
  · refine congrArg Host.Outcome.next ((if_neg (by simp [hst, hpass])).trans (if_pos ?_))
    simp [marginsLock, hh, hv]
  · refine congrArg Host.Outcome.next ((if_neg (by simp [hst, hpass])).trans (if_neg ?_))
    simp only [marginsLock, Bool.and_eq_true, decide_eq_true_eq]
    omega
  · refine congrArg Host.Outcome.next (if_pos ?_)
    simpa [portLanes] using hst
  · exact congrArg Host.Outcome.next (if_pos hst)
  · have hlow : (decide (100 * h < 10 * 256) || decide (v < 10)) = false := by
      simp only [Bool.or_eq_false_iff, decide_eq_false_iff_not]
      omega
    refine congrArg Host.Outcome.next ((if_neg (not_not_intro hst)).trans ?_)
    dsimp only
    rw [hlow]
    rfl
  · have hlow : (decide (100 * h < 10 * 256) || decide (v < 10)) = true := by
      simpa only [Bool.or_eq_true, decide_eq_true_eq] using hlow
    refine congrArg Host.Outcome.next ((if_neg (not_not_intro hst)).trans ?_)
    dsimp only
    rw [hlow]
    exact if_pos ⟨rfl, by simp [hml]⟩
  · have hcap : s.portState t ≠ .cap := by
      intro hcap
      simp [hcap] at hst
    refine congrArg Host.Outcome.next ((if_neg fun h => hcap h.2).trans (if_pos ?_))
    exact State.lane_trains_of_portState hst
  · exact congrArg Host.Outcome.next (if_pos ⟨hdone, hst⟩)
  · refine congrArg Host.Outcome.next (if_pos ⟨?_, hmode⟩)
    obtain ⟨q, hq, hact⟩ := hlost
    rw [List.all_eq_true]
    exact fun hall => absurd ((hall q hq).symm.trans hact) (by decide)

end Sys2Proof.Machine
end

section
/-!
# Blocks received (R341–R349)
-/

namespace Sys2Proof.Machine

open Sys2Proof

/-- What an update of a link port makes of the port it finds is all that counts. -/
theorem State.modPort_congr {s : State} {k : Nat} {g h : LinkPort → LinkPort} (e : g (s.port k) = h (s.port k)) :
    s.modPort k g = s.modPort k h := by
  unfold State.modPort tmod
  exact congrArg (fun x => { s with ports := tput s.ports LinkPort.init k x }) e

/-! ### Where a block goes -/

/-- A link that receives is not in far-end loopback. -/
theorem State.echoes_of_receives {s : State} {k : Nat} (h : s.receives k = true) : s.echoes k = false := by
  have hst : s.portState k ≠ .loop := by
    unfold State.receives at h
    rw [Bool.or_eq_true, Bool.and_eq_true] at h
    rcases h with h | ⟨_, hact⟩
    · rw [eq_of_beq h]
      decide
    · unfold State.linkActive at hact
      rw [Bool.and_eq_true, List.all_eq_true] at hact
      obtain ⟨hmem, hall⟩ := hact
      rw [eq_of_beq (hall k (List.contains_iff_mem.mp hmem))]
      decide
  unfold State.echoes
  rw [beq_eq_false_iff_ne.mpr hst]
  rfl

theorem State.rxControl_receives {s : State} {k ctype cseq body : Nat} {act : State → State} (h : s.receives k = true) :
    s.rxControl k ctype cseq body act = act (blockSeen s k) := by
  unfold State.rxControl
  rw [State.echoes_of_receives h, h]
  rfl

/-- What a valid header changes: the place in the stream, and the headers that its lane has seen. -/
theorem blockSeen_eq (s : State) (k : Nat) : blockSeen s k =
    (s.modPort k (fun r => { r with rxPos := r.rxPos + 1 })).modLane (s.rxLane k) (fun x => { x with
      headers := (x.headers <<< 1) ||| BitVec.ofNat 64 (b2n false), shErrs := x.shErrs }) := by
  unfold blockSeen State.rxHeader
  exact if_neg fun h => absurd h.1 (by decide)

/-- A valid header moves the place in the stream, and changes nothing else of the port. -/
theorem blockSeen_port (s : State) (k : Nat) : (blockSeen s k).port k = { s.port k with rxPos := (s.port k).rxPos + 1 } := by
  rw [blockSeen_eq]
  exact State.port_modPort_self (f := fun r => { r with rxPos := r.rxPos + 1 })

theorem blockSeen_port_other {s : State} {k t : Nat} (h : t ≠ k) : (blockSeen s k).port t = s.port t := by
  rw [blockSeen_eq]
  exact (State.port_modPort (f := fun r => { r with rxPos := r.rxPos + 1 })).trans (if_neg h)

/-! ### Sequenced blocks (R347) -/

/-- A sequenced block that is due is judged by its CSEQ. -/
theorem State.accept_due {s : State} {k ctype cseq body : Nat} {act : State → State} (h : blockDue s k) :
    s.accept k ctype cseq body act = if cseq ≠ (s.port k).rxSeq then
      (if (s.port k).discard then blockSeen s k else (blockSeen s k).sendNak k) else act (blockTaken s k) := by
  obtain ⟨hrec, hgroup⟩ := h
  refine (State.rxControl_receives hrec).trans ?_
  unfold State.takeSequenced
  have hport := blockSeen_port s k
  have htaken : (blockSeen s k).modPort k (fun r => { r with rxSeq := (r.rxSeq + 1) % 256, discard := false, unacked := r.unacked + 1 }) =
      blockTaken s k := State.modPort_congr (by rw [hport])
  rw [htaken, hport]
  exact if_neg (by simp [hgroup])

theorem State.accept_turn {s : State} {k ctype body : Nat} {act : State → State} (h : blockDue s k) :
    s.accept k ctype (s.port k).rxSeq body act = act (blockTaken s k) := by
  rw [State.accept_due h, if_neg (not_not_intro rfl)]

theorem State.accept_outOfTurn {s : State} {k ctype cseq body : Nat} {act : State → State} (h : blockDue s k) (hne : cseq ≠ (s.port k).rxSeq) :
    s.accept k ctype cseq body act = if (s.port k).discard then blockSeen s k else (blockSeen s k).sendNak k := by
  rw [State.accept_due h, if_pos hne]

/-! ### What an accepted block leaves -/

theorem blockTaken_pas (s : State) (k p : Nat) : (blockTaken s k).pas p = s.pas p := by
  unfold blockTaken
  rw [blockSeen_eq]
  rfl

theorem blockTaken_pstate (s : State) (k p : Nat) : (blockTaken s k).pstate p = s.pstate p :=
  congrArg (fun x : Pasture => x.stat.state) (blockTaken_pas s k p)

theorem blockTaken_linkLow (s : State) (k t : Nat) : ((blockTaken s k).port t).linkLow = (s.port t).linkLow := by
  unfold blockTaken
  rw [State.port_modPort]
  split
  · next h => rw [h, blockSeen_port]
  · next h => rw [blockSeen_port_other h]

theorem blockTaken_childOn (s : State) (k p link : Nat) : (blockTaken s k).childOn p link = s.childOn p link := by
  unfold State.childOn
  simp only [blockTaken_pas, blockTaken_linkLow]

theorem blockTaken_parentOn (s : State) (k p link : Nat) : (blockTaken s k).parentOn p link = s.parentOn p link := by
  unfold State.parentOn
  simp only [blockTaken_pas, blockTaken_linkLow]

/-- Out of turn every sequenced block is discarded, with a NAK unless one stands. -/
theorem exec_sequenced_outOfTurn {s : State} {k j : Nat} {body : BitVec 32} {c : Instr} (h : blockDue s k)
    (hc : c ∈ [Instr.cap k j body, .join k j body, .chancount k j body, .arrive k j body, .assertCount k j body, .linkRelease k j body,
      .linkFault k j body, .linkUnload k j body, .credit k j body, .tag k j 1 body]) (hj : j ≠ (s.port k).rxSeq) :
    exec c s = .next (if (s.port k).discard then blockSeen s k else (blockSeen s k).sendNak k) := by
  simp only [List.mem_cons, List.not_mem_nil, or_false] at hc
  obtain rfl | rfl | rfl | rfl | rfl | rfl | rfl | rfl | rfl | rfl := hc
  all_goals exact congrArg Host.Outcome.next (State.accept_outOfTurn h hj)

/-- Settles O44. -/
theorem sequencedBlocks : Obligations.SequencedBlocks := by
  intro s k body hdue
  dsimp only
  refine ⟨?_, ?_, ?_, ?_, ?_, ?_, ?_, ?_, fun g => ?_, fun hspan hchild => ?_, fun j c hc hj => ⟨fun hd => ?_, fun hd => ?_⟩⟩
  · exact congrArg Host.Outcome.next (State.accept_turn hdue)
  · exact congrArg Host.Outcome.next (State.accept_turn hdue)
  · exact congrArg Host.Outcome.next (State.accept_turn hdue)
  · exact congrArg Host.Outcome.next (State.accept_turn hdue)
  · exact congrArg Host.Outcome.next (State.accept_turn hdue)
  · exact congrArg Host.Outcome.next (State.accept_turn hdue)
  · exact congrArg Host.Outcome.next (State.accept_turn hdue)
  · refine congrArg Host.Outcome.next ((State.accept_turn hdue).trans ?_)
    simp [State.creditBack, bitsOf_eq]
  · refine congrArg Host.Outcome.next ((State.accept_turn hdue).trans ?_)
    simp [State.tagGroup, tagEntries, bitsOf_eq]
  · refine congrArg Host.Outcome.next ((State.accept_turn hdue).trans ?_)
    unfold State.assertCountIn
    simp [bitsOf_eq, blockTaken_pstate, blockTaken_childOn, hspan, hchild]
  · rw [exec_sequenced_outOfTurn hdue hc hj, if_pos hd]
  · rw [exec_sequenced_outOfTurn hdue hc hj, if_neg (by simp [hd])]
    rfl

end Sys2Proof.Machine
end

section
/-!
# ARRIVE and RELEASE between the members of a span (R116, R117, R356)
-/

namespace Sys2Proof.Machine

open Sys2Proof

/-- What an update of a pasture's span makes of the record it finds is all that counts. -/
theorem State.modSpan_congr {s : State} {p : Nat} {g h : PSpan → PSpan} (e : g (s.pas p).span = h (s.pas p).span) :
    s.modSpan p g = s.modSpan p h := by
  unfold State.modSpan State.modPas tmod
  exact congrArg (fun x => { s with pastures := tput s.pastures Pasture.init p { s.pas p with span := x } }) e

theorem blockTaken_fold (s : State) (k f : Nat) : (blockTaken s k).fold f = s.fold f := by
  unfold blockTaken
  rw [blockSeen_eq]
  rfl

theorem blockTaken_nextBarrier (s : State) (k p : Nat) : (blockTaken s k).nextBarrier p = s.nextBarrier p := by
  unfold State.nextBarrier State.allArrived State.pasFolds
  simp only [blockTaken_pas, blockTaken_fold]

/-- Four bits that are zero together are each zero. -/
theorem bitOf_of_nibble {n lo i : Nat} (h : n / 2 ^ lo % 16 = 0) (hi : i < 4) : bitOf n (lo + i) = false := by
  unfold bitOf
  rw [Nat.shiftRight_eq_div_pow, pow_add, ← Nat.div_div_eq_div_mul, beq_eq_false_iff_ne]
  generalize n / 2 ^ lo = m at h ⊢
  interval_cases i <;> omega

theorem blockTaken_ringsOn (s : State) (k p : Nat) : (blockTaken s k).ringsOn p = s.ringsOn p :=
  congrArg (fun x : Pasture => x.ck.plan.isSome) (blockTaken_pas s k p)

/-- An ARRIVE of a child with no request, report or trigger, for the barrier that is next. -/
theorem State.arriveIn_plain {u : State} {k p c n : Nat} (hp : n % 16 = p) (hspan : (u.pstate p).inSpan = true)
    (hch : (u.pas p).span.choosing = false) (hchild : u.childOn p k = some c) (hb : n / 16 % 256 = u.nextBarrier p % 256)
    (harr : (u.pas p).span.arrived = []) (hbits : n / 2 ^ 12 % 16 = 0) :
    u.arriveIn k n = (u.modSpan p (fun x => { x with arrived := [c] })).barrierReached p := by
  have h12 : bitOf n 12 = false := bitOf_of_nibble (i := 0) hbits (by decide)
  have h13 : bitOf n 13 = false := bitOf_of_nibble (i := 1) hbits (by decide)
  have h15 : bitOf n 15 = false := bitOf_of_nibble (i := 3) hbits (by decide)
  have hpas : bitsOf n 0 4 = p := by simpa [bitsOf_eq] using hp
  have hbar : bitsOf n 4 8 = u.nextBarrier p % 256 := by simpa [bitsOf_eq] using hb
  unfold State.arriveIn
  dsimp only
  rw [hpas, if_neg (not_not_intro hspan), hchild, hch, h12, h13, h15]
  refine (if_neg (by simp)).trans ((if_neg (by simp [hbar])).trans ?_)
  refine congrArg (fun w : State => w.barrierReached p) (State.modSpan_congr ?_)
  simp [harr]

/-- An ARRIVE of a child for another barrier is a barrier fault. -/
theorem State.arriveIn_fault {u : State} {k p c n : Nat} (hp : n % 16 = p) (hspan : (u.pstate p).inSpan = true)
    (hch : (u.pas p).span.choosing = false) (hchild : u.childOn p k = some c) (hb : n / 16 % 256 ≠ u.nextBarrier p % 256) :
    u.arriveIn k n = u.controlFault p 0x0606 none := by
  have hpas : bitsOf n 0 4 = p := by simpa [bitsOf_eq] using hp
  have hbar : bitsOf n 4 8 ≠ u.nextBarrier p % 256 := by simpa [bitsOf_eq] using hb
  unfold State.arriveIn
  dsimp only
  rw [hpas, if_neg (not_not_intro hspan), hchild, hch]
  exact (if_neg (by simp)).trans (if_pos (.inl hbar))

/-- A RELEASE of the parent: the token goes down, or is a barrier fault. -/
theorem State.releaseIn_parent {u : State} {k p n : Nat} (hp : n % 16 = p) (hspan : (u.pstate p).inSpan = true)
    (hch : (u.pas p).span.choosing = false) (hpar : u.parentOn p k = true) :
    ((u.pas p).span.arriveSent = true → (u.pas p).run.relTok = none → n / 16 % 256 = (u.pas p).stat.ecycle % 256 → u.ringsOn p = false →
      u.releaseIn k n = (u.modRun p (fun r => { r with relTok := some n, descent := some (u.pas p).descentSteps })).releaseDown p n) ∧
    ((u.pas p).span.arriveSent = false ∨ n / 16 % 256 ≠ (u.pas p).stat.ecycle % 256 → u.releaseIn k n = u.controlFault p 0x0606 none) := by
  have hpas : bitsOf n 0 4 = p := by simpa [bitsOf_eq] using hp
  have hbar : bitsOf n 4 8 = n / 16 % 256 := by simp [bitsOf_eq]
  unfold State.releaseIn
  dsimp only
  rw [hpas, if_neg (not_not_intro hspan), hch, hpar, hbar]
  refine ⟨fun hsent htok hb hrings => (if_neg (by simp)).trans (if_neg ?_), fun hbad => (if_neg (by simp)).trans (if_pos ?_)⟩
  · simp [hsent, htok, hb, hrings]
  · rcases hbad with h | h
    · simp [h]
    · exact .inr (.inr (.inr (.inl h)))

/-- Settles O45. -/
theorem spanTokens : Obligations.SpanTokens := by
  intro s k p c body hdue
  dsimp only
  intro hp hspan hch
  rw [← blockTaken_pstate s k] at hspan
  rw [← blockTaken_pas s k] at hch
  simp only [← blockTaken_pas s k p, ← blockTaken_childOn s k, ← blockTaken_parentOn s k, ← blockTaken_nextBarrier s k]
  refine ⟨fun hchild hb harr hbits => ?_, fun hchild hb => ?_, fun hpar hsent htok hb hrings => ?_, fun hpar hbad => ?_⟩
  · exact congrArg Host.Outcome.next ((State.accept_turn hdue).trans (State.arriveIn_plain hp hspan hch hchild hb harr hbits))
  · exact congrArg Host.Outcome.next ((State.accept_turn hdue).trans (State.arriveIn_fault hp hspan hch hchild hb))
  · rw [← blockTaken_ringsOn s k] at hrings
    exact congrArg Host.Outcome.next ((State.accept_turn hdue).trans
      ((State.releaseIn_parent hp hspan hch hpar).1 hsent htok hb hrings))
  · exact congrArg Host.Outcome.next ((State.accept_turn hdue).trans ((State.releaseIn_parent hp hspan hch hpar).2 hbad))

end Sys2Proof.Machine
end

section
/-!
# The stream of a link (R341–R349, R353, R360)
-/

namespace Sys2Proof.Machine

open Sys2Proof

/-! ### Unsequenced control blocks -/

/-- An unsequenced block that is due acts where the link does not discard. -/
theorem State.plain_due {s : State} {k ctype body : Nat} {act : State → State} (h : blockDue s k) :
    s.plain k ctype body act = if (s.port k).discard then blockSeen s k else act (blockSeen s k) := by
  obtain ⟨hrec, hgroup⟩ := h
  refine (State.rxControl_receives hrec).trans ?_
  unfold State.takePlain
  dsimp only
  rw [blockSeen_port]
  dsimp only
  rw [hgroup]
  rfl

theorem exec_protocolError {s : State} {k : Nat} (h : s.receives k = true) :
    exec (.protocolError k) s = .next (s.plain k 0 0 (fun s => s.retrainLink k)) :=
  congrArg Host.Outcome.next (if_neg (by simp [State.echoes_of_receives h]))

/-! ### ACK, NAK and the resend (R347, R348) -/

theorem State.ackTo_found {u : State} {k q i : Nat} (h : (u.port k).sent.findIdx? (fun b => b.cseq == q) = some i) :
    u.ackTo k q = u.modPort k (fun r => { r with
      sent := r.sent.drop (i + 1), txd := r.txd - (i + 1)
      naks := r.naks.filter (fun e => !((r.sent.take (i + 1)).any (fun b => b.cseq == e.1))) }) := by
  unfold State.ackTo
  rw [h]

theorem State.ackTo_unknown {u : State} {k q : Nat} (h : (u.port k).sent.findIdx? (fun b => b.cseq == q) = none) : u.ackTo k q = u := by
  unfold State.ackTo
  rw [h]

theorem State.resendFrom_unknown {u : State} {k q : Nat}
    (h : ((u.port k).sent.take (u.port k).txd).findIdx? (fun b => b.cseq == q) = none) : u.resendFrom k q = u := by
  unfold State.resendFrom
  dsimp only
  rw [h]

/-- A block that a NAK names is sent again, and the eighth time the link retrains. -/
theorem State.resendFrom_found {u : State} {k q i : Nat}
    (h : ((u.port k).sent.take (u.port k).txd).findIdx? (fun b => b.cseq == q) = some i) :
    (tget (u.port k).naks 0 q < 7 → u.resendFrom k q = u.modPort k (fun r => { r with
      txd := i, naks := tput r.naks 0 q (tget r.naks 0 q + 1), replays := satTo 16 (r.replays + 1) })) ∧
    (7 ≤ tget (u.port k).naks 0 q → u.resendFrom k q =
      let w := u.modPort k (fun r => { r with limitHits := satTo 8 (r.limitHits + 1) })
      if w.linkActive k then w.retrainLink k else w.retrainPort k) := by
  unfold State.resendFrom
  dsimp only
  rw [h]
  refine ⟨fun hfew => (if_neg (by omega)).trans (State.modPort_congr rfl), fun hmany => if_pos (by omega)⟩

/-! ### Data blocks (R344, Table 13-3) -/

theorem exec_dataBlock_receives {s : State} {k header : Nat} {w : BitVec 64} (h : s.receives k = true) :
    exec (.dataBlock k header w) s = .next (s.streamBlock k header w.toNat) :=
  congrArg Host.Outcome.next ((if_neg (by simp [State.echoes_of_receives h])).trans (if_pos h))

/-- Where nothing is discarded and no group is open, the header decides. -/
theorem State.streamBlock_control {s : State} {k header w : Nat} (hd : (s.port k).discard = false) (hg : (s.port k).group = []) :
    (header = 1 → s.streamBlock k header w = (blockSeen s k).retrainLink k) ∧
    (header = 2 → s.streamBlock k header w = s.controlBlock k w) ∧
    (header ∉ [1, 2] → s.streamBlock k header w = (s.rxHeader k true).sendNak k) := by
  unfold State.streamBlock
  dsimp only
  rw [hd, hg]
  refine ⟨?_, ?_, fun h => ?_⟩
  · rintro rfl
    exact (if_neg (by decide)).trans (if_pos rfl)
  · rintro rfl
    exact (if_neg (by decide)).trans (if_pos rfl)
  · refine (if_neg (by decide)).trans ((if_pos rfl).trans ?_)
    split
    · exact absurd h (by decide)
    · exact absurd h (by decide)
    · exact if_pos (by simp [hg])

/-- The words of a data block, as many as its entry counts. -/
theorem dataWords (w : BitVec 64) (n : Nat) : (List.range n).map (fun i => BitVec.ofNat 16 (bitsOf w.toNat (16 * i) 16)) =
    (List.range n).map (fun i => w.extractLsb' (16 * i) 16) := by
  refine List.map_congr_left fun i _ => ?_
  refine BitVec.eq_of_toNat_eq ?_
  simp [bitsOf, BitVec.extractLsb'_toNat]

/-- Within a group a data block's words go to the slot of its entry. -/
theorem State.deliverBlock_group {s : State} {k slot n : Nat} {rest : List (Nat × Nat)} {w : BitVec 64}
    (hg : (s.port k).group = (slot, n) :: rest) : s.deliverBlock k w.toNat = s.modPort k (fun r => { r with
      group := rest
      rxWords := tput r.rxWords [] slot (tget r.rxWords [] slot ++ (List.range n).map (fun i => w.extractLsb' (16 * i) 16)) }) := by
  unfold State.deliverBlock
  refine State.modPort_congr ?_
  rw [hg]
  dsimp only
  rw [dataWords]

theorem State.streamBlock_group {s : State} {k header w slot n : Nat} {rest : List (Nat × Nat)} (hd : (s.port k).discard = false)
    (hg : (s.port k).group = (slot, n) :: rest) :
    (header = 2 → s.streamBlock k header w = (blockSeen s k).retrainLink k) ∧
    (header ≠ 2 → s.streamBlock k header w = (s.deliverBlock k w).rxHeader k (header != 1 && header != 2)) := by
  unfold State.streamBlock
  dsimp only
  rw [hd, hg]
  refine ⟨?_, fun h => ?_⟩
  · rintro rfl
    exact (if_neg (by decide)).trans (if_neg (by simp))
  · refine (if_neg (by decide)).trans ((if_neg (by simp)).trans ?_)
    split
    · exact absurd rfl h
    · rfl

theorem State.controlBlock_badCrc {s : State} {k w : Nat} (hg : (s.port k).group = []) (hcrc : controlCrc w = false) :
    s.controlBlock k w = (blockSeen s k).sendNak k := by
  unfold State.controlBlock
  dsimp only
  rw [hcrc]
  refine (if_pos (by decide)).trans ?_
  exact if_pos (by simp [hg])

/-- A CREDIT off the lanes is the CREDIT that its block names. -/
theorem State.controlBlock_credit {s : State} {k : Nat} {w : BitVec 64} (h : s.receives k = true) (hcrc : controlCrc w.toNat = true)
    (htype : w.toNat / 2 ^ 56 = 0x20) :
    exec (.credit k (w.toNat / 2 ^ 48 % 256) (w.extractLsb' 16 32)) s = .next (s.controlBlock k w.toNat) := by
  have hctype : bitsOf w.toNat 56 8 = 0x20 := by
    rw [bitsOf_eq, htype]
    norm_num
  have hcseq : bitsOf w.toNat 48 8 = w.toNat / 2 ^ 48 % 256 := bitsOf_eq _ _ _
  have hbody : bitsOf w.toNat 16 32 = (w.extractLsb' 16 32).toNat := by rw [bitsOf, BitVec.extractLsb'_toNat]
  refine congrArg Host.Outcome.next ((State.rxControl_receives h).trans ?_)
  unfold State.controlBlock
  dsimp only
  rw [if_neg (not_not_intro hcrc), hctype, hcseq, hbody]
  rfl

/-! ### Blocks of a port that is in no stream (R353, R360) -/

theorem State.portBlock_lock {s : State} {t header w : Nat} (h : (s.lane (s.rxLane t)).state = .lock) : s.portBlock t header w =
    ((s.modPort t (fun r => { r with rxPos := r.rxPos + 1 })).modLane (s.rxLane t) (fun x =>
      x.lockHeader (header != 1 && header != 2))).lockDone t := by
  have hlane : ((s.modPort t (fun r => { r with rxPos := r.rxPos + 1 })).lane (s.rxLane t)).state = .lock := h
  unfold State.portBlock
  dsimp only
  rw [hlane]

theorem State.portBlock_checks {s : State} {t header w : Nat} (h : (s.lane (s.rxLane t)).state ∈ [LaneState.test, .loop]) :
    s.portBlock t header w =
      (s.modPort t (fun r => { r with rxPos := r.rxPos + 1 })).modLane (s.rxLane t) (fun x => x.check w) := by
  have hlane : ((s.modPort t (fun r => { r with rxPos := r.rxPos + 1 })).lane (s.rxLane t)).state ∈ [LaneState.test, .loop] := h
  unfold State.portBlock
  dsimp only
  rcases List.mem_cons.mp hlane with h | h
  · rw [h]
  · rw [List.mem_singleton.mp h]

/-- Settles O43. -/
theorem linkStream : Obligations.LinkStream := by
  refine ⟨fun s k q i b l again => ⟨rfl, fun hdue => ?_, fun hrec hsent => ?_, fun hdue bad => ?_⟩,
    fun s k slot n header rest w => ⟨fun hrec hd => ⟨fun hg => ?_, fun hg => ?_⟩, fun hrec hecho => ⟨fun hst => ?_, fun hst => ?_⟩⟩⟩
  · have hidle : exec (.linkIdle k) s = .next (s.plain k ctIdle 0 (fun s => s.idleIn k)) := rfl
    have hack : exec (.linkAck k q) s = .next (s.plain k ctAck (q % 256) (fun s => s.ackTo k q)) := rfl
    have hnak : exec (.linkNak k q) s = .next (s.plain k ctNak (q % 256) (fun s => s.resendFrom k q)) := rfl
    have herr := exec_protocolError hdue.1
    rw [State.plain_due hdue] at hidle hack hnak herr
    refine ⟨fun hd c hc => ?_, fun hd => ?_⟩
    · rw [if_pos hd] at hidle hack hnak herr
      simp only [List.mem_cons, List.not_mem_nil, or_false] at hc
      obtain rfl | rfl | rfl | rfl := hc
      · exact hidle
      · exact herr
      · exact hnak
      · exact hack
    · rw [if_neg (by simp [hd])] at hidle hack hnak herr
      have hport := blockSeen_port s k
      refine ⟨hidle, herr, fun h => ?_, fun h => ?_, fun h => ?_, fun h => ⟨fun hn => ?_, fun hn => ?_⟩⟩
      · rw [hack, State.ackTo_found (by rw [hport]; exact h)]
      · rw [hack, State.ackTo_unknown (by rw [hport]; exact h)]
      · rw [hnak, State.resendFrom_unknown (by rw [hport]; exact h)]
      · rw [hnak, (State.resendFrom_found (by rw [hport]; exact h)).1 (by rw [hport]; exact hn)]
      · rw [hnak, (State.resendFrom_found (by rw [hport]; exact h)).2 (by rw [hport]; exact hn)]
  · change Host.Outcome.next _ = _
    rw [hrec, hsent]
  · obtain ⟨hrec, hgroup⟩ := hdue
    refine congrArg Host.Outcome.next ((if_neg (by simp [State.echoes_of_receives hrec])).trans ((if_pos hrec).trans ?_))
    exact if_pos (by simp [hgroup])
  · refine ⟨?_, fun hh => ?_, ?_⟩
    · rw [exec_dataBlock_receives hrec, (State.streamBlock_group hd hg).2 (by decide), State.deliverBlock_group hg]
      rfl
    · obtain ⟨h1, h2⟩ : header ≠ 1 ∧ header ≠ 2 := by simpa using hh
      have hbad : (header != 1 && header != 2) = true := by simp [h1, h2]
      rw [exec_dataBlock_receives hrec, (State.streamBlock_group hd hg).2 h2, State.deliverBlock_group hg, hbad]
    · rw [exec_dataBlock_receives hrec, (State.streamBlock_group hd hg).1 rfl]
  · refine ⟨?_, fun hh => ?_, fun hcrc => ?_, fun hcrc htype => ?_⟩
    · rw [exec_dataBlock_receives hrec, (State.streamBlock_control hd hg).1 rfl]
    · rw [exec_dataBlock_receives hrec, (State.streamBlock_control hd hg).2.2 hh]
      rfl
    · rw [exec_dataBlock_receives hrec, (State.streamBlock_control hd hg).2.1 rfl]
      rw [State.controlBlock_badCrc hg hcrc]
      rfl
    · rw [State.controlBlock_credit hrec hcrc htype, exec_dataBlock_receives hrec, (State.streamBlock_control hd hg).2.1 rfl]
  · refine congrArg Host.Outcome.next ((if_neg (by simp [hecho])).trans ((if_neg (by simp [hrec])).trans ?_))
    exact State.portBlock_lock hst
  · refine congrArg Host.Outcome.next ((if_neg (by simp [hecho])).trans ((if_neg (by simp [hrec])).trans ?_))
    exact State.portBlock_checks hst

end Sys2Proof.Machine
end

section
/-!
# Power domains, clocks and supplies (R404, R430–R444, R480)
-/

namespace Sys2Proof.Machine

open Sys2Proof

/-! ### Power domains -/

/-- The device places an idle domain that no event needs and no lane of which polls by the time that it expects. -/
theorem exec_domainDecision_idle {s : State} {d tn : Nat} (hup : s.up = true) (hl : s.pwr.ladder = 7) (hm : s.dev.mode ≠ .minimal)
    (hpair : ¬ (domKind d = .fold ∧ s.pairEnabled (pairOf d) = false)) (hidle : s.domIdle d = true) (hev : s.domEventNow d = false)
    (hlane : domKind d = .quad → ∀ l ∈ quadLanes (d - 522), (s.lane l).state ≠ .detect) (hc : s.chosen d tn ≠ .on) :
    exec (.domainDecision d tn) s = .next (((s.modDomain d (fun y => { y with tNextUs := satTo 32 tn })).logDecision
      "power choice" d ((s.chosen d tn).code + 4 * tn)).beginEntry d (s.chosen d tn)) := by
  have hdet : (domKind d == .quad && (quadLanes (d - 522)).any (fun l => (s.lane l).state == .detect)) = false := by
    rw [Bool.and_eq_false_imp]
    intro hq
    rw [List.any_eq_false]
    exact fun l hmem => by simpa using hlane (eq_of_beq hq) l hmem
  refine congrArg Host.Outcome.next ((if_neg (by simp [hup, hl, hm])).trans ((if_neg (by simpa using hpair)).trans
    ((if_neg (by simp [hidle])).trans ?_)))
  dsimp only
  rw [hev, hdet, if_neg (by decide), if_neg (by decide)]
  cases h : s.chosen d tn with
  | on => exact absurd h hc
  | ret => rfl
  | off => rfl

/-- Settles O50. -/
theorem powerDomainsMove : Obligations.PowerDomainsMove := by
  intro s d tn init
  dsimp only
  refine ⟨fun hup hl hm hpair hidle => ?_, fun hup hl hm hpair hidle hev hlane hc => exec_domainDecision_idle hup hl hm hpair hidle hev hlane hc,
    fun target again h hfl => ?_, fun target again h hfl => ?_, fun target again h => ?_, fun hw => ⟨fun hno => ?_, fun hret hdip => ?_⟩,
    fun hret => ?_, fun e hup he hl => ?_⟩
  · refine congrArg Host.Outcome.next ((if_neg (by simp [hup, hl, hm])).trans ((if_neg (by simpa using hpair)).trans (if_pos ?_)))
    simp [hidle]
  · change Host.Outcome.next _ = _
    rw [h]
    exact congrArg Host.Outcome.next (if_neg (by simp [hfl]))
  · change Host.Outcome.next _ = _
    rw [h]
    exact congrArg Host.Outcome.next (if_pos hfl)
  · change Host.Outcome.next _ = _
    rw [h]
  · refine congrArg Host.Outcome.next ((if_pos hw).trans (if_neg ?_))
    rintro ⟨hret, hdip⟩
    rcases hno with hno | hno
    · exact hno hret
    · exact absurd (hdip.symm.trans hno) (by decide)
  · exact congrArg Host.Outcome.next ((if_pos hw).trans (if_pos ⟨hret, hdip⟩))
  · exact congrArg Host.Outcome.next (if_pos hret)
  · exact congrArg Host.Outcome.next ((if_neg (by simp [hup, he])).trans (if_pos hl))

/-! ### Clocks -/

/-- The junction temperature of a compute die. -/
theorem State.setTj_die {s : State} {d tj : Nat} (h : d < 4) :
    s.setTj d tj = s.modDie d (fun x => { x with tj := tj, hot := x.hot && decide (105 ≤ tj) }) := if_pos h

/-- A temperature leaves the die its clock. -/
theorem State.hot_mhz (s : State) (d tj : Nat) :
    ((s.modDie d (fun x => { x with tj := tj, hot := x.hot && decide (105 ≤ tj) })).dieClk d).mhz = (s.dieClk d).mhz := by
  rw [State.dieClk_modDie_self]

/-- The average of the input power is taken up. -/
def State.watched (s : State) (watts : Nat) : State := s.modPwr (fun w => { w with watts := watts })

/-- A power step of the dies, by the average of the input power against the cap. -/
def State.capStep (s : State) (watts die : Nat) : State :=
  let u := s.watched watts
  if s.pwr.cap = 0 then u
  else if s.pwr.cap < watts then
    if (s.dieClk die).mhz ≤ 500 then u
    else
      let v := (u.modDie die (fun c => { c with powCap := max 500 (min c.powCap c.mhz - 50) })).settleDie die
      ((v.modPwr (fun w => { w with capSteps := satTo 16 (w.capSteps + 1) })).countOverride die (s.dieClk die).mhz).throttled
  else if 100 * watts < 97 * s.pwr.cap then
    (List.range 4).foldl (fun s d => (s.modDie d (fun c => { c with powCap := min 1250 (c.powCap + 50) })).settleDie d) u
  else u

/-- CAP_UNMET after it. -/
def State.capJudged (v : State) (cap watts : Nat) : State :=
  v.modPwr (fun w => { w with
    capUnmet := cap != 0 && decide (cap < watts) && (List.range 4).all (fun d => decide ((v.dieClk d).mhz ≤ 500)) })

theorem exec_powerCapStep {s : State} {watts d : Nat} (hup : s.up = true) :
    exec (.powerCapStep watts d) s = .next ((s.capStep watts d).capJudged s.pwr.cap watts) :=
  congrArg Host.Outcome.next (if_neg (not_not_intro hup))

theorem State.capStep_over {s : State} {watts d : Nat} (hcap : s.pwr.cap ≠ 0) (hover : s.pwr.cap < watts) :
    s.capStep watts d = if (s.dieClk d).mhz ≤ 500 then s.watched watts else
      (((((s.watched watts).modDie d (fun c => { c with powCap := max 500 (min c.powCap c.mhz - 50) })).settleDie d).modPwr (fun w => { w with
        capSteps := satTo 16 (w.capSteps + 1) })).countOverride d (s.dieClk d).mhz).throttled :=
  (if_neg hcap).trans (if_pos hover)

theorem State.capStep_under {s : State} {watts d : Nat} (hcap : s.pwr.cap ≠ 0) (hunder : 100 * watts < 97 * s.pwr.cap) :
    s.capStep watts d = (List.range 4).foldl (fun s d =>
      (s.modDie d (fun c => { c with powCap := min 1250 (c.powCap + 50) })).settleDie d) (s.watched watts) :=
  (if_neg hcap).trans ((if_neg (by omega)).trans (if_pos hunder))

theorem State.capStep_met {s : State} {watts d : Nat} (h : s.pwr.cap = 0 ∨ (watts ≤ s.pwr.cap ∧ 97 * s.pwr.cap ≤ 100 * watts)) :
    s.capStep watts d = s.watched watts := by
  rcases h with h | ⟨hle, hge⟩
  · exact if_pos h
  · unfold State.capStep
    dsimp only
    rw [if_neg (Nat.not_lt.mpr hle), if_neg (Nat.not_lt.mpr hge)]
    exact ite_self _

theorem State.capJudged_over {cap watts : Nat} (hcap : cap ≠ 0) (hover : cap < watts) (v : State) : v.capJudged cap watts =
    v.modPwr (fun w => { w with capUnmet := (List.range 4).all (fun d => decide ((v.dieClk d).mhz ≤ 500)) }) := by
  have hpre : (cap != 0 && decide (cap < watts)) = true := by simp [hcap, hover]
  unfold State.capJudged
  rw [hpre]
  rfl

theorem State.capJudged_met {cap watts : Nat} (h : cap = 0 ∨ watts ≤ cap) (v : State) : v.capJudged cap watts =
    v.modPwr (fun w => { w with capUnmet := false }) := by
  have hpre : (cap != 0 && decide (cap < watts)) = false := by
    rcases h with h | h
    · simp [h]
    · simp [Nat.not_lt.mpr h]
  unfold State.capJudged
  rw [hpre]
  rfl

/-- Settles O51. -/
theorem clocksFollowLimits : Obligations.ClocksFollowLimits := by
  intro s d m tj word watts hd hup
  have hnup : ¬ ¬ s.up = true := not_not_intro hup
  have hd4 : ¬ 4 ≤ d := Nat.not_le.mpr hd
  have htj := State.setTj_die (s := s) (tj := tj) hd
  have hmhz := s.hot_mhz d tj
  dsimp only
  refine ⟨fun ht hm htry => ⟨?_, fun htwo => ?_⟩, ?_, fun hlo hhi => ?_, fun hlo => ?_, fun hhi => ?_, fun hcap hover hc => ?_,
    fun hcap hover hc => ?_, fun hcap hunder => ?_, fun hno => ?_, fun hh hhi => ?_, fun hno => ?_⟩
  · change Host.Outcome.next _ = _
    rw [ht]
    exact congrArg Host.Outcome.next ((if_neg (not_or.mpr ⟨hm, Nat.not_le.mpr htry⟩)).trans (if_pos rfl))
  · change Host.Outcome.next _ = _
    rw [ht]
    exact congrArg Host.Outcome.next ((if_neg (not_or.mpr ⟨hm, Nat.not_le.mpr htry⟩)).trans
      ((if_neg (by decide)).trans (if_pos htwo)))
  · exact congrArg Host.Outcome.next (if_pos hup)
  · refine congrArg Host.Outcome.next ((if_neg hnup).trans ?_)
    dsimp only
    rw [htj, if_neg hd4, if_neg (Nat.not_lt.mpr hhi), if_neg (Nat.not_le.mpr hlo)]
  · refine congrArg Host.Outcome.next ((if_neg hnup).trans ?_)
    dsimp only
    rw [htj, if_neg hd4, if_neg (by omega), if_pos hlo]
    rfl
  · refine congrArg Host.Outcome.next ((if_neg hnup).trans ?_)
    dsimp only
    rw [htj, if_neg hd4, if_pos hhi, hmhz]
    rfl
  · rw [exec_powerCapStep hup, State.capStep_over hcap hover, if_neg (Nat.not_le.mpr hc)]
    exact congrArg Host.Outcome.next (State.capJudged_over hcap hover _)
  · rw [exec_powerCapStep hup, State.capStep_over hcap hover, if_pos hc]
    exact congrArg Host.Outcome.next (State.capJudged_over hcap hover _)
  · rw [exec_powerCapStep hup, State.capStep_under hcap hunder]
    exact congrArg Host.Outcome.next (State.capJudged_met (by omega) _)
  · rw [exec_powerCapStep hup, State.capStep_met hno]
    exact congrArg Host.Outcome.next (State.capJudged_met (by omega) _)
  · have hhit : (decide (d < 4) && !(s.dieClk d).hot && decide (105 ≤ tj)) = true := by simp [hd, hh, hhi]
    refine congrArg Host.Outcome.next ((if_neg hnup).trans ?_)
    dsimp only
    rw [hhit, htj, if_pos rfl, hmhz]
    rfl
  · have hhit : (decide (d < 4) && !(s.dieClk d).hot && decide (105 ≤ tj)) = false := by
      rcases hno with h | h
      · simp [h]
      · simp [Nat.not_le.mpr h]
    refine congrArg Host.Outcome.next ((if_neg hnup).trans ?_)
    dsimp only
    rw [hhit, htj]
    rfl

end Sys2Proof.Machine
end

section
/-!
# Supply warnings, their end, and the banks (R29, R285, R404)
-/

namespace Sys2Proof.Machine

open Sys2Proof

theorem State.modDev_self {s : State} {f : Dev → Dev} (h : f s.dev = s.dev) : s.modDev f = s := by
  unfold State.modDev
  rw [h]

/-! ### What a change of mode leaves -/

/-- A state differs from another in its trace alone. -/
def State.TraceOnly (s t : State) : Prop := t = { s with trace := t.trace }

theorem State.TraceOnly.refl (s : State) : s.TraceOnly s := rfl
theorem State.TraceOnly.trans {s t u : State} (h : s.TraceOnly t) (k : t.TraceOnly u) : s.TraceOnly u :=
  Eq.trans k (congrArg (fun x : State => { x with trace := u.trace }) h)
theorem State.modTrace_traceOnly (s : State) (f : Trace → Trace) : s.TraceOnly (s.modTrace f) := rfl

theorem State.traceTo_traceOnly (s : State) (st : TraceState) (src : Nat) : s.TraceOnly (s.traceTo st src) := by
  unfold State.traceTo
  split
  · exact .refl s
  · exact s.modTrace_traceOnly _

theorem State.traceBegin_traceOnly (s : State) (src : Nat) : s.TraceOnly (s.traceBegin src) := by
  unfold State.traceBegin
  exact (s.traceTo_traceOnly .tracing src).trans (State.modTrace_traceOnly _ _)

theorem State.traceEvent_traceOnly (s : State) (bit : Nat) : s.TraceOnly (s.traceEvent bit) := by
  unfold State.traceEvent
  split
  · split
    · exact s.traceBegin_traceOnly bit
    · exact .refl s
  · split
    · exact s.traceTo_traceOnly .stopping bit
    · exact .refl s
  · exact .refl s

theorem State.raiseVector_pastures (s : State) (v : Nat) : (s.raiseVector v).pastures = s.pastures := by
  obtain ⟨m, o, h⟩ := s.raiseVector_eq v
  rw [h]

theorem State.setMode_keeps (s : State) (m : Mode) :
    (s.setMode m).pastures = s.pastures ∧ (s.setMode m).dev.holdFaults = s.dev.holdFaults := by
  unfold State.setMode
  dsimp only
  split
  · exact ⟨rfl, rfl⟩
  · split
    · rw [State.raiseVector_pastures, State.raiseVector_dev]
      exact ⟨rfl, rfl⟩
    · rw [State.traceEvent_traceOnly, State.raiseVector_pastures, State.raiseVector_dev]
      exact ⟨rfl, rfl⟩

/-! ### A device with nothing to resume -/

theorem State.pas_of_no_pastures {s : State} (h : s.pastures = []) (p : Nat) : s.pas p = Pasture.init := by
  unfold State.pas
  rw [h]
  rfl

/-- Where no pasture is there, none is resumed. -/
theorem State.resumePasture_of_none {s : State} (h : s.pastures = []) (p : Nat) : s.resumePasture p = s := by
  have hp := State.pas_of_no_pastures h p
  have hst : s.pstate p = .empty := by
    unfold State.pstate
    rw [hp]
    rfl
  have hdips : s.dips p = false := by
    unfold State.dips State.ringsOn
    rw [hp]
    rfl
  unfold State.resumePasture
  rw [hdips, if_neg (by decide), hst]

theorem State.settleFaults_of_none {s : State} (h : s.dev.holdFaults = []) : s.settleFaults = s := by
  unfold State.settleFaults
  rw [h]
  refine State.modDev_self ?_
  rw [← h]

/-- Settles O52. -/
theorem suppliesHoldAndReturn : Obligations.SuppliesHoldAndReturn := by
  intro s die b mv
  refine ⟨fun hd hm => ?_, fun hd hm => ?_, fun hm => ?_, fun hm hpas hports hlanes hfaults => ?_, fun hgood => ⟨?_, ?_⟩, fun hbad => ⟨?_, ?_⟩⟩
  · have hoff : ¬ (4 ≤ die ∨ s.dev.mode = .off) := by
      rintro (h | h)
      · omega
      · simp [h] at hm
    have hholds : s.dev.mode.holds = true := by
      simp only [List.mem_cons, List.not_mem_nil, or_false] at hm
      rcases hm with h | h | h <;> rw [h] <;> rfl
    exact congrArg Host.Outcome.next ((if_neg hoff).trans (if_pos hholds))
  · have hoff : ¬ (4 ≤ die ∨ s.dev.mode = .off) := by
      rintro (h | h)
      · omega
      · simp [h] at hm
    have hholds : ¬ s.dev.mode.holds = true := by
      simp only [List.mem_cons, List.not_mem_nil, or_false] at hm
      rcases hm with h | h | h | h <;> rw [h] <;> decide
    exact congrArg Host.Outcome.next ((if_neg hoff).trans (if_neg hholds))
  · exact congrArg Host.Outcome.next (if_pos hm)
  · have hrec : (List.range Config.numPastures).any (fun p => s.ringsOn p && (s.pstate p).recovers) = false := by
      rw [List.any_eq_false]
      intro p _
      rw [State.ringsOn, State.pas_of_no_pastures hpas]
      exact Bool.false_ne_true
    obtain ⟨hpastures, hheld⟩ := State.setMode_keeps (s.modDev (fun d => { d with warned := [] })) .service
    refine congrArg Host.Outcome.next ((if_neg (not_not_intro hm)).trans ?_)
    dsimp only
    rw [hrec, if_neg (by decide), if_neg (by decide), List.foldl_fixed' (State.resumePasture_of_none (hpastures.trans hpas))]
    exact State.settleFaults_of_none (hheld.trans hfaults)
  · exact congrArg Host.Outcome.next (if_pos hgood)
  · exact congrArg Host.Outcome.next (if_pos hgood)
  · exact congrArg Host.Outcome.next (if_neg (by simp [hbad]))
  · exact congrArg Host.Outcome.next (if_neg (by simp [hbad]))

end Sys2Proof.Machine
end

section
/-!
# Resets, starts and restarts (R424, R426, R448–R461)
-/

namespace Sys2Proof.Machine

open Sys2Proof

/-! ### Device resets -/

/-- What a device reset from a source leaves. -/
def ResetFrom (s t : State) (src : Nat) : Prop :=
  t.dev.mode = .boot ∧ t.dev.booting = false ∧ t.dev.cause.cause = s.dev.cause.cause ||| 2 ^ src ∧ t.dev.cause.last = src ∧
  t.host.sessions = [] ∧ t.pastures = [] ∧ t.folds = [] ∧ t.pairs = [] ∧ t.hbm = [] ∧ t.lanes = [] ∧ t.ports = [] ∧
  t.time = TimeBase.init ∧ t.edge.banks = [] ∧ t.host.mem = s.host.mem ∧ t.fuses = s.fuses ∧ t.flash = s.flash ∧ t.ident = s.ident ∧
  t.pending = s.pending

theorem State.deviceReset_resetFrom (s : State) (src : Nat) (failure : Option (Nat × Nat)) : ResetFrom s (s.deviceReset src failure) src :=
  ⟨rfl, rfl, rfl, rfl, rfl, rfl, rfl, rfl, rfl, rfl, rfl, rfl, rfl, rfl, rfl, rfl, rfl, rfl⟩

/-- Settles O53. -/
theorem deviceResets : Obligations.DeviceResets := by
  intro s
  refine ⟨fun src c hc => ?_, s.powerOn, rfl, rfl, rfl, rfl, rfl, rfl⟩
  have hreset (failure : Option (Nat × Nat)) (h : exec c s = .next (s.deviceReset src failure)) : ∃ t, exec c s = .next t ∧ ResetFrom s t src :=
    ⟨_, h, s.deviceReset_resetFrom src failure⟩
  rcases hc with ⟨n, hn, rfl, rfl⟩ | ⟨r, hr, rfl, rfl⟩ | ⟨hh, rfl, rfl⟩ | ⟨hd, hm, rfl, rfl⟩ | ⟨i, hi, rfl, rfl⟩ | ⟨hm, hb, hst, rfl, rfl⟩ |
    ⟨die, tj, hd, hhot, htj, hm, rfl, rfl⟩ | ⟨hr, hcc, rfl, rfl⟩ | ⟨hr, hcc, rfl, rfl⟩
  · exact hreset none (congrArg Host.Outcome.next ((if_neg (by omega)).trans (if_pos hn)))
  · exact hreset _ (congrArg Host.Outcome.next (if_pos hr))
  · exact hreset _ (congrArg Host.Outcome.next (if_pos hh))
  · exact hreset _ (congrArg Host.Outcome.next (if_pos ⟨hd, hm⟩))
  · exact ⟨_, congrArg Host.Outcome.next (if_pos hi), State.deviceReset_resetFrom _ _ _⟩
  · exact hreset _ (congrArg Host.Outcome.next (if_pos ⟨hm, hb, hst⟩))
  · refine hreset _ (congrArg Host.Outcome.next (if_pos ⟨by omega, ?_, htj, hm⟩))
    rw [if_pos hd]
    exact hhot
  · refine hreset none (congrArg Host.Outcome.next ((if_pos hr).trans ?_))
    rw [if_pos hcc]
    rfl
  · refine hreset none (congrArg Host.Outcome.next ((if_pos hr).trans ?_))
    rw [if_neg hcc]
    rfl

/-! ### Starts -/

theorem State.modDev_congr {s : State} {f g : Dev → Dev} (h : f s.dev = g s.dev) : s.modDev f = s.modDev g := by
  unfold State.modDev
  rw [h]

theorem exec_bootStageComplete {s : State} (hm : s.dev.mode = .boot) (hb : s.dev.booting = true) (hw : s.dev.warned = []) :
    exec (.bootStageComplete .ok) s = .next s.stagePasses ∧
    ∀ (st code : Nat) (r : StageResult),
      (st, code, r) ∈ [(2, 0x10, .slotVerify), (5, 0x40, .hbmTrain 0), (6, 0x41, .hbmWipe 0), (4, 0x30, .sramWipe 0)] →
      s.dev.boot.stage = st → exec (.bootStageComplete r) s = .next (s.deviceReset 4 (some (code, 0))) := by
  have hgo : ¬ (s.dev.mode ≠ .boot ∨ ¬ s.dev.booting ∨ s.dev.warned ≠ []) := by simp [hm, hb, hw]
  refine ⟨congrArg Host.Outcome.next (if_neg hgo), fun st code r hr hst => ?_⟩
  simp only [List.mem_cons, Prod.mk.injEq, List.not_mem_nil, or_false] at hr
  obtain ⟨rfl, rfl, rfl⟩ | ⟨rfl, rfl, rfl⟩ | ⟨rfl, rfl, rfl⟩ | ⟨rfl, rfl, rfl⟩ := hr
  all_goals exact congrArg Host.Outcome.next ((if_neg hgo).trans (if_pos (by simp [hst])))

/-- A stage that only counts. -/
theorem State.stagePasses_next {s : State} (h : s.dev.boot.stage ∈ [3, 4, 5, 7]) :
    s.stagePasses = s.modDev (fun d => { d with boot := { d.boot with stage := d.boot.stage + 1 } }) := by
  have hgo : s.stagePasses = s.toStage (s.dev.boot.stage + 1) := by
    simp only [List.mem_cons, List.not_mem_nil, or_false] at h
    unfold State.stagePasses
    dsimp only
    rcases h with h | h | h | h <;> rw [h] <;> rfl
  rw [hgo]
  exact State.modDev_congr rfl

theorem State.stagePasses_last {s : State} (h : s.dev.boot.stage = 9) :
    s.stagePasses = (s.modTime (fun t => { t with running := true })).enterService := by
  unfold State.stagePasses
  dsimp only
  rw [h]
  rfl

/-! ### Restarts -/

/-- A core that fails outside a start, and not again within 10 s, restarts the control complex. -/
theorem State.coreFails_restarts {s : State} {src code detail cause : Nat} {b : Bool} (hoff : s.dev.mode ≠ .off) (hboot : s.dev.mode ≠ .boot)
    (h : b = false ∨ s.dev.restartedAt = false) : s.coreFails src code detail cause b = State.beginRestart (s.modDev (fun d => { d with
      restartedAt := true, cause := { d.cause with
        ccWdog := d.cause.ccWdog || cause == 1, ccLockup := d.cause.ccLockup || cause == 2 } })) cause := by
  refine (if_neg hoff).trans ((if_neg hboot).trans (if_neg ?_))
  rintro ⟨hb, hr⟩
  rcases h with h | h
  · exact absurd (hb.symm.trans h) (by decide)
  · exact absurd (hr.symm.trans h) (by decide)

/-- Settles O54. -/
theorem startsAndRestarts : Obligations.StartsAndRestarts := by
  intro s n core b st code r x
  refine ⟨fun hm hb hw => ?_, fun hm hb hw => ⟨fun hst => ?_, fun hst => ?_, fun hr hst => ?_⟩, fun hn hm => ?_, fun hn => ?_,
    fun hcore hoff hboot hwithin => ⟨?_, ?_⟩, fun hr hm hx => ?_, fun hup hm hr => ?_, fun back hm hw he => ?_⟩
  · exact congrArg Host.Outcome.next (if_pos ⟨hm, by simp [hb], hw⟩)
  · rw [(exec_bootStageComplete hm hb hw).1, State.stagePasses_next hst]
  · rw [(exec_bootStageComplete hm hb hw).1, State.stagePasses_last hst]
  · exact (exec_bootStageComplete hm hb hw).2 st code r hr hst
  · exact congrArg Host.Outcome.next ((if_neg (Nat.not_lt.mpr hn)).trans (if_pos hm))
  · exact congrArg Host.Outcome.next (if_pos hn)
  · refine congrArg Host.Outcome.next ((if_pos hcore).trans ((State.coreFails_restarts hoff hboot hwithin).trans ?_))
    simp
  · refine congrArg Host.Outcome.next ((if_pos hcore).trans ((State.coreFails_restarts hoff hboot hwithin).trans ?_))
    simp
  · refine congrArg Host.Outcome.next ((if_neg (not_not_intro hr)).trans ((if_neg hm).trans ?_))
    rw [hx]
  · exact congrArg Host.Outcome.next (if_pos ⟨hup, hm, by simp [hr]⟩)
  · refine congrArg Host.Outcome.next ((if_neg (by simp [hm, hw])).trans ?_)
    dsimp only
    rw [he]

end Sys2Proof.Machine
end

section
/-!
# The function, the test access port and the trace (R367, R368, R407, R408, R466–R472)
-/

namespace Sys2Proof.Machine

open Sys2Proof

/-- Settles O55. -/
theorem functionAndTestPort : Obligations.FunctionAndTestPort := by
  intro s k v code pins
  refine ⟨fun hm => ⟨?_, ?_, fun hv hd => ?_⟩, fun hd => ?_, rfl, fun hcode => ?_, fun hb => ⟨?_, ?_, ?_, ?_⟩, fun hb => ⟨?_, ?_, ?_, ?_⟩⟩
  · exact congrArg Host.Outcome.next (if_neg hm)
  · exact congrArg Host.Outcome.next (if_neg hm)
  · exact congrArg Host.Outcome.next (if_pos ⟨hv, by simp [hd], hm⟩)
  · exact congrArg Host.Outcome.next (if_pos hd)
  · exact congrArg Host.Outcome.next (if_neg (Nat.not_lt.mpr hcode))
  · exact congrArg Host.Outcome.next (if_pos hb)
  · exact congrArg Host.Outcome.next (if_pos hb)
  · exact congrArg Host.Outcome.next (if_pos hb)
  · exact congrArg Host.Outcome.next (if_pos hb)
  all_goals exact congrArg Host.Outcome.next (if_neg (by simp [hb]))

/-! ### What the trace's own operations leave -/

theorem foldl_traceOnly {α : Type} {g : State → α → State} (h : ∀ (s : State) x, s.TraceOnly (g s x)) (l : List α) (s : State) :
    s.TraceOnly (l.foldl g s) := by
  induction l generalizing s with
  | nil => exact .refl s
  | cons a l ih => exact (h s a).trans (ih _)

theorem State.modEncoder_traceOnly (s : State) (c : Nat) (f : Encoder → Encoder) : s.TraceOnly (s.modEncoder c f) := rfl

theorem State.traceCompare_traceOnly (s : State) (data : Bool) (core addr : Nat) : s.TraceOnly (s.traceCompare data core addr) := by
  refine foldl_traceOnly (fun s i => ?_) _ s
  split
  · exact s.traceEvent_traceOnly i
  · exact .refl s

theorem State.traceAccess_traceOnly (s : State) (core addr size : Nat) (store : Bool) (value : Nat) :
    s.TraceOnly (s.traceAccess core addr size store value) := by
  unfold State.traceAccess
  dsimp only
  split
  · exact .refl s
  · exact s.modTrace_traceOnly _

theorem State.ite_traceOnly {s a b : State} {c : Prop} [Decidable c] (ha : s.TraceOnly a) (hb : s.TraceOnly b) :
    s.TraceOnly (if c then a else b) := by
  split <;> assumption

theorem State.traceRetire_traceOnly (s : State) (core next : Nat) (branch traced : Bool) :
    s.TraceOnly (s.traceRetire core next branch traced) := by
  unfold State.traceRetire
  exact State.ite_traceOnly rfl rfl

theorem State.traceGap_traceOnly (s : State) (c cause : Nat) : s.TraceOnly (s.traceGap c cause) := by
  unfold State.traceGap
  dsimp only
  refine State.TraceOnly.trans ?_ (State.modEncoder_traceOnly _ c _)
  split
  · exact s.modTrace_traceOnly _
  · exact .refl s

theorem State.traceWake_traceOnly (s : State) (c addr : Nat) : s.TraceOnly (s.traceWake c addr) := by
  unfold State.traceWake
  exact State.ite_traceOnly rfl rfl

/-- An instruction of a drover core changes the trace alone. -/
theorem droverStep_traceOnly (core pc : Nat) (k : DcKind) (s : State) : s.TraceOnly (droverStep core pc k s) := by
  have hretire (u : State) (next : Nat) (branch traced : Bool) := u.traceRetire_traceOnly core next branch traced
  unfold droverStep
  split
  · split
    · exact s.traceWake_traceOnly core _
    · exact .refl s
  · split
    · exact .refl s
    · dsimp only
      generalize hu : (if (s.trace.state == .tracing && decide (core ∈ s.tracedCores) && (s.encoder core).full) = true then
        s.modTrace (fun t => t.emitFull s.time.ns core pc) else s) = u
      have hfull : s.TraceOnly u := hu ▸ State.ite_traceOnly (s.modTrace_traceOnly _) (.refl s)
      refine (hfull.trans ?_).trans (State.traceCompare_traceOnly _ false core pc)
      split
      · refine State.TraceOnly.trans ?_ (State.traceCompare_traceOnly _ true core _)
        exact (State.ite_traceOnly (u.traceAccess_traceOnly core _ _ _ _) (.refl u)).trans (hretire _ _ _ _)
      · exact hretire _ _ _ _
      · exact (hretire _ _ _ _).trans (State.traceGap_traceOnly _ core 0)
      · exact hretire _ _ _ _

/-! ### The state of the trace -/

theorem Trace.emit_state (t : Trace) (c ref : Nat) (daddr : Option Nat) (bs : List Byte) : (t.emit c ref daddr bs).state = t.state := by
  unfold Trace.emit
  split_ifs <;> rfl

theorem Trace.padFor_state (t : Trace) (n : Nat) : (t.padFor n).state = t.state := by
  unfold Trace.padFor
  dsimp only
  split <;> rfl

/-- The landing of a packet leaves a trace that has stopped stopped. -/
theorem Trace.land_stopped {t : Trace} (h : t.state = .stopped) (ns : Nat) (k : TPkt) : (t.land ns k).state = .stopped := by
  unfold Trace.land
  dsimp only
  have hput (n : Nat) (bs : List Byte) (f : Encoder → Encoder) : (((t.padFor n).put bs).modEncoder k.core f).state = .stopped :=
    (t.padFor_state n).trans h
  have hite {c : Prop} [Decidable c] {a b : Trace} (ha : a.state = .stopped) (hb : b.state = .stopped) :
      (if c then a else b).state = .stopped := by split <;> assumption
  refine hite ?_ (hite ?_ (hput _ _ _))
  · rw [h]
    rfl
  · rw [hput]
    rfl

theorem Trace.drainAll_stopped {t : Trace} (h : t.state = .stopped) (ns : Nat) : (t.drainAll ns).state = .stopped := by
  unfold Trace.drainAll
  have hland (l : List TPkt) (u : Trace) (hu : u.state = .stopped) : (l.foldl (fun t k => t.land ns k) u).state = .stopped := by
    induction l generalizing u with
    | nil => exact hu
    | cons k l ih => exact ih _ (Trace.land_stopped hu ns k)
  exact hland _ _ h

theorem State.traceTo_state (s : State) (st : TraceState) (src : Nat) : (s.traceTo st src).trace.state = st := by
  unfold State.traceTo
  split
  · next h => exact h
  · have hemit (l : List Nat) (u : Trace) : (l.foldl (fun t c => t.emit c (t.encoder c).ref none (pktEvent c st.code src)) u).state = u.state := by
      induction l generalizing u with
      | nil => rfl
      | cons c l ih => exact (ih _).trans (u.emit_state _ _ _ _)
    exact hemit _ _

/-- Settles O56. -/
theorem traceEventsAct : Obligations.TraceEventsAct := by
  intro s bit core pc k
  refine ⟨fun hst hb hmask => ?_, fun hst hb hmask => ?_, fun hst => ?_, fun hst hc hgap => ?_, fun hlost hroom => ?_, fun hc => ?_, fun t ht => ?_⟩
  · exact congrArg Host.Outcome.next (if_pos ⟨hst, hb, hmask⟩)
  · exact congrArg Host.Outcome.next (if_pos ⟨hst, hb, hmask⟩)
  · refine ⟨_, congrArg Host.Outcome.next (if_pos hst), Trace.drainAll_stopped (State.traceTo_state _ _ _) _, ?_⟩
    let u := (s.modTrace (fun t => t.drainAll s.time.ns)).draw 8
    let w := u.2.traceTo .stopped u.1
    exact (u.2.traceTo_traceOnly .stopped u.1).trans (w.modTrace_traceOnly (fun t => t.drainAll w.time.ns))
  · exact congrArg Host.Outcome.next (if_pos ⟨hst, hc, by simp [hgap]⟩)
  · exact congrArg Host.Outcome.next (if_pos ⟨hlost, hroom⟩)
  · exact congrArg Host.Outcome.next (if_pos hc)
  · rw [← Host.Outcome.next.inj ht]
    split
    · exact droverStep_traceOnly core pc k s
    · rfl

end Sys2Proof.Machine
end

section
/-!
# Packets of the service network on their way and at their port (R317, R319, R322, R326, R330–R332)
-/

namespace Sys2Proof.Machine

open Sys2Proof

/-! ### Entry into the mesh -/

/-- Opening a transaction changes the list of transactions alone. -/
theorem State.openTxn_eq (s : State) (p : NocPacket) : ∃ l, s.openTxn p = s.modNoc (fun n => { n with txns := l }) := by
  unfold State.openTxn
  dsimp only
  split
  · exact ⟨s.noc.txns, rfl⟩
  · exact ⟨_, rfl⟩

/-- The way of a packet is a matter of the queues, the tokens and the holds. -/
theorem nocMoves_congr {s t : State} (p : NocPacket) (hw : t.noc.waiting = s.noc.waiting) (hg : t.noc.regulators = s.noc.regulators)
    (hh : t.noc.holds = s.noc.holds) (h : nocMoves s p) : nocMoves t p := by
  unfold nocMoves State.regulator State.heldOn State.holdOf
  rw [hw, hg, hh]
  exact h

theorem nocMoves_openTxn {s : State} {p : NocPacket} (h : nocMoves s p) : nocMoves (s.openTxn p) p := by
  obtain ⟨l, hl⟩ := s.openTxn_eq p
  rw [hl]
  exact nocMoves_congr p rfl rfl rfl h

/-- A packet that crosses the mesh at once takes the tokens of all its flits and passes. -/
theorem State.nocAttempt_of_moves {s : State} {p : NocPacket} (h : nocMoves s p) :
    s.nocAttempt { pkt := p, opc := nocOpc p.word0, left := 1 + nocLen p.word0, counted := false } =
      (s.modRegulator (4 * injectionPoint (nocOpc p.word0) p.word0 + nocNet (nocOpc p.word0)) (fun g => g.take (1 + nocLen p.word0) 0)).nocPass
        { pkt := p, opc := nocOpc p.word0, left := 1 + nocLen p.word0, counted := false } := by
  obtain ⟨hwait, htok, hroute⟩ := h
  have hsrc : s.heldOn (nocSrc (nocOpc p.word0) p.word0) (nocNet (nocOpc p.word0)) = false :=
    hroute (nocSrc (nocOpc p.word0) p.word0, inputCode (nocSrcPort p.word0)) List.mem_cons_self
  have hany (g : Regulator → Regulator) (i : Nat) : (nocRoute (nocOpc p.word0) p.word0).any
      (fun e => (s.modRegulator i g).heldOn e.1 (nocNet (nocOpc p.word0))) = false :=
    List.any_eq_false.mpr fun e he => by
      have := hroute e he
      simpa [State.heldOn, State.holdOf, State.modRegulator] using this
  unfold State.nocAttempt
  dsimp only
  rw [if_neg (by
    rintro (hw | hs)
    · exact absurd (hwait.symm.trans hw) Bool.false_ne_true
    · exact absurd (hsrc.symm.trans hs) Bool.false_ne_true), Nat.min_eq_left htok, Nat.sub_self, if_neg (fun hn => hn rfl),
    if_neg (by rw [hany]; exact Bool.false_ne_true)]
  rfl

/-- A well-formed packet that moves is ejected in the state it has passed to. -/
theorem State.nocEnter_of_clear {s : State} {p : NocPacket} (h : nocClear s p) :
    s.nocEnter p (nocOpc p.word0) = (nocPassed s p).ejected p := by
  obtain ⟨hpar, hport, hmoves⟩ := h
  have hopen : nocMoves (if isRequest (nocOpc p.word0) = true ∧ nocOpc p.word0 = nocOpc p.word0 then s.openTxn p else s) p := by
    split
    · exact nocMoves_openTxn hmoves
    · exact hmoves
  unfold State.nocEnter
  dsimp only
  rw [if_neg (by simp [hport]), State.nocAttempt_of_moves hopen]
  unfold State.nocPass nocPassed
  dsimp only
  rw [if_pos hpar]
  simp only [and_true]

/-- A packet whose parity fails is discarded at the first input it meets. -/
theorem State.nocEnter_of_parity {s : State} {p : NocPacket} (h : parityOk p = false) (hmoves : nocMoves s p) :
    ∃ u : State, (u = s ∨ u = s.openTxn p) ∧ s.nocEnter p (nocOpc p.word0) =
      (u.modRegulator (4 * injectionPoint (nocOpc p.word0) p.word0 + nocNet (nocOpc p.word0))
        (fun g => g.take (1 + nocLen p.word0) 0)).parityDiscard p (nocOpc p.word0) := by
  refine ⟨if isRequest (nocOpc p.word0) = true ∧ nocOpc p.word0 = nocOpc p.word0 then s.openTxn p else s, ?_, ?_⟩
  · split
    · exact .inr rfl
    · exact .inl rfl
  · have hopen : nocMoves (if isRequest (nocOpc p.word0) = true ∧ nocOpc p.word0 = nocOpc p.word0 then s.openTxn p else s) p := by
      split
      · exact nocMoves_openTxn hmoves
      · exact hmoves
    unfold State.nocEnter
    dsimp only
    rw [if_neg (by simp [h]), State.nocAttempt_of_moves hopen]
    unfold State.nocPass
    rw [if_neg (by simp [h])]

/-! ### What the way of a packet leaves -/

/-- A state differs from another in its network and its trace alone. -/
def State.NetOnly (s t : State) : Prop := t = { s with noc := t.noc, trace := t.trace }

theorem State.NetOnly.refl (s : State) : s.NetOnly s := rfl
theorem State.NetOnly.trans {s t u : State} (h : s.NetOnly t) (k : t.NetOnly u) : s.NetOnly u :=
  Eq.trans k (congrArg (fun x : State => { x with noc := u.noc, trace := u.trace }) h)
theorem State.modNoc_netOnly (s : State) (f : Noc → Noc) : s.NetOnly (s.modNoc f) := rfl
theorem State.TraceOnly.netOnly {s t : State} (h : s.TraceOnly t) : s.NetOnly t := by
  unfold State.NetOnly
  rw [h]

theorem State.modRegulator_netOnly (s : State) (i : Nat) (f : Regulator → Regulator) : s.NetOnly (s.modRegulator i f) := rfl
theorem State.NetOnly.time {s t : State} (h : s.NetOnly t) : t.time = s.time := by
  rw [h]

theorem foldl_netOnly {α : Type} {g : State → α → State} (h : ∀ (s : State) x, s.NetOnly (g s x)) (l : List α) (s : State) :
    s.NetOnly (l.foldl g s) := by
  induction l generalizing s with
  | nil => exact .refl s
  | cons a l ih => exact (h s a).trans (ih _)

theorem State.openTxn_netOnly (s : State) (p : NocPacket) : s.NetOnly (s.openTxn p) := by
  obtain ⟨l, hl⟩ := s.openTxn_eq p
  rw [hl]
  rfl

theorem State.probeSee_netOnly (s : State) (p : NocPacket) : s.NetOnly (s.probeSee p) := by
  unfold State.probeSee
  dsimp only
  split
  · exact .refl s
  · refine foldl_netOnly (fun u i => ?_) _ s
    split
    · exact (u.modNoc_netOnly _).trans (State.traceEvent_traceOnly _ 4).netOnly
    · exact .refl u

theorem State.datSee_netOnly (s : State) (p : NocPacket) : s.NetOnly (s.datSee p) := rfl

/-- A packet on its way changes the network and the trace alone. -/
theorem nocPassed_netOnly (s : State) (p : NocPacket) : s.NetOnly (nocPassed s p) := by
  unfold nocPassed
  dsimp only
  have hopen : s.NetOnly (if isRequest (nocOpc p.word0) = true then s.openTxn p else s) := by
    split
    · exact s.openTxn_netOnly p
    · exact .refl s
  have hsee := (hopen.trans (State.modRegulator_netOnly _ (4 * injectionPoint (nocOpc p.word0) p.word0 + nocNet (nocOpc p.word0))
    (fun g => g.take (1 + nocLen p.word0) 0))).trans (State.probeSee_netOnly _ p)
  split
  · exact hsee.trans (State.datSee_netOnly _ p)
  · exact hsee

/-! ### At the port -/

/-- The operations of requests. -/
def requestOpcs : List Nat := [opcRd, opcWr, opcSetw, opcClrw, opcRegRd, opcRegWr, opcCtl, opcBulkRd, opcBulkWr]

theorem isRequest_of_mem {opc : Nat} (h : opc ∈ requestOpcs) : isRequest opc = true := by
  revert opc
  decide

theorem State.ejected_request {s : State} {p : NocPacket} (h : nocOpc p.word0 ∈ requestOpcs) : s.ejected p = s.request p :=
  if_pos (isRequest_of_mem h)

/-- A request that reaches an open port acts at its target. -/
theorem State.nocEnter_of_reaches {s : State} {p : NocPacket} {opc : Nat} (hopc : opc ∈ requestOpcs) (h : nocReaches s p opc) :
    s.nocEnter p opc = (nocPassed s p).atTarget p := by
  obtain ⟨⟨rfl, hclear, hport⟩, hopen⟩ := h
  rw [State.nocEnter_of_clear hclear, State.ejected_request hopc]
  unfold State.request
  dsimp only
  rw [if_neg (not_not.mpr hport), hopen]
  rfl

section
variable {s : State} {p : NocPacket}

theorem State.atTarget_bulkRd (h : nocOpc p.word0 = opcBulkRd) : s.atTarget p = s.bulkRead p := by
  unfold State.atTarget
  rw [h]
  rfl

theorem State.atTarget_bulkWr (h : nocOpc p.word0 = opcBulkWr) : s.atTarget p = s.bulkWrite p := by
  unfold State.atTarget
  rw [h]
  rfl

theorem State.atTarget_regRd (h : nocOpc p.word0 = opcRegRd) :
    s.atTarget p = s.atReg p (fun s reg i => s.respond p.word0 opcRdData 1 0 (leBytes 8 (s.regValue reg i))) := by
  unfold State.atTarget
  rw [h]
  rfl

theorem State.atTarget_regWr (h : nocOpc p.word0 = opcRegWr) :
    s.atTarget p = s.atReg p (fun s reg i => (s.writeReg reg i (fieldAt p.data 0 8)).nocAcked p.word0) := by
  unfold State.atTarget
  rw [h]
  rfl

theorem State.atTarget_ctl (h : nocOpc p.word0 = opcCtl) : s.atTarget p = s.respond p.word0 opcAck 0 0 [] := by
  unfold State.atTarget
  rw [h]
  rfl

end

/-- RD, WR, SETW and CLRW go to memory. -/
theorem State.atTarget_access {s : State} {p : NocPacket} (h : nocOpc p.word0 ∈ [opcRd, opcWr, opcSetw, opcClrw]) :
    s.atTarget p = s.access p (fun s => s.atPort p) := by
  have hne : ∀ o ∈ [opcRd, opcWr, opcSetw, opcClrw], o ≠ opcBulkRd ∧ o ≠ opcBulkWr ∧ o ≠ opcRegRd ∧ o ≠ opcRegWr ∧ o ≠ opcCtl := by
    decide
  obtain ⟨h1, h2, h3, h4, h5⟩ := hne _ h
  exact (if_neg h1).trans ((if_neg h2).trans ((if_neg h3).trans ((if_neg h4).trans (if_neg h5))))

/-- A service access that nothing stands against takes effect. -/
theorem State.service_of_good {s : State} {p : NocPacket} {n : Nat} {write joins : Bool} (h : serviceGood s p n write joins)
    (act : State → State) : s.service p n write joins act = act s := by
  obtain ⟨herr, hhome, heven, hpad⟩ := h
  unfold State.service
  dsimp only
  rw [herr, if_neg (by decide), if_neg (not_not.mpr rfl), if_neg]
  rintro (hh | ho | ⟨hp, hlen⟩)
  · exact hh hhome
  · exact ho heven
  · obtain ⟨x, hx⟩ := Option.isSome_iff_exists.mp hp
    exact absurd (hpad x hx).1 (Nat.not_le.mpr hlen)

/-- A permitted access is performed where HBM, or the free port of its scratchpad, takes it. -/
theorem State.atPort_of_good {s : State} {p : NocPacket} {n : Nat} {write joins : Bool} (h : serviceGood s p n write joins) :
    s.atPort p = (portTaken s p).perform p := by
  obtain ⟨-, -, -, hpad⟩ := h
  unfold State.atPort portTaken
  cases hx : padPlace (nocAddr p) with
  | none => rfl
  | some x => exact if_pos (hpad x hx).2

/-- RD, WR, SETW and CLRW that nothing stands against are performed. -/
theorem State.nocEnter_performs {s : State} {p : NocPacket} {opc : Nat} (hopc : opc ∈ [opcRd, opcWr, opcSetw, opcClrw])
    (hkind : nocKind opc = 0 ∨ (padPlace (nocAddr p)).isSome = true) (h : nocReaches s p opc)
    (hgood : serviceGood (nocPassed s p) p (nocSize p) (opc != opcRd) (nocJoins opc (nocAddr p))) :
    s.nocEnter p opc = (portTaken (nocPassed s p) p).perform p := by
  have hreq : ∀ o ∈ [opcRd, opcWr, opcSetw, opcClrw], o ∈ requestOpcs := by decide
  rw [State.nocEnter_of_reaches (hreq opc hopc) h]
  obtain ⟨⟨rfl, -, -⟩, -⟩ := h
  rw [State.atTarget_access hopc]
  unfold State.access
  dsimp only
  rw [if_neg, State.service_of_good hgood, State.atPort_of_good hgood]
  rintro ⟨hk, hnone, -⟩
  obtain hk0 | hsome := hkind
  · exact hk hk0
  · rw [Option.isNone_iff_eq_none.mp hnone] at hsome
    exact Bool.false_ne_true hsome

/-- A register packet acts where the device has a register at its address. -/
theorem State.atReg_eq (s : State) (p : NocPacket) (act : State → Nat → Nat → State) :
    s.atReg p act = if regThere p = true then act s (nocReg p).1 (nocReg p).2 else s.respond p.word0 opcErr 0 errAddr [] := by
  unfold State.atReg regThere
  dsimp only
  cases regCount (nocReg p).1 with
  | none => exact (if_neg Bool.false_ne_true).symm
  | some n =>
    by_cases hi : (nocReg p).2 < n
    · exact (if_pos hi).trans (if_pos (decide_eq_true hi)).symm
    · exact (if_neg hi).trans (if_neg (fun h => hi (of_decide_eq_true h))).symm

/-- The ACK of a write to a scratchpad goes at once. -/
theorem State.ackWrite_pad (s : State) (w n : Nat) {a : Nat} (h : (padPlace a).isSome = true) : s.ackWrite w a n = s.respond w opcAck 0 0 [] :=
  if_pos (.inr h)

/-- A write that is performed: stored or joined, seen by the ring, and acknowledged. -/
theorem State.perform_write {p : NocPacket} {opc kind : Nat} (s : State) (h : nocOpc p.word0 = opc) (hne : opc ≠ opcRd) (hk : nocKind opc = kind) :
    s.perform p = ((s.serviceWrite (nocAddr p) kind (padTo (nocSize p) p.data)).wroteFor p (nocSize p)).ackWrite p.word0 (nocAddr p) (nocSize p) := by
  subst h hk
  exact if_neg hne

/-- A BULK_WR that nothing stands against is performed. -/
theorem State.bulkWrite_of_good {s : State} {p : NocPacket} (h : serviceGood s p (64 * nocLen p.word0) true false) :
    s.bulkWrite p = s.doWrite p 0 (64 * nocLen p.word0) := by
  unfold State.bulkWrite
  exact State.service_of_good h _

/-- Settles O46. -/
theorem serviceRequestsAct : Obligations.ServiceRequestsAct := by
  intro s p
  refine ⟨fun h hg => ?_, fun h hg => ?_, fun x hx => ?_, fun h _ hg => ?_, fun h hg => ?_, fun h => ?_, fun h => ?_, fun h => ?_⟩
  · refine congrArg Host.Outcome.next ((State.nocEnter_performs (by decide) (.inl (by decide)) h hg).trans ?_)
    exact if_pos h.1.1
  · refine congrArg Host.Outcome.next ((State.nocEnter_performs (by decide) (.inl (by decide)) h hg).trans ?_)
    exact State.perform_write _ h.1.1 (by decide) (by decide)
  · have hpad : (padPlace (nocAddr p)).isSome = true := by rw [hx]; rfl
    refine ⟨fun h hg => ?_, fun h hg => ?_⟩
    · refine congrArg Host.Outcome.next ((State.nocEnter_performs (by decide) (.inr hpad) h hg).trans ?_)
      rw [State.perform_write _ h.1.1 (by decide) (by decide : nocKind opcSetw = 1), State.ackWrite_pad _ _ _ hpad]
    · refine congrArg Host.Outcome.next ((State.nocEnter_performs (by decide) (.inr hpad) h hg).trans ?_)
      rw [State.perform_write _ h.1.1 (by decide) (by decide : nocKind opcClrw = 2), State.ackWrite_pad _ _ _ hpad]
  all_goals refine congrArg Host.Outcome.next ((State.nocEnter_of_reaches (by decide) h).trans ?_)
  · exact (State.atTarget_bulkWr h.1.1).trans (State.bulkWrite_of_good hg)
  · have hk : ((nocPassed s p).draw 6).1 < 64 := Nat.mod_lt _ (by decide)
    have htime : (nocPassed s p).time = s.time := (nocPassed_netOnly s p).time
    rw [State.atTarget_bulkRd h.1.1, ← htime]
    unfold State.bulkRead
    exact State.service_of_good (hg _ hk) _
  · exact (State.atTarget_regRd h.1.1).trans (State.atReg_eq _ p _)
  · exact (State.atTarget_regWr h.1.1).trans (State.atReg_eq _ p _)
  · exact State.atTarget_ctl h.1.1

end Sys2Proof.Machine
end

section
/-!
# Refusals, responses, time-outs and reconfigurations of the service network (R316–R333, R136)
-/

namespace Sys2Proof.Machine

open Sys2Proof

/-! ### Refusals -/

/-- The row of a request enters the mesh with the request's operation. -/
theorem exec_requestRow {s : State} {p : NocPacket} {opc : Nat} {c : Instr}
    (h : (opc, c) ∈ [(opcRd, Instr.nocRd p), (opcWr, .nocWr p), (opcSetw, .setw p), (opcClrw, .clrw p), (opcRegRd, .regRd p),
      (opcRegWr, .regWr p), (opcCtl, .ctl p), (opcBulkRd, .bulkRd p), (opcBulkWr, .bulkWr p)]) :
    exec c s = .next (s.nocEnter p opc) ∧ opc ∈ requestOpcs := by
  simp only [List.mem_cons, Prod.mk.injEq, List.not_mem_nil, or_false] at h
  obtain ⟨rfl, rfl⟩ | ⟨rfl, rfl⟩ | ⟨rfl, rfl⟩ | ⟨rfl, rfl⟩ | ⟨rfl, rfl⟩ | ⟨rfl, rfl⟩ | ⟨rfl, rfl⟩ | ⟨rfl, rfl⟩ | ⟨rfl, rfl⟩ := h <;>
    exact ⟨rfl, by decide⟩

theorem State.logDecision_eq (s : State) (kind : String) (unit value : Nat) :
    ∃ d t, s.logDecision kind unit value = { s with dev := d, trace := t } :=
  ⟨_, _, State.traceEvent_traceOnly _ 6⟩

/-- A discarded packet is counted at its router, and memory, the pastures and the output stay. -/
theorem State.parityDiscard_spec (s : State) (p : NocPacket) (opc : Nat) :
    ∃ n d t, s.parityDiscard p opc = { s with noc := n, dev := d, trace := t } ∧
      n.routers = tmod s.noc.routers Router.init (nocSrc opc p.word0) (fun x => { x with
        parErrs := satTo 16 (x.parErrs + 1), parNet := nocNet opc, parVc := nocVc p.word0, parIn := inputCode (nocSrcPort p.word0) }) := by
  obtain ⟨d, t, h⟩ := (s.modRouter (nocSrc opc p.word0) (fun x => { x with
    parErrs := satTo 16 (x.parErrs + 1), parNet := nocNet opc, parVc := nocVc p.word0
    parIn := inputCode (nocSrcPort p.word0) })).logDecision_eq "header parity" (nocSrc opc p.word0) p.word0
  unfold State.parityDiscard
  dsimp only
  rw [h]
  have hlog (u : State) : ∃ d t, (if hasWord1 opc = true then u.logDecision "header parity, word 1" (nocSrc opc p.word0) p.word1 else u) =
      { u with dev := d, trace := t } := by
    split
    · exact u.logDecision_eq _ _ _
    · exact ⟨u.dev, u.trace, rfl⟩
  obtain ⟨d', t', h'⟩ := hlog { s.modRouter (nocSrc opc p.word0) (fun x => { x with
    parErrs := satTo 16 (x.parErrs + 1), parNet := nocNet opc, parVc := nocVc p.word0
    parIn := inputCode (nocSrcPort p.word0) }) with dev := d, trace := t }
  rw [h']
  split
  · exact ⟨_, _, _, rfl, rfl⟩
  · exact ⟨_, _, _, rfl, rfl⟩

theorem State.NetOnly.keeps {s t : State} (h : s.NetOnly t) :
    t.hbm = s.hbm ∧ t.pairs = s.pairs ∧ t.pastures = s.pastures ∧ t.out = s.out := by
  rw [h]
  exact ⟨rfl, rfl, rfl, rfl⟩

/-- A request that is ejected at a port of its router is judged by the port's state. -/
theorem State.nocEnter_of_arrives {s : State} {p : NocPacket} {opc : Nat} (hopc : opc ∈ requestOpcs) (h : nocArrives s p opc) :
    s.nocEnter p opc = (nocPassed s p).request p := by
  obtain ⟨rfl, hclear, -⟩ := h
  rw [State.nocEnter_of_clear hclear, State.ejected_request hopc]

section
variable {s : State} {p : NocPacket} (hport : hasPort (nocDst p.word0) (nocDstPort p.word0) = true)
include hport

theorem State.request_closing (h : s.nocPort p = 1) : s.request p = s.respond p.word0 opcErr 0 errClosing [] := by
  unfold State.request
  dsimp only
  rw [if_neg (not_not.mpr hport), h]
  rfl

theorem State.request_off (h : s.nocPort p = 2) : s.request p = (s.proxied p.word0).respond p.word0 opcErr 0 errOff [] := by
  unfold State.request
  dsimp only
  rw [if_neg (not_not.mpr hport), h]
  rfl

theorem State.request_disabled (h : s.nocPort p = 3) : s.request p = (s.proxied p.word0).respond p.word0 opcErr 0 errDisabled [] := by
  unfold State.request
  dsimp only
  rw [if_neg (not_not.mpr hport), h]
  rfl

end

/-- RD and WR at their target are judged as service accesses. -/
theorem State.atTarget_service {s : State} {p : NocPacket} {opc : Nat} (h : opc ∈ [opcRd, opcWr]) (hopc : nocOpc p.word0 = opc) :
    s.atTarget p = s.service p (nocSize p) (opc != opcRd) (nocJoins opc (nocAddr p)) (fun s => s.atPort p) := by
  subst hopc
  have hmem : ∀ o ∈ [opcRd, opcWr], o ∈ [opcRd, opcWr, opcSetw, opcClrw] := by decide
  have hkind : ∀ o ∈ [opcRd, opcWr], nocKind o = 0 := by decide
  rw [State.atTarget_access (hmem _ h)]
  exact if_neg (fun hk => hk.1 (hkind _ h))

/-- Settles O48. -/
theorem serviceRequestsRefused : Obligations.ServiceRequestsRefused := by
  intro s p opc c hmem hopc
  obtain ⟨hrow, hreq⟩ := exec_requestRow (s := s) hmem
  refine ⟨fun hpar hmoves => ?_, fun hclear hport => ?_, fun harr => ⟨fun h => ?_, fun h => ?_, fun h => ?_⟩, fun hreach hrw => ?_⟩
  · obtain ⟨u, hu, hent⟩ := State.nocEnter_of_parity hpar hmoves
    have hnet : s.NetOnly u ∧ u.noc.routers = s.noc.routers := by
      obtain rfl | rfl := hu
      · exact ⟨.refl u, rfl⟩
      · obtain ⟨l, hl⟩ := s.openTxn_eq p
        exact ⟨s.openTxn_netOnly p, by rw [hl]; rfl⟩
    rw [hopc] at hent
    obtain ⟨n, d, t, hdisc, hrouters⟩ := State.parityDiscard_spec (u.modRegulator (4 * injectionPoint opc p.word0 + nocNet opc)
      (fun g => g.take (1 + nocLen p.word0) 0)) p opc
    refine ⟨_, hrow, ?_⟩
    rw [hent, hdisc]
    have hr : tget n.routers Router.init (nocSrc opc p.word0) = { s.router (nocSrc opc p.word0) with
        parErrs := satTo 16 ((s.router (nocSrc opc p.word0)).parErrs + 1), parNet := nocNet opc, parVc := nocVc p.word0
        parIn := inputCode (nocSrcPort p.word0) } := by
      rw [hrouters, tget_tmod, if_pos rfl]
      unfold State.router
      rw [← hnet.2]
      rfl
    refine ⟨congrArg Router.parErrs hr, congrArg Router.parNet hr, congrArg Router.parVc hr, congrArg Router.parIn hr, ?_⟩
    exact hnet.1.keeps
  · subst hopc
    rw [hrow, State.nocEnter_of_clear hclear, State.ejected_request hreq]
    exact congrArg Host.Outcome.next (if_pos (by rw [hport]; exact Bool.false_ne_true))
  · rw [hrow, State.nocEnter_of_arrives hreq harr, State.request_closing harr.2.2 h]
  · rw [hrow, State.nocEnter_of_arrives hreq harr, State.request_off harr.2.2 h]
  · rw [hrow, State.nocEnter_of_arrives hreq harr, State.request_disabled harr.2.2 h]
  · rw [hrow, State.nocEnter_of_reaches hreq hreach, State.atTarget_service hrw hopc]
    refine ⟨fun he => ?_, fun he => ?_, fun he hh => ?_⟩ <;> refine congrArg Host.Outcome.next ?_ <;> unfold State.service <;> dsimp only
    · rw [he, if_pos rfl]
      rfl
    · rw [he, if_neg (by decide), if_pos (by decide)]
      rfl
    · rw [he, if_neg (by decide), if_neg (by decide), if_pos (.inl (by rw [hh]; exact Bool.false_ne_true))]
      rfl

end Sys2Proof.Machine
end

section
/-!
# Responses, invalidations, time-outs and reconfigurations of the service network (R319, R323, R326–R328, R331, R333)
-/

namespace Sys2Proof.Machine

open Sys2Proof

/-! ### Packets that open no transaction -/

/-- The transactions and the waiting invalidations. -/
def State.awaits (s : State) : List Txn × List InvWait := (s.noc.txns, s.noc.invWait)

theorem State.TraceOnly.awaits {s t : State} (h : s.TraceOnly t) : t.awaits = s.awaits := by
  rw [h]
  rfl

theorem State.probeSee_awaits (s : State) (p : NocPacket) : (s.probeSee p).awaits = s.awaits := by
  have hfold (g : State → Nat → State) (hg : ∀ u i, (g u i).awaits = u.awaits) (l : List Nat) (u : State) :
      (l.foldl g u).awaits = u.awaits := by
    induction l generalizing u with
    | nil => rfl
    | cons i l ih => exact (ih _).trans (hg u i)
  unfold State.probeSee
  dsimp only
  split
  · rfl
  · refine hfold _ (fun u i => ?_) _ s
    split
    · exact (State.traceEvent_traceOnly _ 4).awaits
    · rfl

theorem State.datSee_awaits (s : State) (p : NocPacket) : (s.datSee p).awaits = s.awaits := by
  have hslot (n : Noc) (init : Nat) : ((n.slotFor init).2.txns, (n.slotFor init).2.invWait) = (n.txns, n.invWait) := by
    unfold Noc.slotFor
    split
    · rfl
    · split <;> rfl
  exact hslot s.noc (nocInit p.word0)

/-- A packet that is no request leaves the transactions and the waiting invalidations as they are on its way. -/
theorem nocPassed_awaits {s : State} {p : NocPacket} (h : isRequest (nocOpc p.word0) = false) : (nocPassed s p).awaits = s.awaits := by
  unfold nocPassed
  dsimp only
  have hnot : ¬ isRequest (nocOpc p.word0) = true := by rw [h]; exact Bool.false_ne_true
  rw [if_neg hnot]
  split
  · rw [State.datSee_awaits, State.probeSee_awaits]
    rfl
  · rw [State.probeSee_awaits]
    rfl

theorem nocPassed_txns {s : State} {p : NocPacket} (h : isRequest (nocOpc p.word0) = false) : (nocPassed s p).noc.txns = s.noc.txns :=
  congrArg Prod.fst (nocPassed_awaits h)
theorem nocPassed_invWait {s : State} {p : NocPacket} (h : isRequest (nocOpc p.word0) = false) : (nocPassed s p).noc.invWait = s.noc.invWait :=
  congrArg Prod.snd (nocPassed_awaits h)

/-- The row of a response enters the mesh with the response's operation, which neither asks nor snoops. -/
theorem exec_responseRow {s : State} {p : NocPacket} {opc : Nat} {c : Instr}
    (h : (opc, c) ∈ [(opcAck, Instr.nocAck p), (opcRdData, .rdData p), (opcErr, .err p), (opcBulkData, .bulkData p)]) :
    exec c s = .next (s.nocEnter p opc) ∧ isRequest opc = false ∧ opc ≠ opcInv ∧ opc ≠ opcSnpAck := by
  simp only [List.mem_cons, Prod.mk.injEq, List.not_mem_nil, or_false] at h
  obtain ⟨rfl, rfl⟩ | ⟨rfl, rfl⟩ | ⟨rfl, rfl⟩ | ⟨rfl, rfl⟩ := h <;> exact ⟨rfl, by decide⟩

/-- A response that is ejected at a port that is not closed off ends its transaction; elsewhere the proxy consumes it. -/
theorem State.nocEnter_response {s : State} {p : NocPacket} {opc : Nat} (h : nocArrives s p opc) (hreq : isRequest opc = false)
    (hinv : opc ≠ opcInv) (hsnp : opc ≠ opcSnpAck) :
    s.nocEnter p opc = if (nocPassed s p).nocPort p < 2 then (nocPassed s p).closeTxn p.word0 else nocPassed s p := by
  obtain ⟨rfl, hclear, hport⟩ := h
  rw [State.nocEnter_of_clear hclear]
  unfold State.ejected
  dsimp only
  rw [if_neg (by rw [hreq]; exact Bool.false_ne_true), if_neg hinv, if_neg hsnp]
  unfold State.response
  simp only [hport, true_and]

theorem State.modNoc_congr {s : State} {f g : Noc → Noc} (h : f s.noc = g s.noc) : s.modNoc f = s.modNoc g :=
  congrArg (fun n => { s with noc := n }) h

/-- The last SNP_ACK that a write waits for lets its ACK go. -/
theorem State.snpAcked_last {s : State} {p : NocPacket} {e : InvWait} (hport : s.nocPort p < 2) (hw : s.noc.invWait = [e])
    (hctl : e.ctl = nocInit p.word0) (htag : e.tag = nocTxn p.word0) :
    s.snpAcked p = (s.modNoc (fun n => { n with invWait := [] })).respond e.word0 opcAck 0 0 [] := by
  have hfind : s.noc.invWait.find? (fun e => e.ctl == nocInit p.word0 && e.tag == nocTxn p.word0) = some e := by
    rw [hw]
    exact List.find?_cons_of_pos (by simp [hctl, htag])
  unfold State.snpAcked
  rw [if_neg (Nat.not_le.mpr hport), hfind]
  have herase : s.modNoc (fun n => { n with invWait := n.invWait.erase e }) = s.modNoc (fun n => { n with invWait := [] }) :=
    State.modNoc_congr (by rw [hw, List.erase_cons_head])
  dsimp only
  rw [herase]
  rfl

/-! ### A transaction that is sent again -/

/-- A field of a word, from the parts below it and above it. -/
theorem bitsOf_mid {x lo w below v above : Nat} (hx : x = below + 2 ^ lo * (v + 2 ^ w * above)) (hb : below < 2 ^ lo) (hv : v < 2 ^ w) :
    bitsOf x lo w = v := by
  rw [bitsOf_eq, hx, Nat.add_mul_div_left _ _ (Nat.two_pow_pos lo), Nat.div_eq_of_lt hb, Nat.zero_add, Nat.add_mul_mod_self_left,
    Nat.mod_eq_of_lt hv]

theorem packFields_cons (o w v : Nat) (l : List (Nat × Nat × Nat)) : packFields ((o, w, v) :: l) = v % 2 ^ w * 2 ^ o + packFields l := by
  unfold packFields
  rw [List.foldl_cons, Nat.zero_add]
  generalize v % 2 ^ w * 2 ^ o = a
  induction l generalizing a with
  | nil => rfl
  | cons f l ih =>
    rw [List.foldl_cons, List.foldl_cons, ih, ih (0 + _)]
    omega

theorem nocWord0_eq (dstX dstY dstPort srcX srcY srcPort init opc vc txn len pasture word1 : Nat) (pv : Bool) :
    ∃ a b, nocWord0 dstX dstY dstPort srcX srcY srcPort init opc vc txn len pasture pv word1 =
      packFields [(0, 4, dstX), (4, 4, dstY), (8, 2, dstPort), (10, 4, srcX), (14, 4, srcY), (18, 2, srcPort),
        (20, 8, init), (28, 6, opc), (34, 2, vc), (36, 12, txn), (48, 7, len), (55, 4, pasture), (59, 1, b2n pv), (60, 1, a)] + 2 ^ 63 * b :=
  ⟨_, _, rfl⟩

/-- The initiator's TXN and the operation stand in the header that is built from them. -/
theorem nocWord0_txn_opc (dstX dstY dstPort srcX srcY srcPort init opc vc txn len pasture word1 : Nat) (pv : Bool) :
    nocTxn (nocWord0 dstX dstY dstPort srcX srcY srcPort init opc vc txn len pasture pv word1) = txn % 4096 ∧
    nocOpc (nocWord0 dstX dstY dstPort srcX srcY srcPort init opc vc txn len pasture pv word1) = opc % 64 := by
  obtain ⟨a, b, h⟩ := nocWord0_eq dstX dstY dstPort srcX srcY srcPort init opc vc txn len pasture word1 pv
  rw [h]
  simp only [packFields_cons, show packFields [] = 0 from rfl, Nat.reducePow]
  have hlow : dstX % 16 + dstY % 16 * 16 + dstPort % 4 * 256 + srcX % 16 * 1024 + srcY % 16 * 16384 + srcPort % 4 * 262144 +
      init % 256 * 1048576 < 2 ^ 28 := by omega
  have hmid : dstX % 16 + dstY % 16 * 16 + dstPort % 4 * 256 + srcX % 16 * 1024 + srcY % 16 * 16384 + srcPort % 4 * 262144 +
      init % 256 * 1048576 + opc % 64 * 2 ^ 28 + vc % 4 * 2 ^ 34 < 2 ^ 36 := by omega
  exact ⟨bitsOf_mid (above := len % 128 + 2 ^ 7 * (pasture % 16) + 2 ^ 11 * (b2n pv % 2) + 2 ^ 12 * (a % 2) + 2 ^ 15 * b) (by ring) hmid
      (Nat.mod_lt _ (by decide)),
    bitsOf_mid (above := vc % 4 + 2 ^ 2 * (txn % 4096) + 2 ^ 14 * (len % 128) + 2 ^ 21 * (pasture % 16) + 2 ^ 25 * (b2n pv % 2) +
      2 ^ 26 * (a % 2) + 2 ^ 29 * b) (by ring) hlow (Nat.mod_lt _ (by decide))⟩

/-- A transaction that is issued again: under the free TXN, with the operation and the data that it had unless it was a register write. -/
theorem State.reissue_spec (s : State) (t : Txn) : ∃ w o data,
    s.reissue t = ((s.draw 12).2.modNoc (fun n => { n with txns := n.txns ++ [{ t with
      txn := (s.draw 12).1, opc := o, word0 := w, data := data, tries := t.tries + 1, answered := false }] })).send (.noc w t.word1 data) ∧
    nocTxn w = (s.draw 12).1 ∧ nocOpc w = o % 64 ∧ (t.opc ≠ opcRegWr → o = t.opc ∧ data = t.data) := by
  have hlt : (s.draw 12).1 < 4096 := Nat.mod_lt _ (by decide)
  refine ⟨_, _, _, rfl, (nocWord0_txn_opc ..).1.trans (Nat.mod_eq_of_lt hlt), (nocWord0_txn_opc ..).2, fun hne => ?_⟩
  have hopc : (t.opc == opcRegWr) = false := beq_eq_false_iff_ne.mpr hne
  simp only [hopc, Bool.false_and, Bool.false_eq_true, if_false, and_self]

/-- The first hold of a die begins at once, and lasts a free time within its bound. -/
theorem State.holdRouter_first {s : State} {r : Nat} (nets : Nat) (h : s.noc.holds.all (fun h => routerDie h.router != routerDie r) = true) :
    s.holdRouter r nets = ((s.draw 10).2.modNoc (fun n => { n with
      holds := n.holds ++ [{ router := r, nets := nets, left := 1 + (s.draw 10).1 % 1000 }] })).holdBegins r := if_pos h

theorem State.holdOf_append {s : State} {h : NocHold} (hall : s.noc.holds.all (fun x => routerDie x.router != routerDie h.router) = true) :
    (s.modNoc (fun n => { n with holds := n.holds ++ [h] })).holdOf h.router = some h := by
  have hnone : s.noc.holds.find? (fun x => routerDie x.router == routerDie h.router) = none :=
    List.find?_eq_none.mpr fun x hx => by simpa using List.all_eq_true.mp hall x hx
  have hfind : (s.noc.holds ++ [h]).find? (fun x => routerDie x.router == routerDie h.router) = some h := by
    rw [List.find?_append, hnone]
    simp
  unfold State.holdOf
  simp [hfind]

/-- Settles O49. -/
theorem serviceResponsesAndTimeouts : Obligations.ServiceResponsesAndTimeouts := by
  refine ⟨fun s p opc c => ⟨fun hmem harr => ?_, fun harr => ?_, fun e harr hport hw hctl htag => ?_⟩,
    fun s init txn a net rate burst nets weights => ⟨fun t hfind hhold hrec => ?_, fun ha hup hnets hholds => ?_, fun ha hn h1 h2 h3 h4 hup => ?_⟩⟩
  · obtain ⟨hrow, hreq, hinv, hsnp⟩ := exec_responseRow (s := s) hmem
    have htx : (nocPassed s p).noc.txns = s.noc.txns := nocPassed_txns (by rw [harr.1]; exact hreq)
    rw [hrow, State.nocEnter_response harr hreq hinv hsnp, ← htx]
    refine ⟨fun h => congrArg Host.Outcome.next (if_neg (Nat.not_lt.mpr h)), fun h hany => ?_, fun h hany => ?_⟩
    · refine congrArg Host.Outcome.next ((if_pos h).trans ?_)
      unfold State.closeTxn
      exact if_pos hany
    · refine congrArg Host.Outcome.next ((if_pos h).trans ?_)
      unfold State.closeTxn
      exact if_neg (by rw [hany]; exact Bool.false_ne_true)
  · have hinv : s.nocEnter p opcInv = (nocPassed s p).invalidate p := by
      rw [← harr.1, State.nocEnter_of_clear harr.2.1]
      unfold State.ejected
      rw [harr.1]
      rfl
    refine ⟨fun h => congrArg Host.Outcome.next (hinv.trans ?_), fun h => congrArg Host.Outcome.next (hinv.trans ?_)⟩
    · unfold State.invalidate
      dsimp only
      rw [if_neg (Nat.not_le.mpr h), bitsOf_eq, Nat.pow_zero, Nat.div_one]
    · unfold State.invalidate
      dsimp only
      rw [if_pos h]
  · refine congrArg Host.Outcome.next ?_
    rw [← harr.1, State.nocEnter_of_clear harr.2.1]
    unfold State.ejected
    rw [harr.1]
    exact State.snpAcked_last hport ((nocPassed_invWait (by rw [harr.1]; rfl)).trans hw) hctl htag
  · have hlive : ¬ (s.dev.mode = .hold ∨ s.dev.mode = .recover) := not_or.mpr ⟨hhold, hrec⟩
    have hrow : exec (.serviceTimeout init txn) s = .next (
        if (nocClass t.init).getD t.vc = 0 then (s.modNoc (fun n => { n with txns := n.txns.erase t })).controlFault t.pasture 0x060B none
        else if 2 ≤ t.tries then (if t.pv then (s.modNoc (fun n => { n with txns := n.txns.erase t })).controlFault t.pasture 0x060B none
          else (s.modNoc (fun n => { n with txns := n.txns.erase t })).expireCommand t.init)
        else (s.modNoc (fun n => { n with txns := n.txns.erase t })).reissue t) := by
      change Host.Outcome.next _ = _
      rw [hfind]
      exact congrArg Host.Outcome.next (if_neg hlive)
    rw [hrow]
    refine ⟨fun h => congrArg Host.Outcome.next ?_, fun hcls htries hpv => congrArg Host.Outcome.next ?_, fun hcls htries => ?_⟩
    · obtain h0 | ⟨htries, hpv⟩ := h
      · exact if_pos h0
      · rw [if_pos htries, if_pos hpv, ite_self]
    · exact (if_neg hcls).trans ((if_pos htries).trans (if_neg (by rw [hpv]; exact Bool.false_ne_true)))
    · obtain ⟨w, o, data, hre, htxn, hopc, hsame⟩ := (s.modNoc (fun n => { n with txns := n.txns.erase t })).reissue_spec t
      refine ⟨_, w, congrArg Host.Outcome.next ((if_neg hcls).trans ((if_neg (Nat.not_le.mpr htries)).trans hre)), htxn, rfl, rfl, fun hne => ?_⟩
      obtain ⟨rfl, rfl⟩ := hsame hne
      exact ⟨hopc, rfl, rfl⟩
  · have hrow := State.holdRouter_first nets hholds
    refine ⟨_, { router := a, nets := nets, left := 1 + (s.draw 10).1 % 1000 }, congrArg Host.Outcome.next (if_pos ⟨ha, hnets, hup, hholds⟩),
      ?_, ?_, ?_, rfl, Nat.le_add_right .., ?_, ?_, ?_⟩
    · rw [State.router_modRouter, if_pos rfl]
    · rw [State.router_modRouter, if_pos rfl, hrow]
      unfold State.holdBegins
      rw [State.router_modRouter, if_pos rfl]
      rfl
    · rw [hrow]
      exact State.holdOf_append (s := (s.draw 10).2) (h := { router := a, nets := nets, left := 1 + (s.draw 10).1 % 1000 }) hholds
    · have := Nat.mod_lt (s.draw 10).1 (show 0 < 1000 by decide)
      dsimp only
      omega
    · rw [hrow]
      rfl
    · rw [hrow]
      rfl
  · exact congrArg Host.Outcome.next ((if_pos ⟨ha, hn, hup⟩).trans (if_pos ⟨h1, h2, h3, h4⟩))

end Sys2Proof.Machine
end

section
/-!
# What accesses of the service network leave unchanged (R134, R316–R337)
-/

namespace Sys2Proof.Machine

open Sys2Proof

/-! ### Operations that stay within the network -/

/-- A state differs from another in its network, its device log, its output, its trace, the masters' status and the free choices alone. -/
def State.NetSide (s t : State) : Prop :=
  t = { s with noc := t.noc, dev := t.dev, out := t.out, trace := t.trace, mstatus := t.mstatus, freeCount := t.freeCount }

section
variable {s t u : State}

theorem State.NetSide.refl (s : State) : s.NetSide s := rfl
theorem State.NetSide.trans (h : s.NetSide t) (k : t.NetSide u) : s.NetSide u :=
  Eq.trans k (congrArg (fun x : State => { x with
    noc := u.noc, dev := u.dev, out := u.out, trace := u.trace, mstatus := u.mstatus, freeCount := u.freeCount }) h)
theorem State.NetOnly.netSide (h : s.NetOnly t) : s.NetSide t := by
  unfold State.NetSide
  rw [h]
theorem State.TraceOnly.netSide (h : s.TraceOnly t) : s.NetSide t := h.netOnly.netSide

end

section
variable (s : State)

theorem State.modNoc_netSide (f : Noc → Noc) : s.NetSide (s.modNoc f) := rfl
theorem State.respond_netSide (w opc len word1 : Nat) (data : List Byte) : s.NetSide (s.respond w opc len word1 data) := rfl
theorem State.proxied_netSide (w : Nat) : s.NetSide (s.proxied w) := rfl
theorem State.sendInv_netSide (w h l : Nat) : s.NetSide (s.sendInv w h l) := rfl

theorem State.logDecision_netSide (kind : String) (unit value : Nat) : s.NetSide (s.logDecision kind unit value) := by
  obtain ⟨d, t, h⟩ := s.logDecision_eq kind unit value
  rw [h]
  rfl

theorem foldl_netSide {α : Type} {g : State → α → State} (h : ∀ (s : State) x, s.NetSide (g s x)) (l : List α) (s : State) :
    s.NetSide (l.foldl g s) := by
  induction l generalizing s with
  | nil => exact .refl s
  | cons a l ih => exact (h s a).trans (ih _)

theorem State.drawBytes_netSide (n : Nat) : s.NetSide (s.drawBytes n).2 := by
  induction n generalizing s with
  | zero => exact .refl s
  | succ n ih => exact State.NetSide.trans (t := (s.draw 8).2) rfl (ih _)

theorem State.closeTxn_netSide (w : Nat) : s.NetSide (s.closeTxn w) := by
  unfold State.closeTxn
  dsimp only
  split
  · exact s.modNoc_netSide _
  · exact (s.modNoc_netSide _).trans (State.logDecision_netSide _ _ _ _)

theorem State.cacheRead_netSide (w a n : Nat) : s.NetSide (s.cacheRead w a n) := by
  unfold State.cacheRead
  split
  · exact s.modNoc_netSide _
  · exact .refl s

theorem State.ackWrite_netSide (w a n : Nat) : s.NetSide (s.ackWrite w a n) := by
  unfold State.ackWrite
  dsimp only
  split
  · exact s.respond_netSide _ _ _ _ _
  · exact foldl_netSide (fun u l => u.sendInv_netSide _ _ l) _ s

theorem State.denied_netSide (w : Nat) (write : Bool) : s.NetSide (s.denied w write) := by
  unfold State.denied
  split
  · rfl
  · exact .refl s

theorem State.parityDiscard_netSide (p : NocPacket) (opc : Nat) : s.NetSide (s.parityDiscard p opc) := by
  obtain ⟨n, d, t, h, -⟩ := s.parityDiscard_spec p opc
  rw [h]
  rfl

theorem State.serviceRead_netSide (a n : Nat) : s.NetSide (s.serviceRead a n).2 := by
  unfold State.serviceRead
  split
  · exact .refl s
  · dsimp only
    split
    · exact s.drawBytes_netSide n
    · exact .refl s

theorem State.invalidate_netSide (p : NocPacket) : s.NetSide (s.invalidate p) := by
  unfold State.invalidate
  dsimp only
  split
  · exact (s.proxied_netSide _).trans (State.respond_netSide _ _ _ _ _ _)
  · exact (s.modNoc_netSide _).trans (State.respond_netSide _ _ _ _ _ _)

theorem State.snpAcked_netSide (p : NocPacket) : s.NetSide (s.snpAcked p) := by
  unfold State.snpAcked
  split
  · exact .refl s
  · split
    · exact .refl s
    · dsimp only
      split
      · exact s.modNoc_netSide _
      · exact (s.modNoc_netSide _).trans (State.respond_netSide _ _ _ _ _ _)

theorem State.response_netSide (p : NocPacket) : s.NetSide (s.response p) := by
  unfold State.response
  split
  · exact s.closeTxn_netSide _
  · exact .refl s

end

/-! ### A packet's whole way -/

section
variable {R : State → State → Prop} (hnet : ∀ {s t : State}, s.NetSide t → R s t) (htrans : ∀ {s t u : State}, R s t → R t u → R s u)
  {p : NocPacket} {opc : Nat}
include hnet htrans

/-- A relation that the network's own operations keep holds over a packet's way where it holds over the packet's ejection. -/
theorem State.nocEnter_rel (hej : nocOpc p.word0 = opc → ∀ u : State, R u (u.ejected p)) (s : State) : R s (s.nocEnter p opc) := by
  unfold State.nocEnter
  dsimp only
  have hopen : s.NetSide (if isRequest opc = true ∧ nocOpc p.word0 = opc then s.openTxn p else s) := by
    split
    · exact (s.openTxn_netOnly p).netSide
    · exact .refl s
  split
  · exact hnet hopen
  next hrow =>
    refine htrans (hnet hopen) ?_
    generalize (if isRequest opc = true ∧ nocOpc p.word0 = opc then s.openTxn p else s) = u
    have hpass (v : State) (n : Nat) : R v (v.nocPass { pkt := p, opc := opc, left := n, counted := false }) := by
      unfold State.nocPass
      dsimp only
      split
      next hpar =>
        have hopc : nocOpc p.word0 = opc := by
          by_contra hne
          exact hrow ⟨hpar, .inl hne⟩
        refine htrans (hnet (v.probeSee_netOnly p).netSide) ?_
        split
        · exact htrans (hnet (State.datSee_netOnly _ p).netSide) (hej hopc _)
        · exact hej hopc _
      · exact hnet (v.parityDiscard_netSide p opc)
    have hite {v a b : State} {c : Prop} [Decidable c] (ha : R v a) (hb : R v b) : R v (if c then a else b) := by
      split <;> assumption
    unfold State.nocAttempt
    have hdelay (i : Nat) (f : Regulator → Regulator) (x : NocWait) : R u ((u.modRegulator i f).nocDelay x) := hnet rfl
    have hgo (i : Nat) (f : Regulator → Regulator) (n : Nat) :
        R u ((u.modRegulator i f).nocPass { pkt := p, opc := opc, left := n, counted := false }) :=
      htrans (hnet (u.modRegulator_netOnly i f).netSide) (hpass _ _)
    exact hite (hnet (u.modNoc_netSide _)) (hite (hdelay _ _ _) (hite (hdelay _ _ _) (hgo _ _ _)))

end

section
variable {R : State → State → Prop} (hnet : ∀ {s t : State}, s.NetSide t → R s t) {p : NocPacket}
include hnet

/-- A request is refused at its port, or acts at its target. -/
theorem State.request_rel {u : State} (htarget : R u (u.atTarget p)) : R u (u.request p) := by
  unfold State.request
  dsimp only
  split
  · exact hnet (u.respond_netSide _ _ _ _ _)
  · split
    · exact htarget
    · exact hnet (u.respond_netSide _ _ _ _ _)
    · exact hnet ((u.proxied_netSide _).trans (State.respond_netSide _ _ _ _ _ _))
    · exact hnet ((u.proxied_netSide _).trans (State.respond_netSide _ _ _ _ _ _))

/-- A service access is refused or takes effect. -/
theorem State.service_rel {u : State} {n : Nat} {write joins : Bool} {act : State → State} (hact : R u (act u)) :
    R u (u.service p n write joins act) := by
  unfold State.service
  dsimp only
  split
  · exact hnet ((u.denied_netSide _ _).trans (State.respond_netSide _ _ _ _ _ _))
  · split
    · exact hnet (u.respond_netSide _ _ _ _ _)
    · split
      · exact hnet (u.respond_netSide _ _ _ _ _)
      · exact hact

end

/-! ### Reads -/

/-- Memory, the folds, the host's side and the pastures are the same, and every scratchpad's words. -/
def State.SameMemory (s t : State) : Prop :=
  t.hbm = s.hbm ∧ t.folds = s.folds ∧ t.host = s.host ∧ t.pastures = s.pastures ∧ ∀ q k, (t.pair q).word k = (s.pair q).word k

theorem State.SameMemory.of_netSide {s t : State} (h : s.NetSide t) : s.SameMemory t := by
  unfold State.SameMemory State.pair
  rw [h]
  exact ⟨rfl, rfl, rfl, rfl, fun _ _ => rfl⟩

theorem State.SameMemory.trans {s t u : State} (h : s.SameMemory t) (k : t.SameMemory u) : s.SameMemory u := by
  obtain ⟨h1, h2, h3, h4, h5⟩ := h
  obtain ⟨k1, k2, k3, k4, k5⟩ := k
  exact ⟨k1.trans h1, k2.trans h2, k3.trans h3, k4.trans h4, fun q i => (k5 q i).trans (h5 q i)⟩

/-- The port that a service access takes keeps its scratchpad's words. -/
theorem State.padTake_word (s : State) (a b q k : Nat) : ((s.padTake a b).pair q).word k = (s.pair q).word k := by
  unfold State.padTake
  rw [State.pair_modPair]
  split
  next h => rw [h]; rfl
  · rfl

theorem State.padTake_sameMemory (s : State) (a b : Nat) : s.SameMemory (s.padTake a b) :=
  ⟨rfl, rfl, rfl, rfl, fun q k => s.padTake_word a b q k⟩

theorem State.doRead_netSide (s : State) (p : NocPacket) : s.NetSide (s.doRead p) :=
  ((s.cacheRead_netSide _ _ _).trans (State.serviceRead_netSide _ _ _)).trans (State.respond_netSide _ _ _ _ _ _)

/-- A read at its port is performed or waits. -/
theorem State.atPort_read {p : NocPacket} (s : State) (h : nocOpc p.word0 = opcRd) : s.SameMemory (s.atPort p) := by
  have hread (u : State) : u.SameMemory (u.perform p) := by
    unfold State.perform
    rw [if_pos h]
    exact .of_netSide (u.doRead_netSide p)
  unfold State.atPort
  split
  · exact hread s
  · split
    · exact (s.padTake_sameMemory _ _).trans (hread _)
    · exact .of_netSide (s.modNoc_netSide _)

theorem State.bulkRead_netSide (s : State) (p : NocPacket) : s.NetSide (s.bulkRead p) := by
  unfold State.bulkRead
  exact State.NetSide.trans (t := (s.draw 6).2) rfl (State.service_rel (fun h => h)
    (((State.cacheRead_netSide _ _ _ _).trans (State.serviceRead_netSide _ _ _)).trans (State.respond_netSide _ _ _ _ _ _)))

theorem State.atReg_rel {R : State → State → Prop} {p : NocPacket} {s : State} {act : State → Nat → Nat → State}
    (hact : ∀ r i, R s (act s r i)) (herr : R s (s.nocErr p.word0 errAddr)) : R s (s.atReg p act) := by
  rw [State.atReg_eq]
  split
  · exact hact _ _
  · exact herr

end Sys2Proof.Machine
end

section
/-!
# Reads and writes of the service network: which bytes and words change (R134, R139, Table 5-5)
-/

namespace Sys2Proof.Machine

open Sys2Proof

/-! ### Reads, responses and snoops change no memory -/

/-- The operations that only read, answer or snoop. -/
def readOpcs : List Nat := [opcRd, opcBulkRd, opcRegRd, opcCtl, opcAck, opcRdData, opcErr, opcBulkData, opcInv, opcSnpAck]

theorem State.atTarget_read {p : NocPacket} (u : State) (h : nocOpc p.word0 ∈ [opcRd, opcBulkRd, opcRegRd, opcCtl]) :
    u.SameMemory (u.atTarget p) := by
  simp only [List.mem_cons, List.not_mem_nil, or_false] at h
  obtain h | h | h | h := h
  · rw [State.atTarget_access (by rw [h]; decide)]
    unfold State.access
    dsimp only
    split
    · exact .of_netSide (u.respond_netSide _ _ _ _ _)
    · exact State.service_rel .of_netSide (u.atPort_read h)
  · rw [State.atTarget_bulkRd h]
    exact .of_netSide (u.bulkRead_netSide p)
  · rw [State.atTarget_regRd h]
    exact State.atReg_rel (fun r i => .of_netSide (u.respond_netSide _ _ _ _ _)) (.of_netSide (u.respond_netSide _ _ _ _ _))
  · rw [State.atTarget_ctl h]
    exact .of_netSide (u.respond_netSide _ _ _ _ _)

theorem State.ejected_read {p : NocPacket} (u : State) (h : nocOpc p.word0 ∈ readOpcs) : u.SameMemory (u.ejected p) := by
  have hreq : ∀ o ∈ readOpcs, isRequest o = true → o ∈ [opcRd, opcBulkRd, opcRegRd, opcCtl] := by decide
  unfold State.ejected
  dsimp only
  split
  · next hr => exact State.request_rel .of_netSide (u.atTarget_read (hreq _ h hr))
  · split
    · exact .of_netSide (u.invalidate_netSide p)
    · split
      · exact .of_netSide (u.snpAcked_netSide p)
      · exact .of_netSide (u.response_netSide p)

theorem State.nocEnter_read (s : State) (p : NocPacket) {opc : Nat} (h : opc ∈ readOpcs) : s.SameMemory (s.nocEnter p opc) :=
  State.nocEnter_rel .of_netSide .trans (fun ho u => u.ejected_read (ho.symm ▸ h)) s

/-- The row of a packet that only reads, answers or snoops. -/
theorem exec_readRow {s : State} {p : NocPacket} {c : Instr} (h : c ∈ [Instr.nocRd p, .bulkRd p, .regRd p, .ctl p, .nocAck p, .rdData p,
    .err p, .bulkData p, .inv p, .snpAck p]) : ∃ opc ∈ readOpcs, exec c s = .next (s.nocEnter p opc) := by
  simp only [List.mem_cons, List.not_mem_nil, or_false] at h
  obtain rfl | rfl | rfl | rfl | rfl | rfl | rfl | rfl | rfl | rfl := h <;> exact ⟨_, by decide, rfl⟩

/-! ### A register write changes no memory -/

/-- Memory, the folds, the host's side and the scratchpads are the same. -/
def State.SameStores (s t : State) : Prop := t.hbm = s.hbm ∧ t.folds = s.folds ∧ t.host = s.host ∧ t.pairs = s.pairs

theorem State.SameStores.of_netSide {s t : State} (h : s.NetSide t) : s.SameStores t := by
  unfold State.SameStores
  rw [h]
  exact ⟨rfl, rfl, rfl, rfl⟩

theorem State.SameStores.trans {s t u : State} (h : s.SameStores t) (k : t.SameStores u) : s.SameStores u := by
  obtain ⟨h1, h2, h3, h4⟩ := h
  obtain ⟨k1, k2, k3, k4⟩ := k
  exact ⟨k1.trans h1, k2.trans h2, k3.trans h3, k4.trans h4⟩

theorem State.holdRouter_netSide (s : State) (r nets : Nat) : s.NetSide (s.holdRouter r nets) := by
  unfold State.holdRouter
  dsimp only
  split <;> rfl

theorem State.setProbe_netSide (s : State) (i : Nat) (n : NocProbe) : s.NetSide (s.setProbe i n) := by
  have hite {v a b : State} {c : Prop} [Decidable c] (ha : v.NetSide a) (hb : v.NetSide b) : v.NetSide (if c then a else b) := by
    split <;> assumption
  unfold State.setProbe
  dsimp only
  refine State.NetSide.trans ?_ (State.modNoc_netSide _ _)
  exact (hite (s.holdRouter_netSide _ _) (.refl s)).trans (hite (State.holdRouter_netSide _ _ _) (.refl _))

theorem State.setRegulator_netSide (s : State) (i rate burst : Nat) : s.NetSide (s.setRegulator i rate burst) := by
  unfold State.setRegulator
  split
  · exact (s.modRegulator_netOnly _ _).netSide.trans (State.logDecision_netSide _ _ _ _)
  · exact .refl s

theorem State.writeReg_sameStores (s : State) (reg i v : Nat) : s.SameStores (s.writeReg reg i v) := by
  unfold State.writeReg
  split
  · exact ⟨rfl, rfl, rfl, rfl⟩
  · split <;> exact ⟨rfl, rfl, rfl, rfl⟩
  · exact ⟨rfl, rfl, rfl, rfl⟩
  · exact .of_netSide (s.setRegulator_netSide _ _ _)
  · exact .of_netSide (s.setProbe_netSide _ _)
  all_goals exact ⟨rfl, rfl, rfl, rfl⟩

theorem State.nocEnter_regWr (s : State) (p : NocPacket) : s.SameStores (s.nocEnter p opcRegWr) := by
  refine State.nocEnter_rel .of_netSide .trans (fun ho u => ?_) s
  rw [State.ejected_request (by rw [ho]; decide)]
  refine State.request_rel .of_netSide ?_
  rw [State.atTarget_regWr ho]
  exact State.atReg_rel (fun r i => (u.writeReg_sameStores r i _).trans (.of_netSide (State.respond_netSide _ _ _ _ _ _)))
    (.of_netSide (u.respond_netSide _ _ _ _ _))

/-! ### Writes -/

/-- What a write of a kind makes of a word: joined by OR (1), by AND NOT (2), or stored. -/
def joinKind (kind : Nat) (old d : BitVec 16) : BitVec 16 := if kind = 1 then old ||| d else if kind = 2 then old &&& ~~~d else d

theorem Pair.putBytes_eq (q : Pair) (x : PadPlace) (kind : Nat) (bs : List Byte) : q.putBytes x kind bs =
    (List.range (bs.length / 2)).foldl (fun q i => q.setWord (padKey x.pad (x.word + i)) (joinKind kind (q.word (padKey x.pad (x.word + i)))
      (BitVec.ofNat 16 (fieldAt bs (2 * i) 2)))) q := rfl

/-- A write to a scratchpad joins its data to the words it addresses and leaves every other word. -/
theorem Pair.putBytes_word (q : Pair) (x : PadPlace) (kind : Nat) (bs : List Byte) (key : Nat) :
    (q.putBytes x kind bs).word key =
      if padKey x.pad x.word ≤ key ∧ key < padKey x.pad x.word + bs.length / 2 then
        joinKind kind (q.word key) (BitVec.ofNat 16 (fieldAt bs (2 * (key - padKey x.pad x.word)) 2))
      else q.word key := by
  rw [Pair.putBytes_eq]
  simp only [padKey_add]
  generalize padKey x.pad x.word = base
  generalize bs.length / 2 = n
  induction n generalizing key with
  | zero => exact (if_neg (by omega)).symm
  | succ n ih =>
    rw [List.range_succ, List.foldl_append, List.foldl_cons, List.foldl_nil, Pair.word_setWord, ih, ih]
    by_cases hk : key = base + n
    · subst hk
      rw [if_pos rfl, if_neg (by omega), if_pos (by omega), Nat.add_sub_cancel_left]
    · rw [if_neg hk]
      exact if_congr (by omega) rfl rfl

theorem State.wroteFor_other {s : State} {p : NocPacket} (h : nocInit p.word0 ≠ 0x35) (n : Nat) : s.wroteFor p n = s := by
  unfold State.wroteFor
  rw [if_neg h]

/-- HBM outside the job tables takes the bytes as they are. -/
theorem State.hbmPut_plain {s : State} {a : Nat} {bs : List Byte} (hq : rangesMeet a bs.length jobQueues 0x100000 = false)
    (ht : rangesMeet a bs.length jobTasks 0x400000 = false) : s.hbmPut a bs = { s with hbm := memWrite s.hbm a bs } := by
  unfold State.hbmPut
  dsimp only
  rw [if_neg (by rw [hq]; exact Bool.false_ne_true), if_neg (by rw [ht]; exact Bool.false_ne_true)]

theorem padTo_getD {bs : List Byte} {n i : Nat} (h : i < n) : (padTo n bs).getD i 0 = bs.getD i 0 := by
  unfold padTo slice
  simp only [List.drop_zero, List.getD_eq_getElem?_getD]
  by_cases hi : i < bs.length
  · rw [List.getElem?_append_left (by simp; omega), List.getElem?_take_of_lt h]
  · rw [List.getElem?_append_right (by simp; omega), List.getElem?_eq_none (by omega : bs.length ≤ i)]
    simp only [List.getElem?_replicate]
    split <;> rfl

/-- The kind of a write to a scratchpad is that of its window, or of its operation. -/
theorem padKind_iff {opc win : Nat} : ((if win ≠ 0 then win else nocKind opc) = 1 ↔ win = 1 ∨ (win = 0 ∧ opc = opcSetw)) ∧
    ((if win ≠ 0 then win else nocKind opc) = 2 ↔ win = 2 ∨ (win = 0 ∧ opc = opcClrw)) := by
  have hset : nocKind opc = 1 ↔ opc = opcSetw := by
    unfold nocKind
    split_ifs with h1 h2 <;> simp_all
  have hclr : nocKind opc = 2 ↔ opc = opcClrw := by
    unfold nocKind
    split_ifs with h1 h2 <;> simp_all [opcSetw, opcClrw]
  split
  · next h => exact ⟨by simp [h], by simp [h]⟩
  · next h =>
    have h0 : win = 0 := not_not.mp h
    subst h0
    exact ⟨by simp [hset], by simp [hclr]⟩

/-- A permitted write to a scratchpad. -/
theorem nocEnter_padWrite {s : State} {p : NocPacket} {opc : Nat} {x : PadPlace} (hopc : opc ∈ [opcWr, opcSetw, opcClrw])
    (hinit : nocInit p.word0 ≠ 0x35) (hx : padPlace (nocAddr p) = some x) (h : nocReaches s p opc)
    (hgood : serviceGood (nocPassed s p) p (nocSize p) true (nocJoins opc (nocAddr p))) :
    ∃ u : State, s.NetSide u ∧ ((u.padTake x.pair x.pad).modPair x.pair (fun q => q.putBytes x (if x.win ≠ 0 then x.win else nocKind opc)
      (padTo (nocSize p) p.data))).NetSide (s.nocEnter p opc) := by
  have hmem : ∀ o ∈ [opcWr, opcSetw, opcClrw], o ∈ [opcRd, opcWr, opcSetw, opcClrw] ∧ (o != opcRd) = true ∧ o ≠ opcRd := by decide
  obtain ⟨hin, hwrite, hne⟩ := hmem opc hopc
  refine ⟨nocPassed s p, (nocPassed_netOnly s p).netSide, ?_⟩
  rw [State.nocEnter_performs hin (.inr (by rw [hx]; rfl)) h (by rw [hwrite]; exact hgood), State.perform_write _ h.1.1 hne rfl,
    State.wroteFor_other hinit]
  unfold portTaken State.serviceWrite
  rw [hx]
  exact State.ackWrite_netSide _ _ _ _

/-- Settles O47. -/
theorem serviceAccessFrame : Obligations.ServiceAccessFrame := by
  intro s t p
  refine ⟨fun hinit hpad hq ht hreach hgood hexec => ?_, fun x hinit hx e he hreach hgood hexec => ?_, fun c hc hexec => ?_, fun hexec => ?_⟩
  · have hnone : portTaken (nocPassed s p) p = nocPassed s p := by
      unfold portTaken
      rw [hpad]
    have hjoin : nocJoins opcWr (nocAddr p) = false := by
      unfold nocJoins
      rw [hpad]
      rfl
    have hlen := padTo_length (nocSize p) p.data
    have hput : (nocPassed s p).serviceWrite (nocAddr p) 0 (padTo (nocSize p) p.data) =
        { nocPassed s p with hbm := memWrite (nocPassed s p).hbm (nocAddr p) (padTo (nocSize p) p.data) } := by
      unfold State.serviceWrite
      rw [hpad]
      exact State.hbmPut_plain (by rw [hlen]; exact hq) (by rw [hlen]; exact ht)
    have hnext : s.nocEnter p opcWr = t := Host.Outcome.next.inj hexec
    rw [State.nocEnter_performs (by decide) (.inl (by decide)) hreach (by rw [hjoin]; exact hgood),
      State.perform_write _ hreach.1.1 (by decide) (by decide : nocKind opcWr = 0), State.wroteFor_other hinit, hnone, hput] at hnext
    have hside := State.ackWrite_netSide { nocPassed s p with hbm := memWrite (nocPassed s p).hbm (nocAddr p) (padTo (nocSize p) p.data) }
      p.word0 (nocAddr p) (nocSize p)
    have hmem : t.hbm = memWrite s.hbm (nocAddr p) (padTo (nocSize p) p.data) := by
      rw [← hnext, hside, ← (nocPassed_netOnly s p).keeps.1]
    refine ⟨?_, ?_, ?_, ?_, fun b => ?_⟩
    · rw [← hnext, hside, nocPassed_netOnly s p]
    · rw [← hnext, hside, nocPassed_netOnly s p]
    · rw [← hnext, hside, nocPassed_netOnly s p]
    · rw [← hnext, hside, nocPassed_netOnly s p]
    · rw [hmem, memGet_memWrite, hlen]
      split
      · next hb => exact padTo_getD (by omega)
      · rfl
  · have hrow : e.1 ∈ [opcWr, opcSetw, opcClrw] ∧ exec e.2 s = .next (s.nocEnter p e.1) := by
      simp only [List.mem_cons, List.not_mem_nil, or_false] at he
      obtain rfl | rfl | rfl := he <;> exact ⟨by simp, rfl⟩
    obtain ⟨u, hu, hside⟩ := nocEnter_padWrite hrow.1 hinit hx hreach hgood
    rw [Host.Outcome.next.inj (hrow.2.symm.trans hexec)] at hside
    have hword (q k : Nat) : (t.pair q).word k = if q = x.pair then (((u.padTake x.pair x.pad).pair x.pair).putBytes x
        (if x.win ≠ 0 then x.win else nocKind e.1) (padTo (nocSize p) p.data)).word k else (s.pair q).word k := by
      have hsame := ((State.SameMemory.of_netSide hu).trans (u.padTake_sameMemory x.pair x.pad)).2.2.2.2 q k
      rw [(State.SameMemory.of_netSide hside).2.2.2.2 q k, State.pair_modPair]
      split
      · rfl
      · exact hsame
    have hold (k : Nat) : ((u.padTake x.pair x.pad).pair x.pair).word k = (s.pair x.pair).word k :=
      ((State.SameMemory.of_netSide hu).trans (u.padTake_sameMemory x.pair x.pad)).2.2.2.2 x.pair k
    obtain ⟨h1, h2, h3, h4, -⟩ := State.SameMemory.of_netSide hside
    obtain ⟨k1, k2, k3, k4, -⟩ := State.SameMemory.of_netSide hu
    refine ⟨h1.trans k1, h2.trans k2, h3.trans k3, h4.trans k4, fun q key hkey => ?_, fun i hi => ?_⟩
    · rw [hword]
      split
      · next hq =>
        rw [Pair.putBytes_word, padTo_length, if_neg (by omega), hold, hq]
      · rfl
    · dsimp only
      rw [hword, if_pos rfl, Pair.putBytes_word, padTo_length, padKey_add, if_pos (by omega), Nat.add_sub_cancel_left, hold]
      unfold joinKind
      simp only [padKind_iff.1, padKind_iff.2]
  · obtain ⟨opc, hopc, hrow⟩ := exec_readRow (s := s) hc
    rw [← Host.Outcome.next.inj (hrow.symm.trans hexec)]
    exact s.nocEnter_read p hopc
  · rw [← Host.Outcome.next.inj hexec]
    exact s.nocEnter_regWr p

end Sys2Proof.Machine
end

section
/-!
# What completions, vectors, the trace, the acquisition engine and the links leave: the folds and the pastures

One lemma per shared operation of the model that touches neither, as its own `kept` lemmas do for the identity and the fuses.
-/

namespace Sys2Proof.Machine

open Sys2Proof

/-- The folds and the pastures. -/
def State.beds (s : State) : Tab Fold × Tab Pasture := (s.folds, s.pastures)

theorem State.folds_of_beds {s t : State} (h : t.beds = s.beds) : t.folds = s.folds := congrArg Prod.fst h
theorem State.pastures_of_beds {s t : State} (h : t.beds = s.beds) : t.pastures = s.pastures := congrArg Prod.snd h

theorem foldl_beds {α : Type} {g : State → α → State} (h : ∀ s x, (g s x).beds = s.beds) (l : List α) (s : State) :
    (l.foldl g s).beds = s.beds := by
  induction l generalizing s with
  | nil => rfl
  | cons a l ih => exact (ih _).trans (h s a)
@[simp] theorem ite_beds (c : Prop) [Decidable c] (a b : State) :
    (if c then a else b).beds = if c then a.beds else b.beds := apply_ite State.beds c a b

section
variable (s : State)

@[simp] theorem State.modDev_beds (f : Dev → Dev) : (s.modDev f).beds = s.beds := rfl
@[simp] theorem State.modHost_beds (f : HostSide → HostSide) : (s.modHost f).beds = s.beds := rfl
@[simp] theorem State.modNoc_beds (f : Noc → Noc) : (s.modNoc f).beds = s.beds := rfl
@[simp] theorem State.modTrace_beds (f : Trace → Trace) : (s.modTrace f).beds = s.beds := rfl
@[simp] theorem State.modRing_beds (k : Nat) (f : CmdRing → CmdRing) : (s.modRing k f).beds = s.beds := rfl
@[simp] theorem State.modMsix_beds (v : Nat) (f : Msix → Msix) : (s.modMsix v f).beds = s.beds := rfl
@[simp] theorem State.modAcq_beds (p : Nat) (f : Acq → Acq) : (s.modAcq p f).beds = s.beds := rfl
@[simp] theorem State.modSnap_beds (p : Nat) (f : Snap → Snap) : (s.modSnap p f).beds = s.beds := rfl
@[simp] theorem State.modPort_beds (t : Nat) (f : LinkPort → LinkPort) : (s.modPort t f).beds = s.beds := rfl
@[simp] theorem State.send_beds (o : Output) : (s.send o).beds = s.beds := rfl
@[simp] theorem State.msiOut_beds (v : Nat) : (s.msiOut v).beds = s.beds := rfl
@[simp] theorem State.hostWrite_beds (a : Nat) (bs : List Byte) : (s.hostWrite a bs).beds = s.beds := rfl
@[simp] theorem State.logAer_beds : s.logAer.beds = s.beds := rfl
@[simp] theorem State.dropProg_beds (g : Prog) : (s.dropProg g).beds = s.beds := rfl
@[simp] theorem State.sweepSessions_beds : s.sweepSessions.beds = s.beds := rfl
@[simp] theorem State.clearDat_beds : s.clearDat.beds = s.beds := rfl
@[simp] theorem State.enqueue_beds (link ctype body : Nat) (data : List (Nat × List (BitVec 16))) :
    (s.enqueue link ctype body data).beds = s.beds := rfl
@[simp] theorem State.putRecord_beds (p : Nat) (bs : List Byte) : (s.putRecord p bs).beds = s.beds := rfl
@[simp] theorem State.putSample_beds (p : Nat) (h : HeldRec) (blaze post forced : Bool) :
    (s.putSample p h blaze post forced).beds = s.beds := rfl
@[simp] theorem State.snapTruncate_beds (p : Nat) : (s.snapTruncate p).beds = s.beds := rfl
@[simp] theorem State.snapAbandon_beds (p r : Nat) : (s.snapAbandon p r).beds = s.beds := rfl

/-! ### The trace, the vectors and the mode -/

theorem State.TraceOnly.beds {s t : State} (h : s.TraceOnly t) : t.beds = s.beds := by
  rw [h]
  rfl
@[simp] theorem State.traceEvent_beds (bit : Nat) : (s.traceEvent bit).beds = s.beds := (s.traceEvent_traceOnly bit).beds
@[simp] theorem State.logDecision_beds (kind : String) (unit value : Nat) : (s.logDecision kind unit value).beds = s.beds := by
  simp [State.logDecision]
@[simp] theorem State.raiseVector_beds (v : Nat) : (s.raiseVector v).beds = s.beds := by
  simp [State.raiseVector]
@[simp] theorem State.setMode_beds (m : Mode) : (s.setMode m).beds = s.beds := by
  simp [State.setMode]
@[simp] theorem State.settleMode_beds : s.settleMode.beds = s.beds := by
  simp [State.settleMode]

/-! ### Completions -/

@[simp] theorem State.quiesceRing_beds (ring : Nat) : (s.quiesceRing ring).beds = s.beds := by
  simp [State.quiesceRing]
@[simp] theorem State.putEntry_beds (g : Prog) (status len : Nat) (detail ctag : List Byte) :
    (s.putEntry g status len detail ctag).beds = s.beds := by
  simp [State.putEntry]
@[simp] theorem State.writeCpl_beds (j : CplJob) : (s.writeCpl j).beds = s.beds := by
  simp [State.writeCpl]
@[simp] theorem State.finish_beds (j : CplJob) : (s.finish j).beds = s.beds := by
  simp [State.finish]
@[simp] theorem State.finishAll_beds (opcode p status : Nat) : (s.finishAll opcode p status).beds = s.beds :=
  foldl_beds (fun s g => s.finish_beds (plainJob g status [])) _ _

/-! ### The acquisition engine -/

@[simp] theorem State.acqVector_beds (p : Nat) : (s.acqVector p).beds = s.beds := s.raiseVector_beds _
@[simp] theorem State.acqDone_beds (p : Nat) : (s.acqDone p).beds = s.beds := by
  simp [State.acqDone]
@[simp] theorem State.segmentComplete_beds (p : Nat) : (s.segmentComplete p).beds = s.beds := by
  simp [State.segmentComplete]
@[simp] theorem State.landSample_beds (p : Nat) (h : HeldRec) (fires forced : Bool) : (s.landSample p h fires forced).beds = s.beds := by
  unfold State.landSample
  dsimp only
  split <;> simp
@[simp] theorem State.putMarker_beds (p : Nat) (c : Capture) : (s.putMarker p c).beds = s.beds := by
  simp [State.putMarker]
@[simp] theorem State.landHeld_beds (p : Nat) : (s.landHeld p).beds = s.beds := by
  refine (foldl_beds (fun u h => ?_) _ _).trans (s.modAcq_beds p _)
  simp
@[simp] theorem State.acqOne_beds (p : Nat) : (s.acqOne p).beds = s.beds := by
  unfold State.acqOne
  dsimp only
  split
  · rfl
  · simp
@[simp] theorem State.acqDrain_beds (p : Nat) : (s.acqDrain p).beds = s.beds := foldl_beds (fun u _ => u.acqOne_beds p) _ _
@[simp] theorem State.acqRelease_beds (p e : Nat) (t : Option Nat) : (s.acqRelease p e t).beds = s.beds := by
  refine (foldl_beds (fun u h => ?_) _ _).trans (s.modAcq_beds p _)
  simp

/-! ### Snapshots, links and memory -/

@[simp] theorem State.snapClose_beds (p : Nat) : (s.snapClose p).beds = s.beds := by
  unfold State.snapClose
  dsimp only
  split
  · split <;> rfl
  · rfl
@[simp] theorem State.snapLog_beds (p : Nat) (b : IngressBlock) : (s.snapLog p b).beds = s.beds := by
  unfold State.snapLog
  dsimp only
  split
  · split <;> rfl
  · rfl
@[simp] theorem State.snapStart_beds (p r : Nat) : (s.snapStart p r).beds = s.beds := by
  simp [State.snapStart]
@[simp] theorem State.linkTx_beds (link ctype body : Nat) (data : List (Nat × List (BitVec 16))) :
    (s.linkTx link ctype body data).beds = s.beds := by
  simp [State.linkTx]
@[simp] theorem State.releaseDown_beds (p body : Nat) : (s.releaseDown p body).beds = s.beds :=
  foldl_beds (fun u _ => u.linkTx_beds _ _ _ _) _ _
@[simp] theorem State.applyUndo_beds (u : Undo) : (s.applyUndo u).beds = s.beds := by
  cases u <;> rfl

end

end Sys2Proof.Machine
end

section
/-!
# Control faults: recovery, faults and the wait in HOLD and RECOVER (R56, R246, R275–R280)
-/

namespace Sys2Proof.Machine

open Sys2Proof

/-! ### What recovery leaves of the pastures' states -/

/-- The states of all pastures. -/
def State.states (s : State) : Nat → PState := fun p => s.pstate p

theorem State.states_of_beds {s t : State} (h : t.beds = s.beds) : t.states = s.states := by
  unfold State.states State.pstate State.pas
  rw [State.pastures_of_beds h]

theorem foldl_states {α : Type} {g : State → α → State} (h : ∀ s x, (g s x).states = s.states) (l : List α) (s : State) :
    (l.foldl g s).states = s.states := by
  induction l generalizing s with
  | nil => rfl
  | cons a l ih => exact (ih _).trans (h s a)
@[simp] theorem ite_states (c : Prop) [Decidable c] (a b : State) :
    (if c then a else b).states = if c then a.states else b.states := apply_ite State.states c a b

section
variable (s : State)

@[simp] theorem State.modPas_states (p : Nat) {f : Pasture → Pasture} (h : ∀ x, (f x).stat.state = x.stat.state) :
    (s.modPas p f).states = s.states := by
  funext q
  unfold State.states State.pstate
  rw [State.pas_modPas]
  split
  next hq => rw [hq, h]
  · rfl
@[simp] theorem State.modStat_states (p : Nat) {f : PStat → PStat} (h : ∀ x, (f x).state = x.state) :
    (s.modStat p f).states = s.states := s.modPas_states p fun x => h x.stat
@[simp] theorem State.modCk_states (p : Nat) (f : PRing → PRing) : (s.modCk p f).states = s.states := s.modPas_states p fun _ => rfl
@[simp] theorem State.modRun_states (p : Nat) (f : PRun → PRun) : (s.modRun p f).states = s.states := s.modPas_states p fun _ => rfl
@[simp] theorem State.modExt_states (p : Nat) (f : PExt → PExt) : (s.modExt p f).states = s.states := s.modPas_states p fun _ => rfl
@[simp] theorem State.modSpan_states (p : Nat) (f : PSpan → PSpan) : (s.modSpan p f).states = s.states := s.modPas_states p fun _ => rfl
@[simp] theorem State.modPFlow_states (p : Nat) (f : PFlow → PFlow) : (s.modPFlow p f).states = s.states := s.modPas_states p fun _ => rfl
@[simp] theorem State.modFold_states (n : Nat) (f : Fold → Fold) : (s.modFold n f).states = s.states := rfl
@[simp] theorem foldl_modFold_states (l : List Nat) (g : Fold → Fold) : (l.foldl (fun s f => s.modFold f g) s).states = s.states :=
  foldl_states (fun u f => u.modFold_states f g) l s
@[simp] theorem State.modPair_states (n : Nat) (f : Pair → Pair) : (s.modPair n f).states = s.states := rfl
@[simp] theorem State.modPort_states (n : Nat) (f : LinkPort → LinkPort) : (s.modPort n f).states = s.states := rfl
@[simp] theorem State.clearDat_states : s.clearDat.states = s.states := rfl
@[simp] theorem State.noteFault_states (p status : Nat) : (s.noteFault p status).states = s.states := s.modCk_states p _
@[simp] theorem State.setLastStatus_states (p status : Nat) : (s.setLastStatus p status).states = s.states :=
  s.modStat_states p fun _ => rfl
@[simp] theorem State.setReport_states (p : Nat) (r : PFault) : (s.setReport p r).states = s.states := s.modPas_states p fun _ => rfl
@[simp] theorem State.raiseVector_states (v : Nat) : (s.raiseVector v).states = s.states := State.states_of_beds (s.raiseVector_beds v)
@[simp] theorem State.finishAll_states (opcode p status : Nat) : (s.finishAll opcode p status).states = s.states :=
  State.states_of_beds (s.finishAll_beds opcode p status)
@[simp] theorem State.settleMode_states : s.settleMode.states = s.states := State.states_of_beds s.settleMode_beds
@[simp] theorem State.acqDrain_states (p : Nat) : (s.acqDrain p).states = s.states := State.states_of_beds (s.acqDrain_beds p)
@[simp] theorem State.linkTx_states (link ctype body : Nat) (data : List (Nat × List (BitVec 16))) :
    (s.linkTx link ctype body data).states = s.states := State.states_of_beds (s.linkTx_beds link ctype body data)
@[simp] theorem State.releaseDown_states (p body : Nat) : (s.releaseDown p body).states = s.states :=
  State.states_of_beds (s.releaseDown_beds p body)
@[simp] theorem State.snapAbandon_states (p r : Nat) : (s.snapAbandon p r).states = s.states := State.states_of_beds (s.snapAbandon_beds p r)
@[simp] theorem State.applyUndo_states (u : Undo) : (s.applyUndo u).states = s.states := State.states_of_beds (s.applyUndo_beds u)

@[simp] theorem State.pasEvent_states (p bit : Nat) : (s.pasEvent p bit).states = s.states := by
  simp [State.pasEvent]
@[simp] theorem State.undoHbm_states (p e addr : Nat) : (s.undoHbm p e addr).states = s.states := by
  simp [State.undoHbm]
@[simp] theorem State.dmWrite_states (p : Nat) (r : DmReq) : (s.dmWrite p r).states = s.states :=
  s.undoHbm_states p r.ecycle r.addr
@[simp] theorem State.dmFlush_states (p : Nat) : (s.dmFlush p).states = s.states := by
  refine (foldl_states (fun u f => u.modFold_states f _) _ _).trans (foldl_states (fun u e => ?_) _ _)
  exact foldl_states (fun v f => foldl_states (fun w r => w.dmWrite_states p r) _ _) _ _
@[simp] theorem State.quiesce_states (p : Nat) : (s.quiesce p).states = s.states := by
  unfold State.quiesce
  dsimp only
  refine (foldl_states ?_ _ _).trans ?_
  · exact fun u t => u.modPort_states _ _
  · simp only [State.modRun_states, State.modPas_states, implies_true]
    exact (foldl_states (fun u q => u.modPair_states q _) _ _).trans (s.dmFlush_states p)
@[simp] theorem State.trimLog_states (p r : Nat) : (s.trimLog p r).states = s.states := s.modPas_states p fun _ => rfl
@[simp] theorem State.promote_states (p : Nat) : (s.promote p).states = s.states := by
  simp [State.promote]
@[simp] theorem State.returnEvent_states (p : Nat) : (s.returnEvent p).states = s.states := by
  simp [State.returnEvent]
@[simp] theorem State.rollback_states (p : Nat) (useK : Bool) : (s.rollback p useK).states = s.states := by
  unfold State.rollback
  dsimp only
  simp only [State.modStat_states, State.snapAbandon_states, State.modPFlow_states, State.modRun_states, State.modSpan_states,
    State.modCk_states, foldl_modFold_states, implies_true]
  refine (foldl_states (fun u x => u.applyUndo_states x) _ _).trans ?_
  simp
@[simp] theorem State.rewriteStores_states (p : Nat) : (s.rewriteStores p).states = s.states :=
  foldl_states (fun u f => u.modFold_states f _) _ _
@[simp] theorem State.resend_states (p r : Nat) : (s.resend p r).states = s.states := s.modPas_states p fun _ => rfl
@[simp] theorem State.replayFrom_states (p r : Nat) : (s.replayFrom p r).states = s.states := s.modPas_states p fun _ => rfl
@[simp] theorem State.sendArrive_states (p : Nat) : (s.sendArrive p).states = s.states := by
  unfold State.sendArrive
  split
  · rfl
  · simp
@[simp] theorem State.restoreRing_states (p : Nat) (useK : Bool) : (s.restoreRing p useK).states = s.states := by
  simp [State.restoreRing]
@[simp] theorem State.chooseStep_states (p : Nat) : (s.chooseStep p).states = s.states := by
  unfold State.chooseStep
  dsimp only
  split
  · rfl
  · split <;> simp

/-! ### The state that a pasture is put in -/

theorem State.setPState_pstate (p : Nat) (st : PState) : (s.setPState p st).pstate p = st := by
  unfold State.setPState
  split
  · assumption
  · dsimp only
    have hput (f : PStat → PStat) (hf : ∀ x, (f x).state = st) : (s.modStat p f).states p = st := by
      unfold State.states State.pstate
      rw [State.pas_modStat, if_pos rfl]
      exact hf _
    refine Eq.trans (congrFun (State.settleMode_states _) p) ?_
    split
    all_goals
      simp only [State.finishAll_states, State.clearDat_states, State.pasEvent_states]
      exact hput _ fun _ => rfl

theorem State.beginRecovery_pstate (p status faults : Nat) : (s.beginRecovery p status faults).pstate p = .recovering := by
  have hstop (u : State) : ((u.setPState p .recovering).quiesce p).states p = .recovering := by
    rw [State.quiesce_states]
    exact u.setPState_pstate p .recovering
  unfold State.beginRecovery
  dsimp only
  split
  · refine (congrFun (State.chooseStep_states _ p) p).trans ?_
    rw [State.modSpan_states]
    exact hstop _
  · exact (congrFun (State.restoreRing_states _ p true) p).trans (hstop _)

/-- The states in which a pasture can fault. -/
def PState.faults (st : PState) : Prop := ¬ (st = .empty ∨ st = .draining ∨ st = .faulted ∨ st = .loading)

theorem State.faultPas_pstate {s : State} {p : Nat} (h : (s.pstate p).faults) (status : Nat) (port : Option Nat) :
    (s.faultPas p status port).pstate p = .faulted := by
  unfold State.faultPas
  dsimp only
  rw [if_neg h]
  have hput (u : State) : (((u.setPState p .faulted).setLastStatus p status).pasEvent p pevFault).states p = .faulted := by
    rw [State.pasEvent_states, State.setLastStatus_states]
    exact u.setPState_pstate p .faulted
  split
  · exact (congrFun (foldl_states (fun u t => u.linkTx_states _ _ _ _) _ _) p).trans (hput _)
  · exact hput _

theorem State.faultReported_spec {s : State} {p : Nat} (h : (s.pstate p).faults) (r : PFault) :
    (s.faultReported p r).pstate p = .faulted ∧ ((s.faultReported p r).pas p).fault = r := by
  have heq : s.faultReported p r = (s.faultPas p r.status none).setReport p r := if_neg h
  rw [heq]
  refine ⟨?_, ?_⟩
  · exact (congrFun (State.setReport_states _ p r) p).trans (State.faultPas_pstate h r.status none)
  · unfold State.setReport
    rw [State.pas_modPas, if_pos rfl]

end

/-! ### Control faults -/

theorem PState.faults_of_mem {st : PState} (h : st ∈ [PState.loaded, .running, .stepping, .frozen, .recovering]) : st.faults := by
  unfold PState.faults
  revert h
  cases st <;> decide

section
variable {s : State} {p : Nat} (hst : s.pstate p ∈ [PState.loaded, .running, .stepping, .frozen]) (status : Nat) (port : Option Nat)
include hst

theorem State.controlFault_waits (h : s.faultWaits = true) :
    s.controlFault p status port = s.modDev (fun d => { d with holdFaults := d.holdFaults ++ [(p, status)] }) := by
  unfold State.controlFault
  simp only [List.mem_cons, List.not_mem_nil, or_false] at hst
  obtain h' | h' | h' | h' := hst <;> rw [h'] <;> exact if_pos h

theorem State.controlFault_noRings (h : s.faultWaits = false) (hr : s.ringsOn p = false) :
    s.controlFault p status port = s.faultPas p status port := by
  unfold State.controlFault
  rw [h, hr]
  simp only [List.mem_cons, List.not_mem_nil, or_false] at hst
  obtain h' | h' | h' | h' := hst <;> rw [h'] <;> rfl

theorem State.controlFault_recovers (h : s.faultWaits = false) (hr : s.ringsOn p = true) (hrec : (s.pas p).ck.recovery = none) :
    (s.controlFault p status port).pstate p = .recovering := by
  unfold State.controlFault
  dsimp only
  rw [h, hr, hrec]
  simp only [List.mem_cons, List.not_mem_nil, or_false] at hst
  have hfirst : ¬ 3 ≤ ((none : Option Recovery).map (fun r => r.faults + 1)).getD 1 := by decide
  obtain h' | h' | h' | h' := hst <;> rw [h'] <;> dsimp only <;> rw [if_neg Bool.false_ne_true, if_pos rfl, if_neg hfirst] <;>
    exact State.beginRecovery_pstate _ _ _ _

end

/-- What a control fault of a pasture that is not in a recovery does. -/
theorem State.controlFault_spec {s : State} {p : Nat} (hst : s.pstate p ∈ [PState.loaded, .running, .stepping, .frozen])
    (hrec : (s.pas p).ck.recovery = none) (status : Nat) :
    (s.dev.mode ≠ .hold → s.dev.mode ≠ .recover → s.ringsOn p = true → (s.controlFault p status none).pstate p = .recovering) ∧
    (s.dev.mode ≠ .hold → s.dev.mode ≠ .recover → s.ringsOn p = false → (s.controlFault p status none).pstate p = .faulted) ∧
    (s.dev.mode = .hold ∨ s.dev.mode = .recover → (s.controlFault p status none).pastures = s.pastures ∧
      ∃ v, (s.controlFault p status none).dev.holdFaults = s.dev.holdFaults ++ [(p, v)]) := by
  have hgo (h1 : s.dev.mode ≠ .hold) (h2 : s.dev.mode ≠ .recover) : s.faultWaits = false := by
    simp [State.faultWaits, h1, h2]
  refine ⟨fun h1 h2 hr => State.controlFault_recovers hst status none (hgo h1 h2) hr hrec, fun h1 h2 hr => ?_, fun h => ?_⟩
  · rw [State.controlFault_noRings hst status none (hgo h1 h2) hr]
    refine State.faultPas_pstate (PState.faults_of_mem ?_) status none
    exact List.mem_append_left [PState.recovering] hst
  · have hw : s.faultWaits = true := by simpa [State.faultWaits] using h
    rw [State.controlFault_waits hst status none hw]
    exact ⟨rfl, status, rfl⟩

/-- The pasture that a control fault's source names has it. -/
theorem exec_controlFault_spec {s : State} {src : FaultSource} {p : Nat}
    (hsrc : (∃ f slot bp b, src = .storeDbe f slot bp b ∧ (s.fold f).pasture = some p) ∨
      (∃ f, src = .seqParity f ∧ (s.fold f).pasture = some p) ∨ (∃ n, src = .treeParity n ∧ s.treeUsers n = [p]) ∨
      src ∈ [.barrierParity p, .linkControl p, .serviceParity p]) :
    ∃ u status, exec (.controlFault src) s = .next (State.controlFault u p status none) ∧ u.pastures = s.pastures ∧ u.dev = s.dev := by
  obtain ⟨f, slot, bp, b, rfl, hf⟩ | ⟨f, rfl, hf⟩ | ⟨n, rfl, hn⟩ | hmem := hsrc
  · refine ⟨s.modFold f (fun x => { x with ecc := x.ecc.note slot bp true b }), 0x0601, congrArg Host.Outcome.next ?_, rfl, rfl⟩
    unfold State.storeDbe
    simp only [State.fold_modFold_self, hf]
  · refine ⟨s, 0x0602, ?_, rfl, rfl⟩
    change Host.Outcome.next _ = _
    dsimp only
    rw [hf]
  · refine ⟨s, 0x0606, ?_, rfl, rfl⟩
    change Host.Outcome.next ((s.treeUsers n).foldl _ s) = _
    rw [hn]
    rfl
  · simp only [List.mem_cons, List.not_mem_nil, or_false] at hmem
    obtain rfl | rfl | rfl := hmem <;> exact ⟨s, _, rfl, rfl, rfl⟩

/-- The report of an image copy that fails its check (R56). -/
def State.imageReport (s : State) (f slot p : Nat) : PFault :=
  { status := 0x0603, unit := f, slot := slot, index := 0, fields := 0, dir := false, valid := true
    ecycle := if s.pstate p = .recovering then (s.pas p).ck.faultEcy else (s.pas p).stat.ecycle }

theorem State.imageCopyFault_eq {s : State} {f p : Nat} (slot : Nat) (h : (s.fold f).pasture = some p) :
    ∃ g, s.imageCopyFault f slot = (s.faultReported p (s.imageReport f slot p)).modCk p g := by
  unfold State.imageCopyFault
  rw [h]
  exact ⟨_, rfl⟩

/-- Settles O37. -/
theorem controlFaultRecoversOrFaults : Obligations.ControlFaultRecoversOrFaults := by
  refine ⟨fun s src p hsrc hst hrec => ?_, fun s n => rfl, fun s f slot p bp => ⟨fun hnew => ?_, fun hf hst => ?_⟩⟩
  · obtain ⟨u, status, hexec, hpas, hdev⟩ := exec_controlFault_spec hsrc
    have hp : u.pas p = s.pas p := by
      unfold State.pas
      rw [hpas]
    have hspec := State.controlFault_spec (s := u) (p := p) (by unfold State.pstate; rw [hp]; exact hst) (by rw [hp]; exact hrec) status
    unfold State.ringsOn at hspec ⊢
    rw [hdev, hpas, hp] at hspec
    exact ⟨_, hexec, hspec⟩
  · refine congrArg Host.Outcome.next ?_
    unfold State.storeSbe State.modFold
    refine congrArg (fun t => { s with folds := t }) ?_
    unfold tmod
    have hno : ¬ (tget s.folds Fold.init f).ecc.errs.contains (slot, bp, false) = true := by
      simpa [State.fold] using hnew
    dsimp only
    rw [if_neg hno]
  · obtain ⟨g, hcopy⟩ := State.imageCopyFault_eq slot hf
    have hspec := State.faultReported_spec (PState.faults_of_mem hst) (s.imageReport f slot p)
    refine ⟨_, congrArg Host.Outcome.next hcopy, ?_, ?_⟩
    · exact (congrFun (State.modCk_states _ p g) p).trans hspec.1
    · simp only [State.pas_modCk, if_pos]
      rw [hspec.2]
      exact ⟨rfl, rfl, rfl, rfl⟩

end Sys2Proof.Machine
end

section
/-!
# A release swaps the state entries (R38, R53)
-/

namespace Sys2Proof.Machine

open Sys2Proof

/-! ### What a release leaves of the folds' entries and of the pastures' compilations, but for the swap -/

/-- The entries, the store and the sequencer of a fold. -/
def Fold.core (x : Fold) : Nrf × FoldStore × FoldSeq := (x.nrf, x.store, x.seq)

/-- The cores of all folds and the compilations of all pastures. -/
def State.layout (s : State) : (Nat → Nrf × FoldStore × FoldSeq) × (Nat → PComp) := (fun f => (s.fold f).core, fun p => (s.pas p).comp)

theorem State.layout_of_beds {s t : State} (h : t.beds = s.beds) : t.layout = s.layout := by
  unfold State.layout State.fold State.pas
  rw [State.folds_of_beds h, State.pastures_of_beds h]

theorem State.pasFolds_of_layout {s t : State} (h : t.layout = s.layout) (p : Nat) : t.pasFolds p = s.pasFolds p :=
  congrArg (fun c : PComp => foldsOf c.pairs) (congrFun (congrArg Prod.snd h) p)
theorem State.core_of_layout {s t : State} (h : t.layout = s.layout) (f : Nat) : (t.fold f).core = (s.fold f).core :=
  congrFun (congrArg Prod.fst h) f

theorem foldl_layout {α : Type} {g : State → α → State} (h : ∀ s x, (g s x).layout = s.layout) (l : List α) (s : State) :
    (l.foldl g s).layout = s.layout := by
  induction l generalizing s with
  | nil => rfl
  | cons a l ih => exact (ih _).trans (h s a)
@[simp] theorem ite_layout (c : Prop) [Decidable c] (a b : State) :
    (if c then a else b).layout = if c then a.layout else b.layout := apply_ite State.layout c a b

section
variable (s : State)

@[simp] theorem State.modPas_layout (p : Nat) {f : Pasture → Pasture} (h : ∀ x, (f x).comp = x.comp) :
    (s.modPas p f).layout = s.layout := by
  refine Prod.ext rfl (funext fun q => ?_)
  unfold State.layout
  dsimp only
  rw [State.pas_modPas]
  split
  next hq => rw [hq, h]
  · rfl
@[simp] theorem State.modFold_layout (n : Nat) {f : Fold → Fold} (h : ∀ x, (f x).core = x.core) :
    (s.modFold n f).layout = s.layout := by
  refine Prod.ext (funext fun q => ?_) rfl
  unfold State.layout
  dsimp only
  rw [State.fold_modFold]
  split
  next hq => rw [hq, h]
  · rfl
@[simp] theorem State.modStat_layout (p : Nat) (f : PStat → PStat) : (s.modStat p f).layout = s.layout := s.modPas_layout p fun _ => rfl
@[simp] theorem State.modCk_layout (p : Nat) (f : PRing → PRing) : (s.modCk p f).layout = s.layout := s.modPas_layout p fun _ => rfl
@[simp] theorem State.modRun_layout (p : Nat) (f : PRun → PRun) : (s.modRun p f).layout = s.layout := s.modPas_layout p fun _ => rfl
@[simp] theorem State.modExt_layout (p : Nat) (f : PExt → PExt) : (s.modExt p f).layout = s.layout := s.modPas_layout p fun _ => rfl
@[simp] theorem State.modSpan_layout (p : Nat) (f : PSpan → PSpan) : (s.modSpan p f).layout = s.layout := s.modPas_layout p fun _ => rfl
@[simp] theorem State.modPFlow_layout (p : Nat) (f : PFlow → PFlow) : (s.modPFlow p f).layout = s.layout := s.modPas_layout p fun _ => rfl
@[simp] theorem State.modWdog_layout (p : Nat) (f : PWdog → PWdog) : (s.modWdog p f).layout = s.layout := s.modPas_layout p fun _ => rfl
@[simp] theorem State.noteFault_layout (p status : Nat) : (s.noteFault p status).layout = s.layout := s.modCk_layout p _
@[simp] theorem State.setLastStatus_layout (p status : Nat) : (s.setLastStatus p status).layout = s.layout := s.modStat_layout p _
@[simp] theorem State.setReport_layout (p : Nat) (r : PFault) : (s.setReport p r).layout = s.layout := s.modPas_layout p fun _ => rfl
@[simp] theorem State.trimLog_layout (p r : Nat) : (s.trimLog p r).layout = s.layout := s.modPas_layout p fun _ => rfl

@[simp] theorem State.modAcq_layout (p : Nat) (f : Acq → Acq) : (s.modAcq p f).layout = s.layout := rfl
@[simp] theorem State.modQueue_layout (q : Nat) (f : Queue → Queue) : (s.modQueue q f).layout = s.layout := rfl
@[simp] theorem State.modTask_layout (t : Nat) (f : Task → Task) : (s.modTask t f).layout = s.layout := rfl
@[simp] theorem State.clearDat_layout : s.clearDat.layout = s.layout := rfl
@[simp] theorem State.popEntry_layout (q : Nat) : (s.popEntry q).2.layout = s.layout := rfl
@[simp] theorem State.raiseVector_layout (v : Nat) : (s.raiseVector v).layout = s.layout := State.layout_of_beds (s.raiseVector_beds v)
@[simp] theorem State.logDecision_layout (kind : String) (unit value : Nat) : (s.logDecision kind unit value).layout = s.layout :=
  State.layout_of_beds (s.logDecision_beds kind unit value)
@[simp] theorem State.finishAll_layout (opcode p status : Nat) : (s.finishAll opcode p status).layout = s.layout :=
  State.layout_of_beds (s.finishAll_beds opcode p status)
@[simp] theorem State.settleMode_layout : s.settleMode.layout = s.layout := State.layout_of_beds s.settleMode_beds
@[simp] theorem State.acqDrain_layout (p : Nat) : (s.acqDrain p).layout = s.layout := State.layout_of_beds (s.acqDrain_beds p)
@[simp] theorem State.acqRelease_layout (p e : Nat) (t : Option Nat) : (s.acqRelease p e t).layout = s.layout :=
  State.layout_of_beds (s.acqRelease_beds p e t)
@[simp] theorem State.snapClose_layout (p : Nat) : (s.snapClose p).layout = s.layout := State.layout_of_beds (s.snapClose_beds p)
@[simp] theorem State.snapLog_layout (p : Nat) (b : IngressBlock) : (s.snapLog p b).layout = s.layout :=
  State.layout_of_beds (s.snapLog_beds p b)
@[simp] theorem State.snapStart_layout (p r : Nat) : (s.snapStart p r).layout = s.layout := State.layout_of_beds (s.snapStart_beds p r)
@[simp] theorem State.linkTx_layout (link ctype body : Nat) (data : List (Nat × List (BitVec 16))) :
    (s.linkTx link ctype body data).layout = s.layout := State.layout_of_beds (s.linkTx_beds link ctype body data)
@[simp] theorem State.releaseDown_layout (p body : Nat) : (s.releaseDown p body).layout = s.layout :=
  State.layout_of_beds (s.releaseDown_beds p body)

/-! ### Faults -/

@[simp] theorem State.pasEvent_layout (p bit : Nat) : (s.pasEvent p bit).layout = s.layout := by
  simp [State.pasEvent]
@[simp] theorem State.setPState_layout (p : Nat) (st : PState) : (s.setPState p st).layout = s.layout := by
  unfold State.setPState
  cases st <;> simp
@[simp] theorem State.faultPas_layout (p status : Nat) (port : Option Nat) : (s.faultPas p status port).layout = s.layout := by
  simp [State.faultPas, foldl_layout]
@[simp] theorem State.faultReported_layout (p : Nat) (r : PFault) : (s.faultReported p r).layout = s.layout := by
  simp [State.faultReported]
@[simp] theorem State.portFault_layout (p : Nat) (f : FlowPort) (take : Bool) : (s.portFault p f take).layout = s.layout :=
  s.faultReported_layout p _

/-! ### Flow admissions -/

@[simp] theorem State.makeReady_layout (t : Nat) : (s.makeReady t).layout = s.layout := by
  unfold State.makeReady
  dsimp only
  split <;> simp
@[simp] theorem State.setEarlySat_layout (p : Nat) : (s.setEarlySat p).layout = s.layout := by
  simp [State.setEarlySat]
@[simp] theorem State.taskDec_layout (t : Nat) : (s.taskDec t).layout = s.layout := by
  unfold State.taskDec
  dsimp only
  split
  · rfl
  · split <;> simp
@[simp] theorem State.queueEvent_layout (q : Nat) : (s.queueEvent q).layout = s.layout := by
  simp [State.queueEvent]
@[simp] theorem State.rearm_layout (t : Nat) : (s.rearm t).layout = s.layout := by
  simp [State.rearm]
@[simp] theorem State.tallyRun_layout (t moved ns engine : Nat) : (s.tallyRun t moved ns engine).layout = s.layout := s.modTask_layout t _
@[simp] theorem State.unpark_layout (t : Nat) : (s.unpark t).layout = s.layout := by
  simp [State.unpark]
@[simp] theorem State.headAdvanced_layout (q : Nat) : (s.headAdvanced q).layout = s.layout := by
  refine foldl_layout ?_ _ _
  exact fun u e => u.unpark_layout e.1
@[simp] theorem State.undoHbm_layout (p e addr : Nat) : (s.undoHbm p e addr).layout = s.layout := by
  simp [State.undoHbm]
@[simp] theorem State.writeDesign_layout (p e addr : Nat) (bs : List Byte) : (s.writeDesign p e addr bs).layout = s.layout := by
  have h : (if bs.isEmpty then s else (List.range ((addr + bs.length - 1) / 8 + 1 - addr / 8)).foldl
      (fun s i => s.undoHbm p e (8 * (addr / 8 + i))) s).layout = s.layout := by
    rw [ite_layout, foldl_layout (fun u i => u.undoHbm_layout p e _), ite_self]
  exact h
@[simp] theorem State.admitEntry_layout (p : Nat) (f : FlowPort) (win m : Nat) (bs : List Byte) : (s.admitEntry p f win m bs).layout = s.layout :=
  s.writeDesign_layout p _ _ bs
@[simp] theorem State.logIngress_layout (p : Nat) (f : IngressBlock → IngressBlock) : (s.logIngress p f).layout = s.layout := by
  simp [State.logIngress]
@[simp] theorem State.admitLive_layout (p : Nat) (f : FlowPort) (win admitted taken n : Nat) :
    (s.admitLive p f win admitted taken n).1.layout = s.layout := by
  induction n generalizing s admitted with
  | zero => rfl
  | succ n ih =>
    unfold State.admitLive
    dsimp only
    split
    · rfl
    · simp [ih]
@[simp] theorem State.admitLogged_layout (p : Nat) (f : FlowPort) (win admitted : Nat) (es : List (List Byte)) :
    (s.admitLogged p f win admitted es).layout = s.layout := by
  refine foldl_layout ?_ _ _
  exact fun u e => u.admitEntry_layout p f win _ _
@[simp] theorem State.admitPort_layout (p : Nat) (f : FlowPort) : (s.admitPort p f).layout = s.layout := by
  unfold State.admitPort
  dsimp only
  split
  · rfl
  · split
    · simp
    · split
      · simp
      · split
        · split <;> simp
        · simp
@[simp] theorem State.flowAdmit_layout (p : Nat) : (s.flowAdmit p).layout = s.layout := foldl_layout (fun u f => u.admitPort_layout p f) _ _

/-! ### Ring points and captures -/

@[simp] theorem foldl_modFold_layout (l : List Nat) {g : Fold → Fold} (h : ∀ x, (g x).core = x.core) :
    (l.foldl (fun s f => s.modFold f g) s).layout = s.layout := foldl_layout (fun u f => u.modFold_layout f h) l s
@[simp] theorem State.promote_layout (p : Nat) : (s.promote p).layout = s.layout := by
  unfold State.promote
  dsimp only
  rw [foldl_modFold_layout]
  · simp
  · exact fun _ => rfl
@[simp] theorem State.openRing_layout (p b : Nat) : (s.openRing p b).layout = s.layout := by
  unfold State.openRing
  dsimp only
  rw [foldl_modFold_layout]
  · simp
  · exact fun _ => rfl
@[simp] theorem State.openBlock_layout (p b : Nat) (ring : Bool) : (s.openBlock p b ring).layout = s.layout := by
  simp [State.openBlock]
@[simp] theorem State.capture_layout (p e asserts stallMax : Nat) : (s.capture p e asserts stallMax).layout = s.layout := by
  simp [State.capture]
@[simp] theorem State.countRing_layout (p cause : Nat) : (s.countRing p cause).layout = s.layout := by
  simp [State.countRing]

end

/-! ### The swap -/

/-- A fold that has been released, with these next values and this store: at slot 0, and each state entry has its next value. -/
def Fold.Swapped (nxt : Tab Bool) (st : FoldStore) (x : Fold) : Prop :=
  x.seq.slot = 0 ∧ x.seq.arrived = false ∧ x.nrf.nxt = nxt ∧ x.store = st ∧
    ∀ k, tget st.smap false k = true → tget x.nrf.cur false k = tget nxt false k

/-- Entries copied from one table to another by a map of flags: a flagged entry has its new value. -/
theorem tget_foldl_copy (l nxt cur : Tab Bool) (k : Nat) (h : tget l false k = true ∨ tget cur false k = tget nxt false k) :
    tget (l.foldl (fun t e => if e.2 then tput t false e.1 (tget nxt false e.1) else t) cur) false k = tget nxt false k := by
  induction l generalizing cur with
  | nil => exact h.resolve_left Bool.false_ne_true
  | cons e l ih =>
    obtain ⟨j, b⟩ := e
    refine ih _ ?_
    by_cases hj : j = k
    · subst hj
      cases b with
      | true => exact .inr (tget_tput_self ..)
      | false => exact .inr (h.resolve_left (by simp [tget]))
    · refine h.imp (fun hl => by simpa [tget, hj] using hl) (fun hc => ?_)
      cases b with
      | true => exact (tget_tput_ne _ _ _ (Ne.symm hj)).trans hc
      | false => exact hc

/-- A swap leaves the next values and the store. -/
theorem Fold.swap_keeps (x : Fold) (b : Nat) (ring : Bool) : (x.swap b ring).nrf.nxt = x.nrf.nxt ∧ (x.swap b ring).store = x.store := by
  unfold Fold.swap
  dsimp only
  split <;> exact ⟨rfl, rfl⟩

theorem Fold.swap_swapped (x : Fold) (b : Nat) (ring : Bool) : (x.swap b ring).Swapped x.nrf.nxt x.store := by
  obtain ⟨hnxt, hstore⟩ := x.swap_keeps b ring
  refine ⟨rfl, rfl, hnxt, hstore, fun k hk => ?_⟩
  unfold Fold.swap
  dsimp only
  split <;> exact tget_foldl_copy _ _ _ k (.inl hk)

/-- After the swap of a list of folds, each of them is swapped. -/
theorem State.foldl_swap {b : Nat} {ring : Bool} {l : List Nat} {f : Nat} (hf : f ∈ l) (s : State) :
    ((l.foldl (fun s f => s.modFold f (fun x => x.swap b ring)) s).fold f).Swapped (s.fold f).nrf.nxt (s.fold f).store := by
  induction l generalizing s with
  | nil => cases hf
  | cons a l ih =>
    rw [List.foldl_cons]
    by_cases ha : f = a
    · subst ha
      refine State.foldl_modFold_stays (q := fun x => x.Swapped (s.fold f).nrf.nxt (s.fold f).store) (fun x hx => ?_) l ?_
      · obtain ⟨-, -, hnxt, hstore, -⟩ := hx
        have h := x.swap_swapped b ring
        rwa [hnxt, hstore] at h
      · rw [State.fold_modFold_self]
        exact Fold.swap_swapped _ b ring
    · have h := ih ((List.mem_cons.mp hf).resolve_left ha) (s.modFold a (fun x => x.swap b ring))
      rwa [State.fold_modFold, if_neg ha] at h

theorem Fold.Swapped.of_core {n : Tab Bool} {st : FoldStore} {x y : Fold} (h : x.Swapped n st) (hcore : y.core = x.core) : y.Swapped n st := by
  unfold Fold.Swapped
  have hnrf : y.nrf = x.nrf := congrArg Prod.fst hcore
  have hstore : y.store = x.store := congrArg (fun c => c.2.1) hcore
  have hseq : y.seq = x.seq := congrArg (fun c => c.2.2) hcore
  rw [hnrf, hstore, hseq]
  exact h

/-- A release that does not leave its pasture FAULTED swaps its folds. -/
theorem State.releaseBarrier_swapped {s : State} {p f : Nat} (ring kAnnounced trig : Bool) (hf : f ∈ s.pasFolds p)
    (hgood : (s.releaseBarrier p ring kAnnounced trig).pstate p ≠ .faulted) :
    ((s.releaseBarrier p ring kAnnounced trig).fold f).Swapped (s.fold f).nrf.nxt (s.fold f).store := by
  unfold State.releaseBarrier at hgood ⊢
  dsimp only at hgood ⊢
  generalize hu : State.flowAdmit _ p = u at hgood ⊢
  have hlay : u.layout = s.layout := by
    rw [← hu, State.flowAdmit_layout, State.openBlock_layout, ite_layout, State.openRing_layout, ite_self]
    split <;> simp
  by_cases hfault : u.pstate p = .faulted
  · rw [if_pos hfault] at hgood
    exact absurd hfault hgood
  · rw [if_neg hfault]
    have hcore := State.core_of_layout hlay f
    have hnxt : (u.fold f).nrf.nxt = (s.fold f).nrf.nxt := congrArg (fun c => c.1.nxt) hcore
    have hstore : (u.fold f).store = (s.fold f).store := congrArg (fun c => c.2.1) hcore
    have hswap := State.foldl_swap (b := (s.pas p).stat.ecycle) (ring := ring) (State.pasFolds_of_layout hlay p ▸ hf) u
    rw [hnxt, hstore] at hswap
    refine hswap.of_core (State.core_of_layout ?_ f)
    simp

theorem State.releaseBarrier_swapped_of_layout {s u : State} {p f : Nat} (hlay : u.layout = s.layout) (ring kAnnounced trig : Bool)
    (hf : f ∈ s.pasFolds p) (hgood : (u.releaseBarrier p ring kAnnounced trig).pstate p ≠ .faulted) :
    ((u.releaseBarrier p ring kAnnounced trig).fold f).Swapped (s.fold f).nrf.nxt (s.fold f).store := by
  have hcore := State.core_of_layout hlay f
  have hnxt : (u.fold f).nrf.nxt = (s.fold f).nrf.nxt := congrArg (fun c => c.1.nxt) hcore
  have hstore : (u.fold f).store = (s.fold f).store := congrArg (fun c => c.2.1) hcore
  rw [← hnxt, ← hstore]
  exact State.releaseBarrier_swapped ring kAnnounced trig ((State.pasFolds_of_layout hlay p).symm ▸ hf) hgood

/-- A root's release that does not leave its pasture FAULTED swaps its folds. -/
theorem State.rootRelease_swapped {s : State} {p f : Nat} (hf : f ∈ s.pasFolds p) (hgood : (s.rootRelease p).pstate p ≠ .faulted) :
    ((s.rootRelease p).fold f).Swapped (s.fold f).nrf.nxt (s.fold f).store := by
  unfold State.rootRelease at hgood ⊢
  dsimp only at hgood ⊢
  generalize hv : State.releaseBarrier _ p _ _ _ = v at hgood ⊢
  have hstate : v.pstate p ≠ .faulted := fun h => hgood (by rw [if_pos h]; exact h)
  have hswap : (v.fold f).Swapped (s.fold f).nrf.nxt (s.fold f).store := by
    rw [← hv] at hstate ⊢
    refine State.releaseBarrier_swapped_of_layout ?_ _ _ _ hf hstate
    split <;> simp
  refine hswap.of_core ?_
  rw [if_neg hstate]
  exact State.core_of_layout (v.releaseDown_layout _ _) f

/-- Settles O33. -/
theorem releaseSwapsState : Obligations.ReleaseSwapsState := by
  intro s t p f k hroot hready hwait hexec hgood hf
  have hrel := State.tryRelease_root hroot hready (.inl hwait)
  rw [← Host.Outcome.next.inj hexec, hrel] at hgood ⊢
  generalize hu : (if (s.pas p).releasing = true then s else s.modExt p (fun x => { x with latched := false })) = u at hgood ⊢
  have hlay : u.layout = s.layout := by
    rw [← hu]
    simp
  have hcore := State.core_of_layout hlay f
  have hnrf : (u.fold f).nrf = (s.fold f).nrf := congrArg Prod.fst hcore
  have hstore : (u.fold f).store = (s.fold f).store := congrArg (fun c => c.2.1) hcore
  obtain ⟨hslot, harr, hnxt, -, hcur⟩ := State.rootRelease_swapped ((State.pasFolds_of_layout hlay p).symm ▸ hf) hgood
  rw [hnrf] at hnxt hcur
  rw [hstore] at hcur
  exact ⟨hslot, harr, hnxt, hcur k⟩

end Sys2Proof.Machine
end
